-- ==== Sys2Proof/Word.lean ====
section
/-! DEFINITION. The word types of the device and the group width. -/

namespace Sys2Proof

/-- One byte of memory, of a packet or of a register block. -/
abbrev Byte := BitVec 8
/-- A 32-bit register, lane word element or device register. -/
abbrev W32 := BitVec 32
/-- A 64-bit scalar register, instruction word or descriptor. -/
abbrev W64 := BitVec 64
/-- One 256-byte flit (R23), byte 0 in the low bits (R3). -/
abbrev Flit := BitVec 2048
/-- One 16-byte unit of a data flit (R26). -/
abbrev Unit16 := BitVec 128
/-- A set of lanes, bit L for lane L (R194); W is 32 on this part (R2). -/
abbrev Lanes := BitVec 32

/-- A finite table from numbers to values, held as key and value pairs with rising keys and with no
entry equal to the value an unlisted key reads as. -/
abbrev Tbl (α : Type) := List (Nat × α)

/-- The group width W of this part (R2). -/
def width : Nat := 32
/-- log2 W (R2). -/
def logWidth : Nat := 5

end Sys2Proof
end

