-- ==== Sys2Proof/Syntax.lean ====
section
/-! DEFINITION. The steps of the device: the instruction words of R307 to R331, and the events of the
rows of the opcode table that have no encoding, each with what the outside world supplies to it. -/

namespace Sys2Proof

/-- Operand types of the V form, TYPE codes 0 to 11 in this order (R311). -/
inductive Ty where
  | i32 | n32 | i64 | n64 | i16x2 | n16x2 | i8x4 | n8x4 | f32 | f16x2 | bf16x2 | f64
  deriving DecidableEq, Repr

/-- Destination scales, DSC codes 0 to 6 in this order (R309). -/
inductive Dsc where
  | one | x2 | x4 | x8 | d2 | d4 | d8
  deriving DecidableEq, Repr

/-- Scopes, SCOPE codes 0 to 4 in this order (R316). -/
inductive Scope where
  | plain | team | cluster | device | system
  deriving DecidableEq, Repr

/-- Access sizes, SIZE codes 0 to 5 in this order (R316). -/
inductive Size where
  | b8 | b16 | b32 | b64 | b128 | b256
  deriving DecidableEq, Repr

/-- The guard field: k0 to k7, negated or not (R308). -/
structure Guard where
  neg : Bool
  k : BitVec 3
  deriving DecidableEq, Repr

/-- A V-form word without its opcode (R309). -/
structure VForm where
  d : BitVec 8
  a : BitVec 8
  b : BitVec 8
  c : BitVec 8
  na : Bool
  aa : Bool
  nb : Bool
  ab : Bool
  nc : Bool
  ac : Bool
  clamp : Bool
  dsc : Dsc
  ty : Ty
  g : Guard
  sp : Bool
  deriving DecidableEq, Repr

/-- An M-form word without its opcode (R316). -/
structure MForm where
  d : BitVec 8
  base : BitVec 8
  idx : BitVec 8
  ofs : BitVec 16
  scope : Scope
  strm : BitVec 2
  size : Size
  g : Guard
  sp : Bool
  deriving DecidableEq, Repr

/-- A C-form word without its opcode (R317). -/
structure CForm where
  a : BitVec 8
  mask : Guard
  b : BitVec 8
  ofs : BitVec 24
  imm : BitVec 8
  sp : Bool
  deriving DecidableEq, Repr

/-- A T-form word without its opcode (R318). -/
structure TForm where
  td : BitVec 8
  ra : BitVec 8
  rb : BitVec 8
  aux : BitVec 8
  fn : BitVec 16
  g : Guard
  sp : Bool
  deriving DecidableEq, Repr

/-- An I-form word without its opcode (R319). -/
structure IForm where
  d : BitVec 8
  a : BitVec 8
  imm : BitVec 32
  g : Guard
  sp : Bool
  deriving DecidableEq, Repr

/-- An X-form word without its opcode (R319). -/
structure XForm where
  d : BitVec 8
  a : BitVec 8
  sreg : BitVec 16
  imm : BitVec 16
  g : Guard
  sp : Bool
  deriving DecidableEq, Repr

/-- One compact half (R326). -/
structure PHalf where
  cop : BitVec 6
  d : BitVec 7
  a : BitVec 7
  b : BitVec 7
  na : Bool
  nb : Bool
  t : Bool
  deriving DecidableEq, Repr

/-- A P-form word: two halves and a stop bit (R326). -/
structure PForm where
  h0 : PHalf
  h1 : PHalf
  sp : Bool
  deriving DecidableEq, Repr

/-- A fabric packet: the header fields of R51 and the bytes of its data units. -/
structure Packet where
  resend : Bool := false
  steam : BitVec 3 := 0
  daddr : BitVec 60 := 0
  svdn : BitVec 16 := 0
  score : BitVec 10 := 0
  sgrp : BitVec 6 := 0
  strm : BitVec 2 := 0
  sseq : BitVec 16 := 0
  tag : BitVec 13 := 0
  fwd : Bool := false
  op : BitVec 6 := 0
  len : BitVec 5 := 0
  scope : BitVec 3 := 0
  sfunc : BitVec 6 := 0
  epoch : BitVec 16 := 0
  status : BitVec 8 := 0
  sclu : BitVec 10 := 0
  opx : BitVec 10 := 0
  w3 : BitVec 64 := 0
  data : List Byte := []
  deriving DecidableEq, Repr

/-- The identity of an ordering stream (R53, R55, R60). -/
structure StreamId where
  svdn : BitVec 16
  score : BitVec 10
  sgrp : BitVec 6
  strm : BitVec 2
  steam : BitVec 3
  deriving DecidableEq, Repr

/-- A sequencer message: its op, the VDNs of its ends and the body fields of R76. -/
structure SeqMsg where
  svdn : BitVec 16 := 0
  dvdn : BitVec 16 := 0
  term : BitVec 16 := 0
  comm : BitVec 16 := 0
  tag : W32 := 0
  num : W32 := 0
  prev : W32 := 0
  result : Byte := 0
  rank : BitVec 16 := 0
  first : Bool := false
  deriving DecidableEq, Repr

/-- A VDN_UPDATE as it arrives: the VDN, the new 128-bit entry (R49) with its EPOCH, the sender, and
whether this device is the old home of the VDN or its new home (R65, R66, R162). -/
structure VdnMsg where
  vdn : BitVec 16
  entry : BitVec 128
  src : BitVec 16
  deriving DecidableEq, Repr

/-- Who makes a register access (R42, R48). -/
inductive Requester where
  | pf0 | hasp | func (n : Nat)
  deriving DecidableEq, Repr

/-- Which register space an access names: the management window (R42) or a function's BAR0 (R97). -/
inductive RegSpace where
  | mgmt | bar0 (func : Nat)
  deriving DecidableEq, Repr

/-- A mailbox request: its 128 bytes, byte 0 in the low bits (R98). -/
abbrev MailReq := BitVec 1024

/-- What the outside supplies to a start (R17, R20, R68, R69): the straps, whether a die link or a stack
fails its training, the ports that fail theirs, and on a bridge the members found. -/
structure StartEnv where
  bridge : Bool := false
  slot : BitVec 3 := 0
  dieLinkFail : Bool := false
  stackFail : Bool := false
  badPorts : List Nat := []
  members : Tbl (BitVec 12 × BitVec 8) := []
  deriving DecidableEq, Repr

/-- Link widths and their WCODE values (R25). -/
inductive LinkWidth where
  | w16 | w8 | w4
  deriving DecidableEq, Repr

/-- One shape of the requirements of R157. -/
structure ShapeReq where
  cx : Nat := 0
  cy : Nat := 0
  count : Nat := 0
  slots : Nat := 0
  tiles : Nat := 0
  banks : Nat := 0
  bars : Nat := 0
  deriving DecidableEq, Repr

/-- The requirements the source sends (R157, R158). -/
structure Requirements where
  func : Nat := 0
  w : Nat := 0
  cwid : Nat := 0
  quota : Nat := 0
  shapes : List ShapeReq := []
  deriving DecidableEq, Repr, Inhabited

/-- What a restore reads from an image header (R166, R170); digestOk is the check of DIGEST. -/
structure ImageInfo where
  magic : W32 := 0
  version : BitVec 16 := 0
  digestOk : Bool := false
  maxNest : Nat := 0
  req : Requirements := {}
  blocks : List (Nat × List Byte) := []
  deriving DecidableEq, Repr

/-- A firmware memory access and the capability it goes through (R113). -/
structure CapAccess where
  cap : BitVec 128 := 0
  tagSet : Bool := false
  /-- the 16-byte granule of firmware memory it is loaded from; none for one held in a register -/
  granule : Option Nat := none
  /-- the function and context the access is made for, of a context capability -/
  owner : BitVec 6 := 0
  /-- a narrower copy it is to make of the capability -/
  derive : Option (BitVec 128) := none
  addr : Nat := 0
  size : Nat := 0
  kind : BitVec 4 := 0
  perm : BitVec 4 := 0
  deriving DecidableEq, Repr

/-- What waits on a translation (R131, R134). -/
inductive XlTarget where
  | group (core gs : Nat)
  | cte (core desc : Nat)
  | copy (func q slot : Nat)
  | node (run node : Nat)
  | coll (func : Nat) (comm : BitVec 16) (tag : W32)
  deriving DecidableEq, Repr

/-- The steps of a tier move (R135); the third names the new place of the page. -/
inductive TierStage where
  | open_ (transit : Bool)
  | copy (toPool : Bool) (loc : Nat)
  | finish (toPool : Bool) (loc : Nat)
  deriving DecidableEq, Repr

/-- Where an error is found (R143 to R147): the source code of MEC_LOGB, the place, the consumer. -/
structure ErrSite where
  src : BitVec 3 := 0
  place : W32 := 0
  core : Nat := 0
  gs : Nat := 0
  func : Nat := 0
  ctx : Nat := 0
  own : BitVec 2 := 0
  priv : Bool := false
  launch : Nat := 0
  deriving DecidableEq, Repr

/-- The copy a completion names: a queue command's or a graph node's (R100, R186). -/
inductive CopyRef where
  | queue (func q slot : Nat)
  | node (run node : Nat)
  deriving DecidableEq, Repr

/-- What the outside world supplies to an event: the rows of the opcode table without an encoding read
the fields their constructors name from here (State.inp). -/
structure EventArgs where
  /-- what a start finds -/
  env : StartEnv := {}
  /-- a page, region or tier-page number -/
  page : Nat := 0
  count : Nat := 0
  /-- a yes or no the event brings (a cause present, a switch ordered, lanes trained, a hold ordered, a peer error) -/
  flag : Bool := false
  port : Nat := 0
  flit : Flit := 0
  seq : BitVec 20 := 0
  lane : BitVec 4 := 0
  vc : BitVec 3 := 0
  lwidth : LinkWidth := .w16
  /-- a value written to a register -/
  v : W32 := 0
  who : Requester := .hasp
  space : RegSpace := .mgmt
  off : Nat := 0
  size : Nat := 4
  pkt : Packet := {}
  bytes : List Byte := []
  /-- a bus slot of the bridge -/
  bus : BitVec 3 := 0
  bar : BitVec 2 := 0
  func : Nat := 0
  /-- a configuration write: the value and its byte enables; none for a read -/
  cfgWr : Option (W32 × BitVec 4) := none
  mmioWr : Option W64 := none
  sid : StreamId := { svdn := 0, score := 0, sgrp := 0, strm := 0, steam := 0 }
  vdn : BitVec 16 := 0
  upd : VdnMsg := { vdn := 0, entry := 0, src := 0 }
  dev : BitVec 16 := 0
  epoch : BitVec 16 := 0
  status : Byte := 0
  msg : SeqMsg := {}
  k : Nat := 0
  comm : BitVec 16 := 0
  tag : W32 := 0
  num : W32 := 0
  hop : Nat := 0
  seg : Nat := 0
  /-- the other members' contributions of a collective, by rank -/
  others : List (Nat × List W32) := []
  mail : MailReq := 0
  img : ImageInfo := {}
  reqs : Requirements := {}
  answer : Option Bool := none
  q : Nat := 0
  slot : Nat := 0
  fw : Nat := 0
  acc : CapAccess := {}
  cmd : Option (Nat × Nat × Nat) := none
  die : Nat := 0
  core : Nat := 0
  gs : Nat := 0
  /-- the lanes of an access the completion performs -/
  lanes : Lanes := 0xFFFFFFFF
  target : XlTarget := .group 0 0
  stage : TierStage := .open_ false
  bad : List Nat := []
  site : ErrSite := {}
  run : Nat := 0
  id : Nat := 0
  buf : Nat := 0
  clocks : W64 := 0
  slice : Nat := 0
  desc : Nat := 0
  pos : Nat := 0
  members : Option (List (BitVec 16)) := none
  copy : CopyRef := .node 0 0
  deriving DecidableEq, Repr

/-- One constructor for each row of the opcode table: the words first, each with its fields, then the
events, whose operands stand in EventArgs. -/
inductive Instr where
  /-- PAIR (R326). -/
  | pair (f : PForm)
  /-- IADD (R345). -/
  | iadd (f : VForm)
  /-- ISUB (R345). -/
  | isub (f : VForm)
  /-- IMUL (R345). -/
  | imul (f : VForm)
  /-- IMULH (R345). -/
  | imulh (f : VForm)
  /-- IMAD (R345). -/
  | imad (f : VForm)
  /-- IMIN (R345). -/
  | imin (f : VForm)
  /-- IMAX (R345). -/
  | imax (f : VForm)
  /-- ICMP (R346). -/
  | icmp (f : VForm)
  /-- ISEL (R346). -/
  | isel (f : VForm)
  /-- LEA (R347). -/
  | lea (f : VForm)
  /-- AND (R348). -/
  | andV (f : VForm)
  /-- OR (R348). -/
  | orV (f : VForm)
  /-- XOR (R348). -/
  | xorV (f : VForm)
  /-- ANDN (R348). -/
  | andn (f : VForm)
  /-- SHL (R348). -/
  | shl (f : VForm)
  /-- SHR (R348). -/
  | shr (f : VForm)
  /-- SAR (R348). -/
  | sar (f : VForm)
  /-- BFE (R349). -/
  | bfe (f : VForm)
  /-- BFI (R349). -/
  | bfi (f : VForm)
  /-- POPC (R350). -/
  | popc (f : VForm)
  /-- CLZ (R350). -/
  | clz (f : VForm)
  /-- BREV (R350). -/
  | brev (f : VForm)
  /-- IDP4 (R351). -/
  | idp4 (f : VForm)
  /-- FDP2 (R355). -/
  | fdp2 (f : VForm)
  /-- FADD (R353). -/
  | fadd (f : VForm)
  /-- FSUB (R353). -/
  | fsub (f : VForm)
  /-- FMUL (R353). -/
  | fmul (f : VForm)
  /-- FFMA (R353). -/
  | ffma (f : VForm)
  /-- FMIN (R356). -/
  | fmin (f : VForm)
  /-- FMAX (R356). -/
  | fmax (f : VForm)
  /-- FCMP (R357). -/
  | fcmp (f : VForm)
  /-- FSEL (R357). -/
  | fsel (f : VForm)
  /-- FRND (R358). -/
  | frnd (f : VForm)
  /-- FCLASS (R358). -/
  | fclass (f : VForm)
  /-- FRCP (R359). -/
  | frcp (f : VForm)
  /-- FRSQ (R359). -/
  | frsq (f : VForm)
  /-- FSQRT (R359). -/
  | fsqrt (f : VForm)
  /-- FEXP2 (R359). -/
  | fexp2 (f : VForm)
  /-- FLOG2 (R359). -/
  | flog2 (f : VForm)
  /-- FSIN (R359). -/
  | fsin (f : VForm)
  /-- FCOS (R359). -/
  | fcos (f : VForm)
  /-- FTANH (R359). -/
  | ftanh (f : VForm)
  /-- CVT (R362). -/
  | cvt (f : VForm)
  /-- PACK (R364). -/
  | pack (f : VForm)
  /-- UNPACK (R364). -/
  | unpack (f : VForm)
  /-- RAND (R367). -/
  | rand (f : VForm)
  /-- MOV (R365). -/
  | mov (f : VForm)
  /-- SHFL (R375). -/
  | shfl (f : VForm)
  /-- SHFLX (R375). -/
  | shflx (f : VForm)
  /-- SHFLUP (R375). -/
  | shflup (f : VForm)
  /-- SHFLDN (R375). -/
  | shfldn (f : VForm)
  /-- SHFLR (R375). -/
  | shflr (f : VForm)
  /-- VOTE (R376). -/
  | vote (f : VForm)
  /-- BALLOT (R377). -/
  | ballot (f : VForm)
  /-- MATCH (R378). -/
  | matchV (f : VForm)
  /-- VRED (R380). -/
  | vred (f : VForm)
  /-- VSCAN (R381). -/
  | vscan (f : VForm)
  /-- VSTEP (R382). -/
  | vstep (f : VForm)
  /-- RDFIRST (R383). -/
  | rdfirst (f : VForm)
  /-- RDLANE (R383). -/
  | rdlane (f : VForm)
  /-- WRLANE (R383). -/
  | wrlane (f : VForm)
  /-- KAND (R384). -/
  | kand (f : VForm)
  /-- KOR (R384). -/
  | kor (f : VForm)
  /-- KXOR (R384). -/
  | kxor (f : VForm)
  /-- KNOT (R384). -/
  | knot (f : VForm)
  /-- KMOV (R384). -/
  | kmov (f : VForm)
  /-- KPOP (R384). -/
  | kpop (f : VForm)
  /-- KFFS (R384). -/
  | kffs (f : VForm)
  /-- VXEC (R389). -/
  | vxec (f : VForm)
  /-- SPAWN (R204). -/
  | spawn (f : VForm)
  /-- LD (R421). -/
  | ld (f : MForm)
  /-- ST (R421). -/
  | st (f : MForm)
  /-- LDS (R421). -/
  | lds (f : MForm)
  /-- STS (R421). -/
  | sts (f : MForm)
  /-- LD ACQ (R422). -/
  | ldAcq (f : MForm)
  /-- ST REL (R422). -/
  | stRel (f : MForm)
  /-- LDW F (R424). -/
  | ldwF (f : MForm)
  /-- LDW F E (R424). -/
  | ldwFE (f : MForm)
  /-- STW E (R424). -/
  | stwE (f : MForm)
  /-- TAGSET (R425). -/
  | tagset (f : MForm)
  /-- TAGCLR (R425). -/
  | tagclr (f : MForm)
  /-- LDFRAG (R386). -/
  | ldfrag (f : MForm)
  /-- LDFRAG T (R386). -/
  | ldfragT (f : MForm)
  /-- LARM (R428). -/
  | larm (f : MForm)
  /-- BARINIT (R428). -/
  | barinit (f : MForm)
  /-- BARR (R429). -/
  | barr (f : MForm)
  /-- BWAIT (R429). -/
  | bwait (f : MForm)
  /-- ARRW (R429). -/
  | arrw (f : MForm)
  /-- FENCE ACQ (R430). -/
  | fenceAcq (f : MForm)
  /-- FENCE REL (R430). -/
  | fenceRel (f : MForm)
  /-- FENCE FULL (R430). -/
  | fenceFull (f : MForm)
  /-- SHUT S (R431). -/
  | shutS (f : MForm)
  /-- SHUT Q (R431). -/
  | shutQ (f : MForm)
  /-- SHUT C (R431). -/
  | shutC (f : MForm)
  /-- SHUT CQ (R431). -/
  | shutCq (f : MForm)
  /-- QPUSH (R432). -/
  | qpush (f : MForm)
  /-- QPOP (R432). -/
  | qpop (f : MForm)
  /-- PREF (R433). -/
  | pref (f : MForm)
  /-- CINV L1 (R434). -/
  | cinvL1 (f : MForm)
  /-- CINV TLB (R434). -/
  | cinvTlb (f : MForm)
  /-- CINV CTX (R434). -/
  | cinvCtx (f : MForm)
  /-- ATOM ADD (R426). -/
  | atomAdd (f : MForm)
  /-- ATOM MIN (R426). -/
  | atomMin (f : MForm)
  /-- ATOM MAX (R426). -/
  | atomMax (f : MForm)
  /-- ATOM MIN N (R426). -/
  | atomMinN (f : MForm)
  /-- ATOM MAX N (R426). -/
  | atomMaxN (f : MForm)
  /-- ATOM AND (R426). -/
  | atomAnd (f : MForm)
  /-- ATOM OR (R426). -/
  | atomOr (f : MForm)
  /-- ATOM XOR (R426). -/
  | atomXor (f : MForm)
  /-- ATOM EXCH (R426). -/
  | atomExch (f : MForm)
  /-- ATOM CAS (R426). -/
  | atomCas (f : MForm)
  /-- ATOM FADD (R426). -/
  | atomFadd (f : MForm)
  /-- ATOM FMIN (R426). -/
  | atomFmin (f : MForm)
  /-- ATOM FMAX (R426). -/
  | atomFmax (f : MForm)
  /-- ATOM INCWRAP (R426). -/
  | atomIncwrap (f : MForm)
  /-- RED ADD (R426). -/
  | redAdd (f : MForm)
  /-- RED MIN (R426). -/
  | redMin (f : MForm)
  /-- RED MAX (R426). -/
  | redMax (f : MForm)
  /-- RED MIN N (R426). -/
  | redMinN (f : MForm)
  /-- RED MAX N (R426). -/
  | redMaxN (f : MForm)
  /-- RED AND (R426). -/
  | redAnd (f : MForm)
  /-- RED OR (R426). -/
  | redOr (f : MForm)
  /-- RED XOR (R426). -/
  | redXor (f : MForm)
  /-- RED FADD (R426). -/
  | redFadd (f : MForm)
  /-- RED FMIN (R426). -/
  | redFmin (f : MForm)
  /-- RED FMAX (R426). -/
  | redFmax (f : MForm)
  /-- RED INCWRAP (R426). -/
  | redIncwrap (f : MForm)
  /-- BRA (R397). -/
  | bra (f : CForm)
  /-- BANY (R397). -/
  | bany (f : CForm)
  /-- BALL (R397). -/
  | ball (f : CForm)
  /-- BNONE (R397). -/
  | bnone (f : CForm)
  /-- BRX (R398). -/
  | brx (f : CForm)
  /-- CALL (R398). -/
  | call (f : CForm)
  /-- RET (R398). -/
  | ret (f : CForm)
  /-- IF (R400). -/
  | ifW (f : CForm)
  /-- ELSE (R400). -/
  | elseW (f : CForm)
  /-- ENDIF (R400). -/
  | endifW (f : CForm)
  /-- LOOP (R400). -/
  | loopW (f : CForm)
  /-- BREAK (R400). -/
  | breakW (f : CForm)
  /-- CONT (R400). -/
  | contW (f : CForm)
  /-- ENDLOOP (R400). -/
  | endloopW (f : CForm)
  /-- EXIT (R402). -/
  | exitW (f : CForm)
  /-- EXITS (R203). -/
  | exits (f : CForm)
  /-- MOVI (R369). -/
  | movi (f : IForm)
  /-- MOVIH (R369). -/
  | movih (f : IForm)
  /-- IADDI (R369). -/
  | iaddi (f : IForm)
  /-- ANDI (R369). -/
  | andi (f : IForm)
  /-- ORI (R369). -/
  | ori (f : IForm)
  /-- XORI (R369). -/
  | xori (f : IForm)
  /-- SHLI (R370). -/
  | shli (f : IForm)
  /-- ICMPI (R370). -/
  | icmpi (f : IForm)
  /-- FMOVI (R369). -/
  | fmovi (f : IForm)
  /-- LEAI (R370). -/
  | leai (f : IForm)
  /-- WAIT (R404). -/
  | wait (f : IForm)
  /-- NOP (R405). -/
  | nop (f : XForm)
  /-- YIELD (R405). -/
  | yield (f : XForm)
  /-- MFSR (R406). -/
  | mfsr (f : XForm)
  /-- MTSR (R406). -/
  | mtsr (f : XForm)
  /-- TRAP (R405). -/
  | trap (f : XForm)
  /-- TRAP RET (R413). -/
  | trapRet (f : XForm)
  /-- BKPT (R405). -/
  | bkpt (f : XForm)
  /-- PROG (R405). -/
  | prog (f : XForm)
  /-- TMMA (R440). -/
  | tmma (f : TForm)
  /-- TMMAG (R441). -/
  | tmmag (f : TForm)
  /-- TZERO (R444). -/
  | tzero (f : TForm)
  /-- TLOADA (R445). -/
  | tloada (f : TForm)
  /-- TDRAIN (R446). -/
  | tdrain (f : TForm)
  /-- HREAD (R447). -/
  | hread (f : TForm)
  /-- CBOOK (R448). -/
  | cbook (f : TForm)
  /-- CBOOK DEF (R448). -/
  | cbookDef (f : TForm)
  /-- TSPLIT (R452). -/
  | tsplit (f : TForm)
  /-- CPY (R454). -/
  | cpy (f : TForm)
  /-- CPY2 (R454). -/
  | cpy2 (f : TForm)
  /-- CPY3 (R454). -/
  | cpy3 (f : TForm)
  /-- FPUT (R455). -/
  | fput (f : TForm)
  /-- FGET (R455). -/
  | fget (f : TForm)
  /-- FSIG INSTR (R456). -/
  | fsigInstr (f : TForm)
  /-- COLL (R459). -/
  | coll (f : TForm)
  /-- CCANCEL (R462). -/
  | ccancel (f : TForm)
  /-- CSTAT (R463). -/
  | cstat (f : TForm)
  /-- COLD START (R17); reads env. -/
  | coldStart
  /-- WARM START (R18); reads env. -/
  | warmStart
  /-- HASP MARK PRESERVED (R22); reads page, count. -/
  | haspMarkPreserved
  /-- SUPPLY OR THERMAL EXCURSION (R15). -/
  | supplyOrThermalExcursion
  /-- CLOCK STEP (R15); reads flag. -/
  | clockStep
  /-- MODULE TRIP (R16). -/
  | moduleTrip
  /-- DATA FLIT RX (R28); reads port, flit. -/
  | dataFlitRx
  /-- LINK CONTROL FLIT TX (R26); reads port. -/
  | linkControlFlitTx
  /-- LINK CONTROL FLIT RX (R31); reads port, flit. -/
  | linkControlFlitRx
  /-- CONTROL FLIT TIMEOUT (R31); reads port. -/
  | controlFlitTimeout
  /-- PARITY FLIT TX (R32); reads port. -/
  | parityFlitTx
  /-- PARITY FLIT RX (R33); reads port, flit. -/
  | parityFlitRx
  /-- PARITY TIMEOUT (R33); reads port, seq. -/
  | parityTimeout
  /-- LANE BAD (R41); reads port, lane, seq. -/
  | laneBad
  /-- LINK IDLE TIMEOUT (R35); reads port. -/
  | linkIdleTimeout
  /-- LINK RETRAIN DONE (R35); reads port, lwidth. -/
  | linkRetrainDone
  /-- LINK FAIL (R35); reads port. -/
  | linkFail
  /-- EZL RETRAIN (R42); reads port. -/
  | ezlRetrain
  /-- EZL WIDEN (R42); reads port, flag, seq. -/
  | ezlWiden
  /-- EZL DISABLE (R42); reads port, flag. -/
  | ezlDisable
  /-- EZL WMARK WRITE (R37); reads port, vc, v. -/
  | ezlWmarkWrite
  /-- EZL CLEAR (R43); reads port, v. -/
  | ezlClear
  /-- REGISTER WRITE (R5); reads who, space, off, v, size, flag, clocks, and what a register it writes reads. -/
  | registerWrite
  /-- READ (R52); reads pkt, port, and what a register it writes reads. -/
  | readReq
  /-- WRITE (R52); reads pkt, port, and what a register it writes reads. -/
  | writeReq
  /-- POSTED (R104); reads pkt, port, and what a register it writes reads. -/
  | postedReq
  /-- ATOMIC (R54); reads pkt, port. -/
  | atomicReq
  /-- FSIG (R456); reads pkt, port. -/
  | fsigReq
  /-- CFGRD (R69); reads pkt, port. -/
  | cfgrd
  /-- CFGWR (R69); reads pkt, port. -/
  | cfgwr
  /-- MMIORD (R69); reads pkt, port, and what a register it writes reads. -/
  | mmiord
  /-- MMIOWR (R69); reads pkt, port, and what a register it writes reads. -/
  | mmiowr
  /-- HOSTRD (R69); reads pkt, bytes, port. -/
  | hostrd
  /-- HOSTWR (R69); reads pkt, bytes, port. -/
  | hostwr
  /-- HOST CONFIG REQUEST (R69); reads func, off, cfgWr, bus. -/
  | hostConfigRequest
  /-- HOST MMIO REQUEST (R69); reads func, bar, off, size, mmioWr, bus, and what a register it writes reads. -/
  | hostMmioRequest
  /-- CDATA (R475); reads pkt, port. -/
  | cdata
  /-- CBEGUN (R475); reads pkt, port. -/
  | cbegun
  /-- MSTREAM (R155); reads pkt, members, port, upd. -/
  | mstream
  /-- RDATA (R53); reads pkt, port. -/
  | rdata
  /-- RACK (R53); reads pkt, port. -/
  | rack
  /-- RESUME (R60); reads pkt, port. -/
  | resumeMsg
  /-- ABORT (R60); reads pkt, port. -/
  | abortMsg
  /-- STREAM FREEZE TIMEOUT (R60); reads sid, vdn. -/
  | streamFreezeTimeout
  /-- RFAULT RETRY RESEND (R60); reads sid, vdn. -/
  | rfaultRetryResend
  /-- FREEZE CONDITION CLEAR (R60); reads func, page. -/
  | freezeConditionClear
  /-- FREEZE CONDITION PERMANENT (R60); reads func, page. -/
  | freezeConditionPermanent
  /-- HELD REQUEST SEND (R50); reads vdn. -/
  | heldRequestSend
  /-- REMOTE ACCESS FAULT (R61); reads core, gs. -/
  | remoteAccessFault
  /-- PACKET UNKNOWN OP (R52); reads port, pkt. -/
  | packetUnknownOp
  /-- VDN UPDATE (R65); reads upd, port. -/
  | vdnUpdate
  /-- VDN DRAIN COMPLETE (R65); reads vdn. -/
  | vdnDrainComplete
  /-- VDN ACK (R65); reads vdn, dev, epoch, status, img, port. -/
  | vdnAck
  /-- VDN UPDATE REPEAT (R65); reads vdn. -/
  | vdnUpdateRepeat
  /-- FORWARD WINDOW EXPIRE (R66); reads vdn, port. -/
  | forwardWindowExpire
  /-- EVREC (R52); reads pkt, port. -/
  | evrec
  /-- HMSG (R52); reads pkt, k, num, page, port, vdn. -/
  | hmsg
  /-- SEQ REG (R78); reads msg, port. -/
  | seqReg
  /-- SEQ ASSIGN (R81); reads msg, port. -/
  | seqAssign
  /-- SEQ AACK (R78); reads msg, port. -/
  | seqAack
  /-- SEQ BEGIN (R78); reads msg, port. -/
  | seqBegin
  /-- SEQ GRANT (R81); reads msg, port. -/
  | seqGrant
  /-- SEQ CANCEL (R85); reads msg, port. -/
  | seqCancel
  /-- SEQ CRESULT (R462); reads msg, port. -/
  | seqCresult
  /-- SEQ RETIRE (R78); reads msg, port. -/
  | seqRetire
  /-- SEQ DONE (R80); reads msg, port. -/
  | seqDone
  /-- SEQ MIRROR (R86); reads msg, port. -/
  | seqMirror
  /-- SEQ MACK (R78); reads msg, port. -/
  | seqMack
  /-- SEQ BEAT (R86); reads msg, port. -/
  | seqBeat
  /-- SEQ TERM (R88); reads msg, port. -/
  | seqTerm
  /-- SEQ MESSAGE REPEAT (R77); reads k. -/
  | seqMessageRepeat
  /-- SEQ BEAT TIMER (R86). -/
  | seqBeatTimer
  /-- SEQ BEAT TIMEOUT (R87). -/
  | seqBeatTimeout
  /-- TAKEOVER (R87). -/
  | takeover
  /-- CSQ ROLE WRITE (R93); reads v. -/
  | csqRoleWrite
  /-- CE SEQ WRITE (R88); reads v. -/
  | ceSeqWrite
  /-- ENGINE BEGIN NUMBER (R81); reads func. -/
  | engineBeginNumber
  /-- COLL DATA PHASE COMPLETE (R83); reads func, comm, tag, others, flag. -/
  | collDataPhaseComplete
  /-- COLL SEGMENT REPEAT (R475); reads func, num, hop, seg. -/
  | collSegmentRepeat
  /-- PART SET (R110); reads mail, img, k, page, vdn. -/
  | partSet
  /-- PART CLEAR (R98); reads mail. -/
  | partClear
  /-- BADCMD (R98); reads mail. -/
  | badcmd
  /-- MIG OUT (R153); reads mail. -/
  | migOut
  /-- MIG STOPNOW (R156); reads mail. -/
  | migStopnow
  /-- MIG ABORT (R161); reads mail. -/
  | migAbort
  /-- MIG IN (R148); reads mail, k, page, vdn. -/
  | migIn
  /-- NODEST (R148); reads func. -/
  | nodest
  /-- CKPT (R169); reads mail. -/
  | ckpt
  /-- RESTORE (R170); reads mail, img, bytes. -/
  | restoreImg
  /-- DBG GRANT (R290); reads mail. -/
  | dbgGrant
  /-- DBG REVOKE (R304); reads mail. -/
  | dbgRevoke
  /-- PROF BEGIN (R303); reads mail. -/
  | profBegin
  /-- PROF END (R290); reads mail. -/
  | profEnd
  /-- PRECOPY PASS END (R156); reads func. -/
  | precopyPassEnd
  /-- MIG PRECHECK (R158); reads reqs, answer. -/
  | migPrecheck
  /-- QUIESCE DONE (R160); reads func. -/
  | quiesceDone
  /-- STOPLATE (R159); reads func. -/
  | stoplate
  /-- FINAL COPY DONE (R160); reads func. -/
  | finalCopyDone
  /-- MIG DEST TIMEOUT (R161); reads func. -/
  | migDestTimeout
  /-- NOTIFY STORE (R104); reads func, q, off, size, v. -/
  | notifyStore
  /-- QCFG WRITE (R99); reads func, q, v. -/
  | qcfgWrite
  /-- QERR HALT CLEAR (R99); reads func, q, v. -/
  | qerrHaltClear
  /-- COMMAND FETCH (R105); reads func, q, fw. -/
  | commandFetch
  /-- LAUNCH COMMAND (R172); reads func, q, slot. -/
  | launchCommand
  /-- GRAPH COMMAND (R185); reads func, q, slot. -/
  | graphCommand
  /-- COPY COMMAND (R100); reads func, q, slot. -/
  | copyCommand
  /-- MARKER COMMAND (R101); reads func, q, slot. -/
  | markerCommand
  /-- FLR (R106); reads func. -/
  | flr
  /-- FLR COMPLETE (R107); reads func. -/
  | flrComplete
  /-- FIRMWARE CAPABILITY FAULT (R114); reads fw, acc, cmd. -/
  | firmwareCapabilityFault
  /-- BOOT APERTURE WRITE (R115); reads off, bytes, bus. -/
  | bootApertureWrite
  /-- FWC RANGE (R115); reads v, count, dev, img, k, page, vdn. -/
  | fwcRange
  /-- WALK COMPLETE (R126); reads die, k. -/
  | walkComplete
  /-- PARKED RETRY (R131); reads core, gs. -/
  | parkedRetry
  /-- FLIM EXPIRE (R131); reads target. -/
  | flimExpire
  /-- HASP STAGE2 REFUSE (R133); reads target. -/
  | haspStage2Refuse
  /-- XL INV (R128); reads who, v. -/
  | xlInv
  /-- XL INV COMPLETE (R129). -/
  | xlInvComplete
  /-- TIER MOVE (R135); reads func, page, stage. -/
  | tierMove
  /-- PATROL SCRUB (R142); reads bad, count, site. -/
  | patrolScrub
  /-- DIRTY LINE LOST (R145); reads site, page. -/
  | dirtyLineLost
  /-- DISTRIBUTOR PLACE (R176); reads func. -/
  | distributorPlace
  /-- LAUNCH HOLD (R180); reads func. -/
  | launchHold
  /-- DIS CTIME TICK (R182). -/
  | disCtimeTick
  /-- SCRUB COMPLETE (R183); reads core. -/
  | scrubComplete
  /-- GRAPH NODE RETIRE (R186); reads run. -/
  | graphNodeRetire
  /-- STARVATION WIN (R191); reads core, slot. -/
  | starvationWin
  /-- GROUP END (R200); reads core, gs. -/
  | groupEnd
  /-- CORE STOP (R209); reads core. -/
  | coreStop
  /-- SHUT FLIP (R221); reads core, pos. -/
  | shutFlip
  /-- CLUSTER AGENT DELIVERY (R237); reads core, gs, id, lanes. -/
  | clusterAgentDelivery
  /-- LOAD COMPLETE (R417); reads core, gs, id, lanes. -/
  | loadComplete
  /-- STORE ACK (R417); reads core, gs, id, lanes. -/
  | storeAck
  /-- SYNC CLR (R264); reads v. -/
  | syncClr
  /-- PRB HALT ALL (R292); reads func. -/
  | prbHaltAll
  /-- PRB HALT RELEASE (R292); reads func. -/
  | prbHaltRelease
  /-- PRB HALT ONE (R292); reads func, v. -/
  | prbHaltOne
  /-- PRB EDIT (R293); reads func, v. -/
  | prbEdit
  /-- SAMPLE INTERVAL (R291); reads core. -/
  | sampleInterval
  /-- TB WPTR WRITE (R297); reads func, buf, v. -/
  | tbWptrWrite
  /-- CAUSAL START (R301); reads func. -/
  | causalStart
  /-- CAUSAL STOP (R301); reads func, clocks. -/
  | causalStop
  /-- CAUSAL DELAY EXPIRE (R301); reads core, gs. -/
  | causalDelayExpire
  /-- PASS START (R303); reads func. -/
  | passStart
  /-- PASS END (R303); reads func. -/
  | passEnd
  /-- REPLAY ATOMIC TIMEOUT (R300); reads func, slice. -/
  | replayAtomicTimeout
  /-- YIELD DELAY EXPIRE (R405); reads core, gs. -/
  | yieldDelayExpire
  /-- IMPRECISE FAULT DELIVERY (R411); reads core, gs. -/
  | impreciseFaultDelivery
  /-- TILE OP COMPLETE (R439); reads core. -/
  | tileOpComplete
  /-- CTE UNIT COMPLETE (R449); reads core, desc, pos. -/
  | cteUnitComplete
  /-- DATA FLIT TX (R27); reads port, vc. -/
  | dataFlitTx
  /-- LINK NARROW REQUEST (R38); reads port, lwidth, seq. -/
  | linkNarrowRequest
  /-- COMMUNICATOR INSTALL (R70); reads comm, members. -/
  | communicatorInstall
  /-- COPY COMMAND COMPLETE (R101); reads copy. -/
  | copyCommandComplete
  /-- CSTAT ANSWER (R463); reads core, gs. -/
  | cstatAnswer
  deriving DecidableEq, Repr

end Sys2Proof
end

