-- ==== Sys2Proof/WellFormed.lean ====
section
/-! DEFINITION. Which instruction words are legal encodings (R310 to R319, R327 to R329 and the
entries of the instruction chapters). An event has no encoding and is well formed as it stands. -/

namespace Sys2Proof

/-- The operand field names a scalar register (R312). -/
def isS (f : BitVec 8) : Bool := 0xC0#8 ≤ f
/-- The operand field names a vector register (R312). -/
def isV (f : BitVec 8) : Bool := f < 0xC0#8
/-- The field is an even number. -/
def isEven (f : BitVec 8) : Bool := f.getLsbD 0 == false

/-- The type occupies an even-odd pair of vector registers (R311). -/
def Ty.is64 : Ty → Bool
  | .i64 | .n64 | .f64 => true
  | _ => false
/-- Types 0 to 7 (R344, I). -/
def Ty.isInt : Ty → Bool
  | .f32 | .f16x2 | .bf16x2 | .f64 => false
  | _ => true
/-- Types i32, n32, i64 and n64 (R344, N). -/
def Ty.isN : Ty → Bool
  | .i32 | .n32 | .i64 | .n64 => true
  | _ => false
/-- Types 8 to 11 (R352, F). -/
def Ty.isF (t : Ty) : Bool := !t.isInt
/-- Types 0 and 2 (R373). -/
def Ty.isMove (t : Ty) : Bool := t == .i32 || t == .i64

/-- An operand field of the width of the type: an odd first register of a 64-bit vector operand is
illegal (R313, R329). -/
def opndOk (t : Ty) (f : BitVec 8) : Bool := isS f || !t.is64 || isEven f

/-- A scalar destination has scalar sources only (R314, R338). -/
def destOk (d : BitVec 8) (srcs : List (BitVec 8)) : Bool := isV d || srcs.all isS

/-- Which modifiers a V-form opcode accepts (R310). -/
structure ModSet where
  a : Bool := false
  b : Bool := false
  c : Bool := false
  l : Bool := false
  s : Bool := false

/-- The modifiers the word sets are all accepted (R310). -/
def VForm.modsIn (f : VForm) (m : ModSet) : Bool :=
  (m.a || (!f.na && !f.aa)) && (m.b || (!f.nb && !f.ab)) && (m.c || (!f.nc && !f.ac)) &&
  (m.l || !f.clamp) && (m.s || f.dsc == .one)

/-- The word sets no modifier. -/
def VForm.noMods (f : VForm) : Bool := f.modsIn {}

/-- Two sources of the type, C zero (R344, R352). -/
def wfBin (f : VForm) (ty : Ty → Bool) (m : ModSet) : Bool :=
  ty f.ty && f.modsIn m && f.c == 0 && destOk f.d [f.a, f.b] &&
  opndOk f.ty f.d && opndOk f.ty f.a && opndOk f.ty f.b
/-- Three sources of the type. -/
def wfTern (f : VForm) (ty : Ty → Bool) (m : ModSet) : Bool :=
  ty f.ty && f.modsIn m && destOk f.d [f.a, f.b, f.c] &&
  opndOk f.ty f.d && opndOk f.ty f.a && opndOk f.ty f.b && opndOk f.ty f.c
/-- One source of the type, B and C zero. -/
def wfUn (f : VForm) (ty : Ty → Bool) (m : ModSet) : Bool :=
  ty f.ty && f.modsIn m && f.b == 0 && f.c == 0 && destOk f.d [f.a] &&
  opndOk f.ty f.d && opndOk f.ty f.a
/-- Two sources of the type and a selector at most n in C (R346, R357). -/
def wfSel (f : VForm) (ty : Ty → Bool) (m : ModSet) (n : BitVec 8) : Bool :=
  ty f.ty && f.modsIn m && f.c ≤ n && destOk f.d [f.a, f.b] &&
  opndOk f.ty f.d && opndOk f.ty f.a && opndOk f.ty f.b

def anyT : ModSet := {}
def modsAB : ModSet := { a := true, b := true }
def modsABLS : ModSet := { a := true, b := true, l := true, s := true }
def modsABCLS : ModSet := { a := true, b := true, c := true, l := true, s := true }
def modsAL : ModSet := { a := true, l := true }
def modsA : ModSet := { a := true }
def modsALS : ModSet := { a := true, l := true, s := true }

/-- LEA: b is one 32-bit register and may be odd (R347). -/
def wfLea (f : VForm) : Bool :=
  f.ty.isN && f.noMods && f.c ≤ 31 && destOk f.d [f.a, f.b] && opndOk f.ty f.d && opndOk f.ty f.a
/-- FDP2: c and d are f32 registers (R352, R355). -/
def wfFdp2 (f : VForm) : Bool :=
  (f.ty == .f16x2 || f.ty == .bf16x2) && destOk f.d [f.a, f.b, f.c]
/-- The special functions: f32, modifiers A and L (R352). -/
def wfSpecial (f : VForm) : Bool := wfUn f (· == .f32) modsAL
/-- FRND: the rule in C is 0 to 3 (R358). -/
def wfFrnd (f : VForm) : Bool :=
  f.ty.isF && f.modsIn modsA && f.b == 0 && f.c ≤ 3 && destOk f.d [f.a] &&
  opndOk f.ty f.d && opndOk f.ty f.a

/-- The types CVT accepts (R362). -/
def Ty.isCvt (t : Ty) : Bool := t.isN || t == .f32 || t == .f64
/-- The format field FM of a conversion selector (R362). -/
def cvtFm (k : BitVec 8) : Nat := (k.extractLsb' 3 4).toNat
/-- The element field EL of a conversion selector (R362). -/
def cvtEl (k : BitVec 8) : Nat := (k.extractLsb' 0 3).toNat
/-- The DIR bit of a conversion selector (R362). -/
def cvtDir (k : BitVec 8) : Bool := k.getLsbD 7
/-- The pair form: EL 2 with DIR 1 and FM 6 to 9 (R362). -/
def cvtPair (k : BitVec 8) : Bool := cvtDir k && 6 ≤ cvtFm k && cvtFm k ≤ 9 && cvtEl k == 2
/-- The selector is one R362 allows. -/
def cvtSelOk (k : BitVec 8) : Bool :=
  let fm := cvtFm k
  let el := cvtEl k
  if fm ≤ 5 then el == 0
  else if fm ≤ 9 then el ≤ 1 || cvtPair k
  else if fm ≤ 13 then el ≤ 3
  else fm == 14
/-- A register of the format FM: a pair for the 64-bit formats 2, 3 and 5. -/
def fmOpndOk (fm : Nat) (f : BitVec 8) : Bool := isS f || !(fm == 2 || fm == 3 || fm == 5) || isEven f
def wfCvt (f : VForm) : Bool :=
  f.ty.isCvt && f.noMods && cvtSelOk f.c && (cvtPair f.c || f.b == 0) &&
  (if cvtPair f.c then destOk f.d [f.a, f.b] && opndOk f.ty f.b else destOk f.d [f.a]) &&
  (if cvtDir f.c then opndOk f.ty f.a && fmOpndOk (cvtFm f.c) f.d
   else opndOk f.ty f.d && fmOpndOk (cvtFm f.c) f.a)
/-- PACK (R364). -/
def wfPack (f : VForm) : Bool :=
  f.ty == .n32 && f.noMods && f.c ≤ 3 && destOk f.d [f.a, f.b]
/-- UNPACK: FM 8 to 11 and EL within the register (R364). -/
def wfUnpack (f : VForm) : Bool :=
  (f.ty == .i32 || f.ty == .n32) && f.noMods && f.b == 0 && destOk f.d [f.a] && !cvtDir f.c &&
  (if 8 ≤ cvtFm f.c && cvtFm f.c ≤ 9 then cvtEl f.c ≤ 1
   else if 10 ≤ cvtFm f.c && cvtFm f.c ≤ 11 then cvtEl f.c ≤ 3 else false)
/-- RAND (R367). -/
def wfRand (f : VForm) : Bool :=
  (f.ty == .n32 || f.ty == .f32) && f.noMods && f.a == 0 && f.b == 0 && f.c == 0 && isV f.d
/-- MOV: modifiers A, L and S with the floating-point types only (R310, R365). -/
def wfMov (f : VForm) : Bool := wfUn f (fun _ => true) (if f.ty.isF then modsALS else anyT)

/-- The three indexed shuffles (R373). -/
def wfShflR (f : VForm) : Bool :=
  f.ty.isMove && f.noMods && isV f.d && f.c == 0 && opndOk f.ty f.d && opndOk f.ty f.a
/-- SHFLUP and SHFLDN (R373). -/
def wfShflN (f : VForm) : Bool :=
  f.ty.isMove && f.noMods && isV f.d && f.b == 0 && f.c ≤ 7 && opndOk f.ty f.d && opndOk f.ty f.a
def wfVote (f : VForm) : Bool :=
  f.ty.isMove && f.noMods && isV f.a && f.b == 0 && f.c ≤ 3 && opndOk f.ty f.a
def wfBallot (f : VForm) : Bool :=
  f.ty.isMove && f.noMods && isS f.d && isV f.a && f.b == 0 && f.c == 0 && opndOk f.ty f.a
def wfMatch (f : VForm) : Bool :=
  f.ty.isMove && f.noMods && isV f.d && isV f.a && f.b == 0 && f.c ≤ 1 && opndOk f.ty f.a
/-- A reduction operation code that the type has (R379). -/
def redOpOk (t : Ty) (op : BitVec 3) : Bool :=
  if t == .f32 then op ≤ 2 else t.isN && op ≤ 5
def wfVred (f : VForm) : Bool :=
  f.noMods && isV f.a && f.b == 0 && f.c ≤ 7 && redOpOk f.ty (f.c.extractLsb' 0 3) &&
  opndOk f.ty f.d && opndOk f.ty f.a
def wfVscan (f : VForm) : Bool :=
  f.noMods && isV f.d && isV f.a && f.b == 0 && f.c ≤ 15 && redOpOk f.ty (f.c.extractLsb' 0 3) &&
  opndOk f.ty f.d && opndOk f.ty f.a
def wfVstep (f : VForm) : Bool :=
  f.noMods && isV f.d && isV f.a && f.b == 0 && !f.c.getLsbD 3 && !f.c.getLsbD 7 &&
  redOpOk f.ty (f.c.extractLsb' 0 3) && opndOk f.ty f.d && opndOk f.ty f.a
def wfRdfirst (f : VForm) : Bool :=
  f.ty.isMove && f.noMods && isV f.a && f.b == 0 && f.c == 0 && opndOk f.ty f.d && opndOk f.ty f.a
def wfRdlane (f : VForm) : Bool :=
  f.ty.isMove && f.noMods && isV f.a && isS f.b && f.c == 0 && opndOk f.ty f.d && opndOk f.ty f.a
def wfWrlane (f : VForm) : Bool :=
  f.ty.isMove && f.noMods && isV f.d && isS f.a && isS f.b && f.c == 0 && opndOk f.ty f.d
/-- A mask field holds 0x00 to 0x07 (R315). -/
def isK (f : BitVec 8) : Bool := f ≤ 7
def wfKbin (f : VForm) : Bool :=
  f.ty == .i32 && f.noMods && isK f.d && isK f.a && isK f.b && f.c == 0
def wfKnot (f : VForm) : Bool :=
  f.ty == .i32 && f.noMods && isK f.d && isK f.a && f.b == 0 && f.c == 0
/-- KMOV by its form in C (R384). -/
def wfKmov (f : VForm) : Bool :=
  f.noMods && f.b == 0 && (f.ty == .i32 || (f.ty == .i64 && f.c == 1)) &&
  (if f.c == 0 then isK f.d && isK f.a
   else if f.c == 1 then isK f.d && isV f.a && opndOk f.ty f.a
   else if f.c == 2 then isK f.d && isS f.a
   else f.c == 3 && isS f.d && isK f.a)
def wfKscal (f : VForm) : Bool :=
  f.ty == .i32 && f.noMods && isS f.d && isK f.a && f.b == 0 && f.c == 0
def wfVxec (f : VForm) : Bool :=
  f.ty == .i32 && f.noMods && f.d == 0 && isV f.a && isEven f.a && isK f.b && f.c == 0
def wfSpawn (f : VForm) : Bool :=
  f.ty == .i32 && f.noMods && isV f.d && f.c ≤ 3

/-- Bytes of an access size (R316). -/
def Size.bytes : Size → Nat
  | .b8 => 1 | .b16 => 2 | .b32 => 4 | .b64 => 8 | .b128 => 16 | .b256 => 32
/-- Vector registers of an access size (R416). -/
def Size.regs : Size → Nat
  | .b8 | .b16 | .b32 => 1 | .b64 => 2 | .b128 => 4 | .b256 => 8

/-- BASE of a global address: a scalar or an even vector register (R415). -/
def gBaseOk (m : MForm) : Bool := isS m.base || isEven m.base
/-- IDX 0xFF means no index (R316). -/
def noIdx (m : MForm) : Bool := m.idx == 0xFF
/-- The address is scalar: BASE scalar and IDX scalar or absent. -/
def scalarAddr (m : MForm) : Bool := isS m.base && isS m.idx
/-- D as the data of an access (R416); src when D is a source. -/
def dataOk (m : MForm) (src : Bool) : Bool :=
  if isV m.d then m.d.toNat % m.size.regs == 0
  else m.size.bytes ≤ 8 && (src || scalarAddr m)
def noStrm (m : MForm) : Bool := m.strm == 0
def isPlain (m : MForm) : Bool := m.scope == .plain
/-- No address: BASE and IDX are 0x00 (R419). -/
def noAddr (m : MForm) : Bool := m.base == 0 && m.idx == 0

def wfLd (m : MForm) : Bool := gBaseOk m && dataOk m false
def wfSt (m : MForm) : Bool := gBaseOk m && dataOk m true
def wfLds (m : MForm) : Bool := noStrm m && dataOk m false
def wfSts (m : MForm) : Bool := noStrm m && dataOk m true
def wfLdAcq (m : MForm) : Bool := wfLd m && !isPlain m && m.size.bytes ≤ 8
def wfStRel (m : MForm) : Bool := wfSt m && !isPlain m && m.size.bytes ≤ 8
def wfLdw (m : MForm) : Bool := isV m.d && isPlain m && m.size == .b32 && noStrm m
def wfStw (m : MForm) : Bool := isPlain m && m.size == .b32 && noStrm m
def wfTag (m : MForm) : Bool :=
  1 ≤ m.d && m.d ≤ 3 && isPlain m && (m.size == .b32 || m.size == .b64) && noStrm m
def wfPairWord (m : MForm) : Bool :=
  isS m.d && scalarAddr m && isPlain m && m.size == .b64 && noStrm m
def wfFence (m : MForm) : Bool :=
  m.d == 0 && noAddr m && m.ofs == 0 && !isPlain m && m.size == .b8 && noStrm m
/-- OFS carries a window or FIFO number; 31 is illegal (R419). -/
def bankOk (m : MForm) : Bool := noAddr m && m.ofs < 31 && isPlain m && noStrm m
def wfShut (m : MForm) : Bool := m.d == 0 && bankOk m && m.size == .b8
def wfQpush (m : MForm) : Bool := bankOk m && m.size == .b32
def wfQpop (m : MForm) : Bool := isV m.d && bankOk m && m.size == .b32
def wfPref (m : MForm) : Bool := m.d == 0 && gBaseOk m && isPlain m && m.size == .b8
def wfCinvA (m : MForm) (form : BitVec 8) : Bool :=
  m.d == form && gBaseOk m && isPlain m && m.size == .b8 && noStrm m
def wfCinvCtx (m : MForm) : Bool :=
  m.d == 2 && noAddr m && m.ofs == 0 && isPlain m && m.size == .b8 && noStrm m
def atomSize (m : MForm) : Bool := m.size == .b32 || m.size == .b64
/-- ATOM: IDX is the operand; a scalar D needs a scalar BASE and operand (R416, R426). -/
def wfAtom (m : MForm) : Bool :=
  gBaseOk m && !isPlain m && atomSize m &&
  (if isV m.d then m.d.toNat % m.size.regs == 0 else isS m.base && isS m.idx) &&
  (isS m.idx || m.idx.toNat % m.size.regs == 0)
/-- ATOM.CAS: compare and swap operands in consecutive registers (R426). -/
def wfCas (m : MForm) : Bool :=
  wfAtom m && (if isS m.idx then isEven m.idx else m.idx.toNat % (2 * m.size.regs) == 0)
def wfRed (m : MForm) : Bool :=
  gBaseOk m && !isPlain m && atomSize m && (isS m.d || m.d.toNat % m.size.regs == 0)
def wfLdfrag (m : MForm) : Bool :=
  isV m.d && m.d.toNat % 4 == 0 && isPlain m && noStrm m && (m.size == .b8 || m.size == .b16)

/-- The mask field of the role zero (R317). -/
def maskZero (f : CForm) : Bool := !f.mask.neg && f.mask.k == 0
def noKeep (f : CForm) : Bool := f.b == 0 && f.imm == 0
def wfBranch (f : CForm) : Bool := f.a == 0 && noKeep f
def wfJumpReg (f : CForm) : Bool := isS f.a && noKeep f && f.ofs == 0
def wfCall (f : CForm) : Bool := isS f.a && noKeep f
def wfNoMask (f : CForm) : Bool := f.a == 0 && noKeep f && maskZero f
def wfEndif (f : CForm) : Bool := wfNoMask f && f.ofs == 0
def wfNoOfs (f : CForm) : Bool := f.a == 0 && noKeep f && f.ofs == 0

/-- A record pair field: an even scalar register (R318). -/
def isPairF (f : BitVec 8) : Bool := isS f && isEven f
def wfTmma (f : TForm) : Bool := isPairF f.ra && isPairF f.rb && f.aux == 0 && f.fn ≤ 1
def wfTzero (f : TForm) : Bool := f.ra == 0xC0 && f.rb == 0 && f.aux == 0 && f.fn ≤ 15
def wfTloada (f : TForm) : Bool := isPairF f.ra && f.rb == 0 && f.aux == 0 && f.fn ≤ 2
def drainFmt (f : TForm) : BitVec 8 := f.fn.extractLsb' 0 8
def drainOvr (f : TForm) : Bool := f.fn.getLsbD 8
def drainHen (f : TForm) : Bool := f.fn.getLsbD 12
def wfTdrain (f : TForm) : Bool :=
  isPairF f.ra && f.rb == 0 && (if drainHen f then isS f.aux else f.aux == 0) &&
  (drainFmt f == 0x10 || (2 ≤ drainFmt f && drainFmt f ≤ 6)) &&
  (drainOvr f || f.fn.extractLsb' 9 3 == 0) && (drainHen f || f.fn.extractLsb' 13 3 == 0) &&
  (drainFmt f != 6 || (!drainOvr f && f.fn.extractLsb' 9 3 == 0))
def wfHread (f : TForm) : Bool :=
  f.td == 0 && isPairF f.ra && f.rb == 0 && f.aux == 0 && f.fn ≤ 15
def wfCbook (f : TForm) (fn : BitVec 16) : Bool :=
  f.td == 0 && isPairF f.ra && f.rb == 0 && f.aux == 0 && f.fn == fn
def wfTsplit (f : TForm) : Bool :=
  isPairF f.ra && isPairF f.rb && isS f.aux && f.fn < 0x200 &&
  (if f.fn.getLsbD 8 then isS f.td else f.td == 0)
def wfCpy (f : TForm) : Bool :=
  f.td == 0 && isPairF f.ra && isPairF f.rb && isS f.aux && f.fn == 0
def wfCpy3 (f : TForm) : Bool :=
  isPairF f.td && isPairF f.ra && isPairF f.rb && isS f.aux && f.fn == 0
def wfFput (f : TForm) (top : BitVec 16) : Bool :=
  f.td == 0 && isPairF f.ra && isPairF f.rb && isS f.aux && f.fn ≤ top
def wfFsig (f : TForm) : Bool :=
  f.td == 0 && isPairF f.ra && isPairF f.rb && f.aux == 0 && f.fn ≤ 7
def wfColl (f : TForm) : Bool :=
  f.td == 0 && isPairF f.ra && f.rb == 0 && f.aux == 0 && f.fn == 0
def wfCcancel (f : TForm) : Bool :=
  f.td == 0 && isPairF f.ra && f.rb == 0 && isS f.aux && f.fn == 0
def wfCstat (f : TForm) : Bool :=
  isS f.td && isPairF f.ra && f.rb == 0 && f.aux == 0 && f.fn == 0

def wfMovi (f : IForm) : Bool := f.a == 0
def wfMovih (f : IForm) : Bool := f.a == 0 && (isS f.d || isEven f.d)
def wfImmOp (f : IForm) : Bool := destOk f.d [f.a]
def wfShli (f : IForm) : Bool :=
  destOk f.d [f.a] && f.imm < 0x100 && f.imm.extractLsb' 6 2 != 3 &&
  (isS f.d || f.imm.extractLsb' 0 6 ≤ 31)
def wfIcmpi (f : IForm) : Bool := destOk f.d [f.a] && f.imm.extractLsb' 28 4 ≤ 9
def wfLeai (f : IForm) : Bool := isS f.d && f.a == 0
def wfWait (f : IForm) : Bool := f.d == 0 && f.a == 0 && f.imm < 0x1000000

/-- The special registers of R407. -/
inductive Sr where
  | width | lw | lane | grp | teamx | teamy | teamz | core | clu | vdn
  | mode | gang | xfm | xfc | wcnt | fst | tvec | tpos | taddr | tcause | tstat | clk | rngseed
  deriving DecidableEq, Repr

/-- The register a number names, if any (R407). -/
def Sr.ofNum (n : BitVec 16) : Option Sr :=
  match n.toNat with
  | 0x01 => some .width | 0x02 => some .lw | 0x03 => some .lane | 0x04 => some .grp
  | 0x05 => some .teamx | 0x06 => some .teamy | 0x07 => some .teamz | 0x08 => some .core
  | 0x09 => some .clu | 0x0A => some .vdn | 0x10 => some .mode | 0x11 => some .gang
  | 0x12 => some .xfm | 0x13 => some .xfc | 0x14 => some .wcnt | 0x15 => some .fst
  | 0x18 => some .tvec | 0x19 => some .tpos | 0x1A => some .taddr | 0x1B => some .tcause
  | 0x1C => some .tstat | 0x20 => some .clk | 0x21 => some .rngseed
  | _ => none
/-- The registers of 64 bits (R407). -/
def Sr.is64 : Sr → Bool
  | .mode | .gang | .tvec | .tpos | .taddr | .clk | .rngseed => true
  | _ => false
/-- MFSR: the destination the register allows (R406). -/
def wfMfsr (f : XForm) : Bool :=
  f.a == 0 && f.imm == 0 &&
  match Sr.ofNum f.sreg with
  | none => false
  | some .lane => isV f.d
  | some .xfm => isS f.d
  | some r => isS f.d || !r.is64 || isEven f.d
def wfMtsr (f : XForm) : Bool :=
  f.d == 0 && f.imm == 0 && isS f.a && (Sr.ofNum f.sreg).isSome
def xZero (f : XForm) : Bool := f.d == 0 && f.a == 0 && f.sreg == 0
def wfNop (f : XForm) : Bool := xZero f && f.imm == 0
def wfYield (f : XForm) : Bool := xZero f && f.imm < 0x1000
def wfTrap (f : XForm) : Bool := xZero f && f.imm < 0x8000
def wfTrapRet (f : XForm) : Bool := xZero f && f.imm == 0x8000 && !f.g.neg && f.g.k == 0
def wfProg (f : XForm) : Bool := xZero f && f.imm ≤ 7

/-- How the B field of a compact half is used (R326, R328). -/
inductive PUse where
  | un | bin | acc | imm (top : Nat) | none_
  deriving DecidableEq, Repr

/-- A row and column of R328: the use of the fields, class X, and whether NA and NB are accepted. -/
structure PRow where
  use : PUse
  x : Bool := false
  na : Bool := false
  nb : Bool := false
  deriving DecidableEq, Repr

/-- The table of R328, by compact opcode and T. -/
def pRow (cop : BitVec 6) (t : Bool) : Option PRow :=
  let i (u : PUse) : Option PRow := some { use := u }
  let fb (u : PUse) : Option PRow := some { use := u, na := true, nb := true }
  let fx : Option PRow := some { use := .un, x := true, na := true }
  let cv (u : PUse) : Option PRow := some { use := u, x := true }
  match cop.toNat, t with
  | 0x00, false => i .un
  | 0x01, false | 0x02, false | 0x03, false => i .bin
  | 0x01, true | 0x02, true | 0x03, true => fb .bin
  | 0x04, false => i .acc
  | 0x04, true => fb .acc
  | 0x05, false | 0x06, false => i .bin
  | 0x05, true | 0x06, true => fb .bin
  | 0x07, _ | 0x08, _ => i .bin
  | 0x09, false | 0x0A, false | 0x0B, false | 0x0C, false => i .bin
  | 0x0D, false | 0x0E, false | 0x0F, false => i .bin
  | 0x0D, true | 0x0E, true | 0x0F, true => i (.imm 31)
  | 0x10, _ => i .un
  | 0x11, false => i .un
  | 0x12, _ => i .acc
  | 0x13, _ => fb .acc
  | 0x14, false | 0x15, false | 0x16, false | 0x18, false | 0x19, false => i .bin
  | 0x17, false => i .acc
  | 0x14, true | 0x15, true | 0x16, true | 0x18, true | 0x19, true => fb .bin
  | 0x17, true => fb .acc
  | 0x1A, false | 0x1B, false | 0x1C, false | 0x1D, false => i .bin
  | 0x1A, true | 0x1B, true | 0x1C, true => fb .bin
  | 0x1D, true => fb .acc
  | 0x1E, _ | 0x1F, _ => i (.imm 127)
  | 0x20, _ | 0x21, _ | 0x22, _ | 0x23, _ | 0x24, _ | 0x25, _ => fx
  | 0x26, _ | 0x27, _ => cv .un
  | 0x28, _ => cv .bin
  | 0x29, _ | 0x2A, _ => cv .un
  | 0x2B, _ => i .bin
  | 0x2C, _ => cv .none_
  | _, _ => none

/-- The vector registers a half reads (R327). -/
def PHalf.reads (h : PHalf) (u : PUse) : List (BitVec 7) :=
  match u with
  | .un | .imm _ => [h.a]
  | .bin => [h.a, h.b]
  | .acc => [h.a, h.b, h.d]
  | .none_ => []

/-- A half is an entry of R328 and leaves its unused fields zero (R327). -/
def PHalf.ok (h : PHalf) : Bool :=
  match pRow h.cop h.t with
  | none => false
  | some r =>
    (r.na || !h.na) && (r.nb || !h.nb) &&
    match r.use with
    | .un => h.b == 0
    | .imm top => h.b.toNat ≤ top
    | .none_ => h.a == 0 && h.b == 0
    | _ => true

/-- The rules of R327 for the two halves together. -/
def wfPair (f : PForm) : Bool :=
  f.h0.ok && f.h1.ok &&
  match pRow f.h0.cop f.h0.t, pRow f.h1.cop f.h1.t with
  | some r0, some r1 =>
    let a := f.h0.reads r0.use
    let b := f.h1.reads r1.use
    let all := (a ++ b).eraseDups
    f.h0.d != f.h1.d && !(a.contains f.h1.d) && !(b.contains f.h0.d) &&
    [0, 1, 2, 3].all (fun k => (all.filter (fun r => r.toNat % 4 == k)).length ≤ 2) &&
    !(r0.x && r1.x)
  | _, _ => false

/-- The encoding of the instruction is legal (R329). -/
def Instr.wf : Instr → Bool
  | .pair f => wfPair f
  | .iadd f => wfBin f Ty.isInt anyT
  | .isub f => wfBin f Ty.isInt anyT
  | .imul f => wfBin f (fun t => t.isN || t == .i16x2 || t == .n16x2) anyT
  | .imulh f => wfBin f Ty.isN anyT
  | .imad f => wfTern f (fun t => t.isN || t == .i16x2 || t == .n16x2) anyT
  | .imin f => wfBin f Ty.isInt anyT
  | .imax f => wfBin f Ty.isInt anyT
  | .icmp f => wfSel f Ty.isInt anyT 5
  | .isel f => wfTern f Ty.isInt anyT
  | .lea f => wfLea f
  | .andV f => wfBin f Ty.isInt anyT
  | .orV f => wfBin f Ty.isInt anyT
  | .xorV f => wfBin f Ty.isInt anyT
  | .andn f => wfBin f Ty.isInt anyT
  | .shl f => wfBin f Ty.isInt anyT
  | .shr f => wfBin f Ty.isInt anyT
  | .sar f => wfBin f Ty.isInt anyT
  | .bfe f => wfBin f Ty.isN anyT
  | .bfi f => wfTern f Ty.isN anyT
  | .popc f => wfUn f Ty.isN anyT
  | .clz f => wfUn f Ty.isN anyT
  | .brev f => wfUn f Ty.isN anyT
  | .idp4 f => wfTern f (fun t => t == .i8x4 || t == .n8x4) anyT
  | .fdp2 f => wfFdp2 f
  | .fadd f => wfBin f Ty.isF modsABLS
  | .fsub f => wfBin f Ty.isF modsABLS
  | .fmul f => wfBin f Ty.isF modsABLS
  | .ffma f => wfTern f Ty.isF modsABCLS
  | .fmin f => wfBin f Ty.isF modsAB
  | .fmax f => wfBin f Ty.isF modsAB
  | .fcmp f => wfSel f Ty.isF modsAB 7
  | .fsel f => wfTern f Ty.isF modsAB
  | .frnd f => wfFrnd f
  | .fclass f => wfUn f Ty.isF anyT
  | .frcp f => wfSpecial f
  | .frsq f => wfSpecial f
  | .fsqrt f => wfSpecial f
  | .fexp2 f => wfSpecial f
  | .flog2 f => wfSpecial f
  | .fsin f => wfSpecial f
  | .fcos f => wfSpecial f
  | .ftanh f => wfSpecial f
  | .cvt f => wfCvt f
  | .pack f => wfPack f
  | .unpack f => wfUnpack f
  | .rand f => wfRand f
  | .mov f => wfMov f
  | .shfl f => wfShflR f
  | .shflx f => wfShflR f
  | .shflup f => wfShflN f
  | .shfldn f => wfShflN f
  | .shflr f => wfShflR f
  | .vote f => wfVote f
  | .ballot f => wfBallot f
  | .matchV f => wfMatch f
  | .vred f => wfVred f
  | .vscan f => wfVscan f
  | .vstep f => wfVstep f
  | .rdfirst f => wfRdfirst f
  | .rdlane f => wfRdlane f
  | .wrlane f => wfWrlane f
  | .kand f => wfKbin f
  | .kor f => wfKbin f
  | .kxor f => wfKbin f
  | .knot f => wfKnot f
  | .kmov f => wfKmov f
  | .kpop f => wfKscal f
  | .kffs f => wfKscal f
  | .vxec f => wfVxec f
  | .spawn f => wfSpawn f
  | .ld f => wfLd f
  | .st f => wfSt f
  | .lds f => wfLds f
  | .sts f => wfSts f
  | .ldAcq f => wfLdAcq f
  | .stRel f => wfStRel f
  | .ldwF f => wfLdw f
  | .ldwFE f => wfLdw f
  | .stwE f => wfStw f
  | .tagset f => wfTag f
  | .tagclr f => wfTag f
  | .ldfrag f => wfLdfrag f
  | .ldfragT f => wfLdfrag f
  | .larm f => wfPairWord f
  | .barinit f => wfPairWord f
  | .barr f => wfPairWord f
  | .bwait f => wfPairWord f
  | .arrw f => wfPairWord f
  | .fenceAcq f => wfFence f
  | .fenceRel f => wfFence f
  | .fenceFull f => wfFence f
  | .shutS f => wfShut f
  | .shutQ f => wfShut f
  | .shutC f => wfShut f
  | .shutCq f => wfShut f
  | .qpush f => wfQpush f
  | .qpop f => wfQpop f
  | .pref f => wfPref f
  | .cinvL1 f => wfCinvA f 0
  | .cinvTlb f => wfCinvA f 1
  | .cinvCtx f => wfCinvCtx f
  | .atomAdd f => wfAtom f
  | .atomMin f => wfAtom f
  | .atomMax f => wfAtom f
  | .atomMinN f => wfAtom f
  | .atomMaxN f => wfAtom f
  | .atomAnd f => wfAtom f
  | .atomOr f => wfAtom f
  | .atomXor f => wfAtom f
  | .atomExch f => wfAtom f
  | .atomCas f => wfCas f
  | .atomFadd f => wfAtom f
  | .atomFmin f => wfAtom f
  | .atomFmax f => wfAtom f
  | .atomIncwrap f => wfAtom f
  | .redAdd f => wfRed f
  | .redMin f => wfRed f
  | .redMax f => wfRed f
  | .redMinN f => wfRed f
  | .redMaxN f => wfRed f
  | .redAnd f => wfRed f
  | .redOr f => wfRed f
  | .redXor f => wfRed f
  | .redFadd f => wfRed f
  | .redFmin f => wfRed f
  | .redFmax f => wfRed f
  | .redIncwrap f => wfRed f
  | .bra f => wfBranch f
  | .bany f => wfBranch f
  | .ball f => wfBranch f
  | .bnone f => wfBranch f
  | .brx f => wfJumpReg f
  | .call f => wfCall f
  | .ret f => wfJumpReg f
  | .ifW f => wfBranch f
  | .elseW f => wfNoMask f
  | .endifW f => wfEndif f
  | .loopW f => wfNoMask f
  | .breakW f => wfBranch f
  | .contW f => wfNoOfs f
  | .endloopW f => wfNoMask f
  | .exitW f => wfNoOfs f
  | .exits _ => true
  | .movi f => wfMovi f
  | .movih f => wfMovih f
  | .iaddi f => wfImmOp f
  | .andi f => wfImmOp f
  | .ori f => wfImmOp f
  | .xori f => wfImmOp f
  | .shli f => wfShli f
  | .icmpi f => wfIcmpi f
  | .fmovi f => wfMovi f
  | .leai f => wfLeai f
  | .wait f => wfWait f
  | .nop f => wfNop f
  | .yield f => wfYield f
  | .mfsr f => wfMfsr f
  | .mtsr f => wfMtsr f
  | .trap f => wfTrap f
  | .trapRet f => wfTrapRet f
  | .bkpt f => wfNop f
  | .prog f => wfProg f
  | .tmma f => wfTmma f
  | .tmmag f => wfTmma f
  | .tzero f => wfTzero f
  | .tloada f => wfTloada f
  | .tdrain f => wfTdrain f
  | .hread f => wfHread f
  | .cbook f => wfCbook f 0
  | .cbookDef f => wfCbook f 1
  | .tsplit f => wfTsplit f
  | .cpy f => wfCpy f
  | .cpy2 f => wfCpy f
  | .cpy3 f => wfCpy3 f
  | .fput f => wfFput f 7
  | .fget f => wfFput f 3
  | .fsigInstr f => wfFsig f
  | .coll f => wfColl f
  | .ccancel f => wfCcancel f
  | .cstat f => wfCstat f
  | .coldStart => true
  | .warmStart => true
  | .haspMarkPreserved => true
  | .supplyOrThermalExcursion => true
  | .clockStep => true
  | .moduleTrip => true
  | .dataFlitRx => true
  | .linkControlFlitTx => true
  | .linkControlFlitRx => true
  | .controlFlitTimeout => true
  | .parityFlitTx => true
  | .parityFlitRx => true
  | .parityTimeout => true
  | .laneBad => true
  | .linkIdleTimeout => true
  | .linkRetrainDone => true
  | .linkFail => true
  | .ezlRetrain => true
  | .ezlWiden => true
  | .ezlDisable => true
  | .ezlWmarkWrite => true
  | .ezlClear => true
  | .registerWrite => true
  | .readReq => true
  | .writeReq => true
  | .postedReq => true
  | .atomicReq => true
  | .fsigReq => true
  | .cfgrd => true
  | .cfgwr => true
  | .mmiord => true
  | .mmiowr => true
  | .hostrd => true
  | .hostwr => true
  | .hostConfigRequest => true
  | .hostMmioRequest => true
  | .cdata => true
  | .cbegun => true
  | .mstream => true
  | .rdata => true
  | .rack => true
  | .resumeMsg => true
  | .abortMsg => true
  | .streamFreezeTimeout => true
  | .rfaultRetryResend => true
  | .freezeConditionClear => true
  | .freezeConditionPermanent => true
  | .heldRequestSend => true
  | .remoteAccessFault => true
  | .packetUnknownOp => true
  | .vdnUpdate => true
  | .vdnDrainComplete => true
  | .vdnAck => true
  | .vdnUpdateRepeat => true
  | .forwardWindowExpire => true
  | .evrec => true
  | .hmsg => true
  | .seqReg => true
  | .seqAssign => true
  | .seqAack => true
  | .seqBegin => true
  | .seqGrant => true
  | .seqCancel => true
  | .seqCresult => true
  | .seqRetire => true
  | .seqDone => true
  | .seqMirror => true
  | .seqMack => true
  | .seqBeat => true
  | .seqTerm => true
  | .seqMessageRepeat => true
  | .seqBeatTimer => true
  | .seqBeatTimeout => true
  | .takeover => true
  | .csqRoleWrite => true
  | .ceSeqWrite => true
  | .engineBeginNumber => true
  | .collDataPhaseComplete => true
  | .collSegmentRepeat => true
  | .partSet => true
  | .partClear => true
  | .badcmd => true
  | .migOut => true
  | .migStopnow => true
  | .migAbort => true
  | .migIn => true
  | .nodest => true
  | .ckpt => true
  | .restoreImg => true
  | .dbgGrant => true
  | .dbgRevoke => true
  | .profBegin => true
  | .profEnd => true
  | .precopyPassEnd => true
  | .migPrecheck => true
  | .quiesceDone => true
  | .stoplate => true
  | .finalCopyDone => true
  | .migDestTimeout => true
  | .notifyStore => true
  | .qcfgWrite => true
  | .qerrHaltClear => true
  | .commandFetch => true
  | .launchCommand => true
  | .graphCommand => true
  | .copyCommand => true
  | .markerCommand => true
  | .flr => true
  | .flrComplete => true
  | .firmwareCapabilityFault => true
  | .bootApertureWrite => true
  | .fwcRange => true
  | .walkComplete => true
  | .parkedRetry => true
  | .flimExpire => true
  | .haspStage2Refuse => true
  | .xlInv => true
  | .xlInvComplete => true
  | .tierMove => true
  | .patrolScrub => true
  | .dirtyLineLost => true
  | .distributorPlace => true
  | .launchHold => true
  | .disCtimeTick => true
  | .scrubComplete => true
  | .graphNodeRetire => true
  | .starvationWin => true
  | .groupEnd => true
  | .coreStop => true
  | .shutFlip => true
  | .clusterAgentDelivery => true
  | .loadComplete => true
  | .storeAck => true
  | .syncClr => true
  | .prbHaltAll => true
  | .prbHaltRelease => true
  | .prbHaltOne => true
  | .prbEdit => true
  | .sampleInterval => true
  | .tbWptrWrite => true
  | .causalStart => true
  | .causalStop => true
  | .causalDelayExpire => true
  | .passStart => true
  | .passEnd => true
  | .replayAtomicTimeout => true
  | .yieldDelayExpire => true
  | .impreciseFaultDelivery => true
  | .tileOpComplete => true
  | .cteUnitComplete => true
  | .dataFlitTx => true
  | .linkNarrowRequest => true
  | .communicatorInstall => true
  | .copyCommandComplete => true
  | .cstatAnswer => true

/-- The instruction has an encoding as a word: it is no event. -/
def Instr.isWord : Instr → Bool
  | .pair _ => true
  | .iadd _ => true
  | .isub _ => true
  | .imul _ => true
  | .imulh _ => true
  | .imad _ => true
  | .imin _ => true
  | .imax _ => true
  | .icmp _ => true
  | .isel _ => true
  | .lea _ => true
  | .andV _ => true
  | .orV _ => true
  | .xorV _ => true
  | .andn _ => true
  | .shl _ => true
  | .shr _ => true
  | .sar _ => true
  | .bfe _ => true
  | .bfi _ => true
  | .popc _ => true
  | .clz _ => true
  | .brev _ => true
  | .idp4 _ => true
  | .fdp2 _ => true
  | .fadd _ => true
  | .fsub _ => true
  | .fmul _ => true
  | .ffma _ => true
  | .fmin _ => true
  | .fmax _ => true
  | .fcmp _ => true
  | .fsel _ => true
  | .frnd _ => true
  | .fclass _ => true
  | .frcp _ => true
  | .frsq _ => true
  | .fsqrt _ => true
  | .fexp2 _ => true
  | .flog2 _ => true
  | .fsin _ => true
  | .fcos _ => true
  | .ftanh _ => true
  | .cvt _ => true
  | .pack _ => true
  | .unpack _ => true
  | .rand _ => true
  | .mov _ => true
  | .shfl _ => true
  | .shflx _ => true
  | .shflup _ => true
  | .shfldn _ => true
  | .shflr _ => true
  | .vote _ => true
  | .ballot _ => true
  | .matchV _ => true
  | .vred _ => true
  | .vscan _ => true
  | .vstep _ => true
  | .rdfirst _ => true
  | .rdlane _ => true
  | .wrlane _ => true
  | .kand _ => true
  | .kor _ => true
  | .kxor _ => true
  | .knot _ => true
  | .kmov _ => true
  | .kpop _ => true
  | .kffs _ => true
  | .vxec _ => true
  | .spawn _ => true
  | .ld _ => true
  | .st _ => true
  | .lds _ => true
  | .sts _ => true
  | .ldAcq _ => true
  | .stRel _ => true
  | .ldwF _ => true
  | .ldwFE _ => true
  | .stwE _ => true
  | .tagset _ => true
  | .tagclr _ => true
  | .ldfrag _ => true
  | .ldfragT _ => true
  | .larm _ => true
  | .barinit _ => true
  | .barr _ => true
  | .bwait _ => true
  | .arrw _ => true
  | .fenceAcq _ => true
  | .fenceRel _ => true
  | .fenceFull _ => true
  | .shutS _ => true
  | .shutQ _ => true
  | .shutC _ => true
  | .shutCq _ => true
  | .qpush _ => true
  | .qpop _ => true
  | .pref _ => true
  | .cinvL1 _ => true
  | .cinvTlb _ => true
  | .cinvCtx _ => true
  | .atomAdd _ => true
  | .atomMin _ => true
  | .atomMax _ => true
  | .atomMinN _ => true
  | .atomMaxN _ => true
  | .atomAnd _ => true
  | .atomOr _ => true
  | .atomXor _ => true
  | .atomExch _ => true
  | .atomCas _ => true
  | .atomFadd _ => true
  | .atomFmin _ => true
  | .atomFmax _ => true
  | .atomIncwrap _ => true
  | .redAdd _ => true
  | .redMin _ => true
  | .redMax _ => true
  | .redMinN _ => true
  | .redMaxN _ => true
  | .redAnd _ => true
  | .redOr _ => true
  | .redXor _ => true
  | .redFadd _ => true
  | .redFmin _ => true
  | .redFmax _ => true
  | .redIncwrap _ => true
  | .bra _ => true
  | .bany _ => true
  | .ball _ => true
  | .bnone _ => true
  | .brx _ => true
  | .call _ => true
  | .ret _ => true
  | .ifW _ => true
  | .elseW _ => true
  | .endifW _ => true
  | .loopW _ => true
  | .breakW _ => true
  | .contW _ => true
  | .endloopW _ => true
  | .exitW _ => true
  | .exits _ => true
  | .movi _ => true
  | .movih _ => true
  | .iaddi _ => true
  | .andi _ => true
  | .ori _ => true
  | .xori _ => true
  | .shli _ => true
  | .icmpi _ => true
  | .fmovi _ => true
  | .leai _ => true
  | .wait _ => true
  | .nop _ => true
  | .yield _ => true
  | .mfsr _ => true
  | .mtsr _ => true
  | .trap _ => true
  | .trapRet _ => true
  | .bkpt _ => true
  | .prog _ => true
  | .tmma _ => true
  | .tmmag _ => true
  | .tzero _ => true
  | .tloada _ => true
  | .tdrain _ => true
  | .hread _ => true
  | .cbook _ => true
  | .cbookDef _ => true
  | .tsplit _ => true
  | .cpy _ => true
  | .cpy2 _ => true
  | .cpy3 _ => true
  | .fput _ => true
  | .fget _ => true
  | .fsigInstr _ => true
  | .coll _ => true
  | .ccancel _ => true
  | .cstat _ => true
  | .coldStart => false
  | .warmStart => false
  | .haspMarkPreserved => false
  | .supplyOrThermalExcursion => false
  | .clockStep => false
  | .moduleTrip => false
  | .dataFlitRx => false
  | .linkControlFlitTx => false
  | .linkControlFlitRx => false
  | .controlFlitTimeout => false
  | .parityFlitTx => false
  | .parityFlitRx => false
  | .parityTimeout => false
  | .laneBad => false
  | .linkIdleTimeout => false
  | .linkRetrainDone => false
  | .linkFail => false
  | .ezlRetrain => false
  | .ezlWiden => false
  | .ezlDisable => false
  | .ezlWmarkWrite => false
  | .ezlClear => false
  | .registerWrite => false
  | .readReq => false
  | .writeReq => false
  | .postedReq => false
  | .atomicReq => false
  | .fsigReq => false
  | .cfgrd => false
  | .cfgwr => false
  | .mmiord => false
  | .mmiowr => false
  | .hostrd => false
  | .hostwr => false
  | .hostConfigRequest => false
  | .hostMmioRequest => false
  | .cdata => false
  | .cbegun => false
  | .mstream => false
  | .rdata => false
  | .rack => false
  | .resumeMsg => false
  | .abortMsg => false
  | .streamFreezeTimeout => false
  | .rfaultRetryResend => false
  | .freezeConditionClear => false
  | .freezeConditionPermanent => false
  | .heldRequestSend => false
  | .remoteAccessFault => false
  | .packetUnknownOp => false
  | .vdnUpdate => false
  | .vdnDrainComplete => false
  | .vdnAck => false
  | .vdnUpdateRepeat => false
  | .forwardWindowExpire => false
  | .evrec => false
  | .hmsg => false
  | .seqReg => false
  | .seqAssign => false
  | .seqAack => false
  | .seqBegin => false
  | .seqGrant => false
  | .seqCancel => false
  | .seqCresult => false
  | .seqRetire => false
  | .seqDone => false
  | .seqMirror => false
  | .seqMack => false
  | .seqBeat => false
  | .seqTerm => false
  | .seqMessageRepeat => false
  | .seqBeatTimer => false
  | .seqBeatTimeout => false
  | .takeover => false
  | .csqRoleWrite => false
  | .ceSeqWrite => false
  | .engineBeginNumber => false
  | .collDataPhaseComplete => false
  | .collSegmentRepeat => false
  | .partSet => false
  | .partClear => false
  | .badcmd => false
  | .migOut => false
  | .migStopnow => false
  | .migAbort => false
  | .migIn => false
  | .nodest => false
  | .ckpt => false
  | .restoreImg => false
  | .dbgGrant => false
  | .dbgRevoke => false
  | .profBegin => false
  | .profEnd => false
  | .precopyPassEnd => false
  | .migPrecheck => false
  | .quiesceDone => false
  | .stoplate => false
  | .finalCopyDone => false
  | .migDestTimeout => false
  | .notifyStore => false
  | .qcfgWrite => false
  | .qerrHaltClear => false
  | .commandFetch => false
  | .launchCommand => false
  | .graphCommand => false
  | .copyCommand => false
  | .markerCommand => false
  | .flr => false
  | .flrComplete => false
  | .firmwareCapabilityFault => false
  | .bootApertureWrite => false
  | .fwcRange => false
  | .walkComplete => false
  | .parkedRetry => false
  | .flimExpire => false
  | .haspStage2Refuse => false
  | .xlInv => false
  | .xlInvComplete => false
  | .tierMove => false
  | .patrolScrub => false
  | .dirtyLineLost => false
  | .distributorPlace => false
  | .launchHold => false
  | .disCtimeTick => false
  | .scrubComplete => false
  | .graphNodeRetire => false
  | .starvationWin => false
  | .groupEnd => false
  | .coreStop => false
  | .shutFlip => false
  | .clusterAgentDelivery => false
  | .loadComplete => false
  | .storeAck => false
  | .syncClr => false
  | .prbHaltAll => false
  | .prbHaltRelease => false
  | .prbHaltOne => false
  | .prbEdit => false
  | .sampleInterval => false
  | .tbWptrWrite => false
  | .causalStart => false
  | .causalStop => false
  | .causalDelayExpire => false
  | .passStart => false
  | .passEnd => false
  | .replayAtomicTimeout => false
  | .yieldDelayExpire => false
  | .impreciseFaultDelivery => false
  | .tileOpComplete => false
  | .cteUnitComplete => false
  | .dataFlitTx => false
  | .linkNarrowRequest => false
  | .communicatorInstall => false
  | .copyCommandComplete => false
  | .cstatAnswer => false

end Sys2Proof
end

