-- ==== Sys2Proof/Decode.lean ====
section
/-! DEFINITION. The decoder of instruction words, total on any word, rejecting by name, and the encoder,
both from the layouts of R307 to R319 and R326 and the opcode map of R331. -/

namespace Sys2Proof

/-- Why a word is no instruction (R329); a header is read by the block rules (R320). -/
inductive Reject where
  /-- F is 000: a block header (R320). -/
  | header
  /-- The opcode is unassigned in its form (R331). -/
  | opcode
  /-- A reserved bit is not zero (R309). -/
  | reservedBits
  /-- A reserved TYPE, DSC, SCOPE or SIZE value (R309, R311, R316). -/
  | reservedValue
  /-- The fields are not ones the opcode accepts (R310, R313 to R319, R327). -/
  | fields
  /-- Fewer than eight bytes. -/
  | truncated
  deriving DecidableEq, Repr

/-- One bit of a field. -/
abbrev bit1 (b : Bool) : BitVec 1 := BitVec.ofBool b

def Ty.code : Ty → BitVec 4
  | .i32 => 0 | .n32 => 1 | .i64 => 2 | .n64 => 3 | .i16x2 => 4 | .n16x2 => 5 | .i8x4 => 6 | .n8x4 => 7
  | .f32 => 8 | .f16x2 => 9 | .bf16x2 => 10 | .f64 => 11
def Ty.ofCode (c : BitVec 4) : Option Ty :=
  match c.toNat with
  | 0 => some .i32 | 1 => some .n32 | 2 => some .i64 | 3 => some .n64 | 4 => some .i16x2 | 5 => some .n16x2
  | 6 => some .i8x4 | 7 => some .n8x4 | 8 => some .f32 | 9 => some .f16x2 | 10 => some .bf16x2
  | 11 => some .f64 | _ => none
def Dsc.code : Dsc → BitVec 3
  | .one => 0 | .x2 => 1 | .x4 => 2 | .x8 => 3 | .d2 => 4 | .d4 => 5 | .d8 => 6
def Dsc.ofCode (c : BitVec 3) : Option Dsc :=
  match c.toNat with
  | 0 => some .one | 1 => some .x2 | 2 => some .x4 | 3 => some .x8 | 4 => some .d2 | 5 => some .d4
  | 6 => some .d8 | _ => none
def Scope.code : Scope → BitVec 3
  | .plain => 0 | .team => 1 | .cluster => 2 | .device => 3 | .system => 4
def Scope.ofCode (c : BitVec 3) : Option Scope :=
  match c.toNat with
  | 0 => some .plain | 1 => some .team | 2 => some .cluster | 3 => some .device | 4 => some .system | _ => none
def Size.code : Size → BitVec 3
  | .b8 => 0 | .b16 => 1 | .b32 => 2 | .b64 => 3 | .b128 => 4 | .b256 => 5
def Size.ofCode (c : BitVec 3) : Option Size :=
  match c.toNat with
  | 0 => some .b8 | 1 => some .b16 | 2 => some .b32 | 3 => some .b64 | 4 => some .b128 | 5 => some .b256
  | _ => none

/-- The guard field, negation above the mask register (R308, R317). -/
def Guard.code (g : Guard) : BitVec 4 := bit1 g.neg ++ g.k
def Guard.ofCode (c : BitVec 4) : Guard := { neg := c.getLsbD 3, k := c.extractLsb' 0 3 }

/-- The layout of R309. -/
def VForm.enc (op : BitVec 8) (f : VForm) : W64 :=
  1#3 ++ op ++ f.d ++ f.a ++ f.b ++ f.c ++ bit1 f.na ++ bit1 f.aa ++ bit1 f.nb ++ bit1 f.ab ++ bit1 f.nc ++
  bit1 f.ac ++ bit1 f.clamp ++ f.dsc.code ++ f.ty.code ++ 0#2 ++ f.g.code ++ bit1 f.sp
def VForm.dec (w : W64) : Except Reject VForm :=
  if w.extractLsb' 5 2 != 0 then .error .reservedBits else
  match Dsc.ofCode (w.extractLsb' 11 3), Ty.ofCode (w.extractLsb' 7 4) with
  | some dsc, some ty => .ok {
      d := w.extractLsb' 45 8, a := w.extractLsb' 37 8, b := w.extractLsb' 29 8, c := w.extractLsb' 21 8
      na := w.getLsbD 20, aa := w.getLsbD 19, nb := w.getLsbD 18, ab := w.getLsbD 17, nc := w.getLsbD 16
      ac := w.getLsbD 15, clamp := w.getLsbD 14, dsc, ty, g := Guard.ofCode (w.extractLsb' 1 4), sp := w.getLsbD 0 }
  | _, _ => .error .reservedValue

/-- The layout of R316. -/
def MForm.enc (op : BitVec 8) (f : MForm) : W64 :=
  3#3 ++ op ++ f.d ++ f.base ++ f.idx ++ f.ofs ++ f.scope.code ++ f.strm ++ f.size.code ++ f.g.code ++ bit1 f.sp
def MForm.dec (w : W64) : Except Reject MForm :=
  match Scope.ofCode (w.extractLsb' 10 3), Size.ofCode (w.extractLsb' 5 3) with
  | some scope, some size => .ok {
      d := w.extractLsb' 45 8, base := w.extractLsb' 37 8, idx := w.extractLsb' 29 8, ofs := w.extractLsb' 13 16
      scope, strm := w.extractLsb' 8 2, size, g := Guard.ofCode (w.extractLsb' 1 4), sp := w.getLsbD 0 }
  | _, _ => .error .reservedValue

/-- The layout of R317. -/
def CForm.enc (op : BitVec 8) (f : CForm) : W64 :=
  4#3 ++ op ++ f.a ++ f.mask.code ++ f.b ++ f.ofs ++ f.imm ++ bit1 f.sp
def CForm.dec (w : W64) : CForm :=
  { a := w.extractLsb' 45 8, mask := Guard.ofCode (w.extractLsb' 41 4), b := w.extractLsb' 33 8
    ofs := w.extractLsb' 9 24, imm := w.extractLsb' 1 8, sp := w.getLsbD 0 }

/-- The layout of R318. -/
def TForm.enc (op : BitVec 8) (f : TForm) : W64 :=
  5#3 ++ op ++ f.td ++ f.ra ++ f.rb ++ f.aux ++ f.fn ++ f.g.code ++ bit1 f.sp
def TForm.dec (w : W64) : TForm :=
  { td := w.extractLsb' 45 8, ra := w.extractLsb' 37 8, rb := w.extractLsb' 29 8, aux := w.extractLsb' 21 8
    fn := w.extractLsb' 5 16, g := Guard.ofCode (w.extractLsb' 1 4), sp := w.getLsbD 0 }

/-- The I layout of R319. -/
def IForm.enc (op : BitVec 8) (f : IForm) : W64 :=
  6#3 ++ op ++ f.d ++ f.a ++ f.imm ++ f.g.code ++ bit1 f.sp
def IForm.dec (w : W64) : IForm :=
  { d := w.extractLsb' 45 8, a := w.extractLsb' 37 8, imm := w.extractLsb' 5 32
    g := Guard.ofCode (w.extractLsb' 1 4), sp := w.getLsbD 0 }

/-- The X layout of R319. -/
def XForm.enc (op : BitVec 8) (f : XForm) : W64 :=
  7#3 ++ op ++ f.d ++ f.a ++ f.sreg ++ f.imm ++ f.g.code ++ bit1 f.sp
def XForm.dec (w : W64) : XForm :=
  { d := w.extractLsb' 45 8, a := w.extractLsb' 37 8, sreg := w.extractLsb' 21 16, imm := w.extractLsb' 5 16
    g := Guard.ofCode (w.extractLsb' 1 4), sp := w.getLsbD 0 }

/-- The half layout of R326. -/
def PHalf.enc (h : PHalf) : BitVec 30 := h.cop ++ h.d ++ h.a ++ h.b ++ bit1 h.na ++ bit1 h.nb ++ bit1 h.t
def PHalf.dec (x : BitVec 30) : PHalf :=
  { cop := x.extractLsb' 24 6, d := x.extractLsb' 17 7, a := x.extractLsb' 10 7, b := x.extractLsb' 3 7
    na := x.getLsbD 2, nb := x.getLsbD 1, t := x.getLsbD 0 }
def PForm.enc (f : PForm) : W64 := 2#3 ++ f.h0.enc ++ f.h1.enc ++ bit1 f.sp
def PForm.dec (w : W64) : PForm :=
  { h0 := PHalf.dec (w.extractLsb' 31 30), h1 := PHalf.dec (w.extractLsb' 1 30), sp := w.getLsbD 0 }

/-- F, the form (R307). -/
def wordF (w : W64) : Nat := (w.extractLsb' 61 3).toNat
/-- OP, the opcode (R308). -/
def wordOp (w : W64) : Nat := (w.extractLsb' 53 8).toNat

/-- The V-form opcodes of R331. -/
def vOp (op : Nat) : Option (VForm → Instr) :=
  match op with
  | 0x01 => some .iadd
  | 0x02 => some .isub
  | 0x03 => some .imul
  | 0x04 => some .imulh
  | 0x05 => some .imad
  | 0x06 => some .imin
  | 0x07 => some .imax
  | 0x08 => some .icmp
  | 0x09 => some .isel
  | 0x0A => some .lea
  | 0x10 => some .andV
  | 0x11 => some .orV
  | 0x12 => some .xorV
  | 0x13 => some .andn
  | 0x14 => some .shl
  | 0x15 => some .shr
  | 0x16 => some .sar
  | 0x17 => some .bfe
  | 0x18 => some .bfi
  | 0x19 => some .popc
  | 0x1A => some .clz
  | 0x1B => some .brev
  | 0x1C => some .idp4
  | 0x1D => some .fdp2
  | 0x20 => some .fadd
  | 0x21 => some .fsub
  | 0x22 => some .fmul
  | 0x23 => some .ffma
  | 0x24 => some .fmin
  | 0x25 => some .fmax
  | 0x26 => some .fcmp
  | 0x27 => some .fsel
  | 0x28 => some .frnd
  | 0x29 => some .fclass
  | 0x30 => some .frcp
  | 0x31 => some .frsq
  | 0x32 => some .fsqrt
  | 0x33 => some .fexp2
  | 0x34 => some .flog2
  | 0x35 => some .fsin
  | 0x36 => some .fcos
  | 0x37 => some .ftanh
  | 0x38 => some .cvt
  | 0x39 => some .pack
  | 0x3A => some .unpack
  | 0x3B => some .rand
  | 0x3C => some .mov
  | 0x40 => some .shfl
  | 0x41 => some .shflx
  | 0x42 => some .shflup
  | 0x43 => some .shfldn
  | 0x44 => some .shflr
  | 0x45 => some .vote
  | 0x46 => some .ballot
  | 0x47 => some .matchV
  | 0x48 => some .vred
  | 0x49 => some .vscan
  | 0x4A => some .vstep
  | 0x4B => some .rdfirst
  | 0x4C => some .rdlane
  | 0x4D => some .wrlane
  | 0x50 => some .kand
  | 0x51 => some .kor
  | 0x52 => some .kxor
  | 0x53 => some .knot
  | 0x54 => some .kmov
  | 0x55 => some .kpop
  | 0x56 => some .kffs
  | 0x58 => some .vxec
  | 0x59 => some .spawn
  | _ => none

/-- The M-form opcodes of R331. -/
def mOp (op : Nat) : Option (MForm → Instr) :=
  match op with
  | 0x01 => some .ld
  | 0x02 => some .st
  | 0x03 => some .lds
  | 0x04 => some .sts
  | 0x05 => some .ldAcq
  | 0x06 => some .stRel
  | 0x08 => some .ldwF
  | 0x09 => some .ldwFE
  | 0x0A => some .stwE
  | 0x0B => some .tagset
  | 0x0C => some .tagclr
  | 0x0D => some .ldfrag
  | 0x0E => some .ldfragT
  | 0x10 => some .larm
  | 0x11 => some .barinit
  | 0x12 => some .barr
  | 0x13 => some .bwait
  | 0x14 => some .arrw
  | 0x18 => some .fenceAcq
  | 0x19 => some .fenceRel
  | 0x1A => some .fenceFull
  | 0x20 => some .shutS
  | 0x21 => some .shutQ
  | 0x22 => some .shutC
  | 0x23 => some .shutCq
  | 0x24 => some .qpush
  | 0x25 => some .qpop
  | 0x26 => some .pref
  | 0x27 => some (fun f => if f.d == 0 then .cinvL1 f else if f.d == 1 then .cinvTlb f else .cinvCtx f)
  | 0x40 => some .atomAdd
  | 0x41 => some .atomMin
  | 0x42 => some .atomMax
  | 0x43 => some .atomMinN
  | 0x44 => some .atomMaxN
  | 0x45 => some .atomAnd
  | 0x46 => some .atomOr
  | 0x47 => some .atomXor
  | 0x48 => some .atomExch
  | 0x49 => some .atomCas
  | 0x4A => some .atomFadd
  | 0x4B => some .atomFmin
  | 0x4C => some .atomFmax
  | 0x4D => some .atomIncwrap
  | 0x50 => some .redAdd
  | 0x51 => some .redMin
  | 0x52 => some .redMax
  | 0x53 => some .redMinN
  | 0x54 => some .redMaxN
  | 0x55 => some .redAnd
  | 0x56 => some .redOr
  | 0x57 => some .redXor
  | 0x58 => some .redFadd
  | 0x59 => some .redFmin
  | 0x5A => some .redFmax
  | 0x5B => some .redIncwrap
  | _ => none

/-- The C-form opcodes of R331. -/
def cOp (op : Nat) : Option (CForm → Instr) :=
  match op with
  | 0x01 => some .bra
  | 0x02 => some .bany
  | 0x03 => some .ball
  | 0x04 => some .bnone
  | 0x05 => some .brx
  | 0x06 => some .call
  | 0x07 => some .ret
  | 0x10 => some .ifW
  | 0x11 => some .elseW
  | 0x12 => some .endifW
  | 0x13 => some .loopW
  | 0x14 => some .breakW
  | 0x15 => some .contW
  | 0x16 => some .endloopW
  | 0x18 => some .exitW
  | 0x19 => some .exits
  | _ => none

/-- The T-form opcodes of R331. -/
def tOp (op : Nat) : Option (TForm → Instr) :=
  match op with
  | 0x01 => some .tmma
  | 0x02 => some .tmmag
  | 0x03 => some .tzero
  | 0x04 => some .tloada
  | 0x05 => some .tdrain
  | 0x06 => some .hread
  | 0x07 => some (fun f => if f.fn == 1 then .cbookDef f else .cbook f)
  | 0x08 => some .tsplit
  | 0x10 => some .cpy
  | 0x11 => some .cpy2
  | 0x12 => some .cpy3
  | 0x18 => some .fput
  | 0x19 => some .fget
  | 0x1A => some .fsigInstr
  | 0x20 => some .coll
  | 0x21 => some .ccancel
  | 0x22 => some .cstat
  | _ => none

/-- The I-form opcodes of R331. -/
def iOp (op : Nat) : Option (IForm → Instr) :=
  match op with
  | 0x01 => some .movi
  | 0x02 => some .movih
  | 0x03 => some .iaddi
  | 0x04 => some .andi
  | 0x05 => some .ori
  | 0x06 => some .xori
  | 0x07 => some .shli
  | 0x08 => some .icmpi
  | 0x09 => some .fmovi
  | 0x0A => some .leai
  | 0x10 => some .wait
  | _ => none

/-- The X-form opcodes of R331. -/
def xOp (op : Nat) : Option (XForm → Instr) :=
  match op with
  | 0x01 => some .nop
  | 0x02 => some .yield
  | 0x03 => some .mfsr
  | 0x04 => some .mtsr
  | 0x05 => some (fun f => if f.imm == 0x8000 then .trapRet f else .trap f)
  | 0x06 => some .bkpt
  | 0x07 => some .prog
  | _ => none

/-- The instruction is kept when its fields are ones its opcode accepts (R329). -/
def keepWf (i : Instr) : Except Reject Instr := if i.wf then .ok i else .error .fields

/-- The instruction a word holds, or why it holds none. -/
def decode (w : W64) : Except Reject Instr :=
  match wordF w with
  | 0 => .error .header
  | 1 => match vOp (wordOp w) with
    | none => .error .opcode
    | some c => match VForm.dec w with
      | .ok f => keepWf (c f)
      | .error e => .error e
  | 2 => keepWf (.pair (PForm.dec w))
  | 3 => match mOp (wordOp w) with
    | none => .error .opcode
    | some c => match MForm.dec w with
      | .ok f => keepWf (c f)
      | .error e => .error e
  | 4 => match cOp (wordOp w) with
    | none => .error .opcode
    | some c => keepWf (c (CForm.dec w))
  | 5 => match tOp (wordOp w) with
    | none => .error .opcode
    | some c => keepWf (c (TForm.dec w))
  | 6 => match iOp (wordOp w) with
    | none => .error .opcode
    | some c => keepWf (c (IForm.dec w))
  | _ => match xOp (wordOp w) with
    | none => .error .opcode
    | some c => keepWf (c (XForm.dec w))

/-- Eight bytes as a word, the first lowest (R3, R307). -/
def wordOfBytes (bs : List Byte) : W64 :=
  BitVec.ofNat 64 (bs.foldr (fun b n => n * 256 + b.toNat) 0)

/-- Decoding a byte string: one instruction and the bytes after it. -/
def decodeBytes (bs : List Byte) : Except Reject (Instr × List Byte) :=
  if bs.length < 8 then .error .truncated else
  match decode (wordOfBytes (bs.take 8)) with
  | .ok i => .ok (i, bs.drop 8)
  | .error e => .error e

/-- The word of an instruction, or none for an event. -/
def encode : Instr → Option W64
  | .pair f => some f.enc
  | .iadd f => some (f.enc 0x01)
  | .isub f => some (f.enc 0x02)
  | .imul f => some (f.enc 0x03)
  | .imulh f => some (f.enc 0x04)
  | .imad f => some (f.enc 0x05)
  | .imin f => some (f.enc 0x06)
  | .imax f => some (f.enc 0x07)
  | .icmp f => some (f.enc 0x08)
  | .isel f => some (f.enc 0x09)
  | .lea f => some (f.enc 0x0A)
  | .andV f => some (f.enc 0x10)
  | .orV f => some (f.enc 0x11)
  | .xorV f => some (f.enc 0x12)
  | .andn f => some (f.enc 0x13)
  | .shl f => some (f.enc 0x14)
  | .shr f => some (f.enc 0x15)
  | .sar f => some (f.enc 0x16)
  | .bfe f => some (f.enc 0x17)
  | .bfi f => some (f.enc 0x18)
  | .popc f => some (f.enc 0x19)
  | .clz f => some (f.enc 0x1A)
  | .brev f => some (f.enc 0x1B)
  | .idp4 f => some (f.enc 0x1C)
  | .fdp2 f => some (f.enc 0x1D)
  | .fadd f => some (f.enc 0x20)
  | .fsub f => some (f.enc 0x21)
  | .fmul f => some (f.enc 0x22)
  | .ffma f => some (f.enc 0x23)
  | .fmin f => some (f.enc 0x24)
  | .fmax f => some (f.enc 0x25)
  | .fcmp f => some (f.enc 0x26)
  | .fsel f => some (f.enc 0x27)
  | .frnd f => some (f.enc 0x28)
  | .fclass f => some (f.enc 0x29)
  | .frcp f => some (f.enc 0x30)
  | .frsq f => some (f.enc 0x31)
  | .fsqrt f => some (f.enc 0x32)
  | .fexp2 f => some (f.enc 0x33)
  | .flog2 f => some (f.enc 0x34)
  | .fsin f => some (f.enc 0x35)
  | .fcos f => some (f.enc 0x36)
  | .ftanh f => some (f.enc 0x37)
  | .cvt f => some (f.enc 0x38)
  | .pack f => some (f.enc 0x39)
  | .unpack f => some (f.enc 0x3A)
  | .rand f => some (f.enc 0x3B)
  | .mov f => some (f.enc 0x3C)
  | .shfl f => some (f.enc 0x40)
  | .shflx f => some (f.enc 0x41)
  | .shflup f => some (f.enc 0x42)
  | .shfldn f => some (f.enc 0x43)
  | .shflr f => some (f.enc 0x44)
  | .vote f => some (f.enc 0x45)
  | .ballot f => some (f.enc 0x46)
  | .matchV f => some (f.enc 0x47)
  | .vred f => some (f.enc 0x48)
  | .vscan f => some (f.enc 0x49)
  | .vstep f => some (f.enc 0x4A)
  | .rdfirst f => some (f.enc 0x4B)
  | .rdlane f => some (f.enc 0x4C)
  | .wrlane f => some (f.enc 0x4D)
  | .kand f => some (f.enc 0x50)
  | .kor f => some (f.enc 0x51)
  | .kxor f => some (f.enc 0x52)
  | .knot f => some (f.enc 0x53)
  | .kmov f => some (f.enc 0x54)
  | .kpop f => some (f.enc 0x55)
  | .kffs f => some (f.enc 0x56)
  | .vxec f => some (f.enc 0x58)
  | .spawn f => some (f.enc 0x59)
  | .ld f => some (f.enc 0x01)
  | .st f => some (f.enc 0x02)
  | .lds f => some (f.enc 0x03)
  | .sts f => some (f.enc 0x04)
  | .ldAcq f => some (f.enc 0x05)
  | .stRel f => some (f.enc 0x06)
  | .ldwF f => some (f.enc 0x08)
  | .ldwFE f => some (f.enc 0x09)
  | .stwE f => some (f.enc 0x0A)
  | .tagset f => some (f.enc 0x0B)
  | .tagclr f => some (f.enc 0x0C)
  | .ldfrag f => some (f.enc 0x0D)
  | .ldfragT f => some (f.enc 0x0E)
  | .larm f => some (f.enc 0x10)
  | .barinit f => some (f.enc 0x11)
  | .barr f => some (f.enc 0x12)
  | .bwait f => some (f.enc 0x13)
  | .arrw f => some (f.enc 0x14)
  | .fenceAcq f => some (f.enc 0x18)
  | .fenceRel f => some (f.enc 0x19)
  | .fenceFull f => some (f.enc 0x1A)
  | .shutS f => some (f.enc 0x20)
  | .shutQ f => some (f.enc 0x21)
  | .shutC f => some (f.enc 0x22)
  | .shutCq f => some (f.enc 0x23)
  | .qpush f => some (f.enc 0x24)
  | .qpop f => some (f.enc 0x25)
  | .pref f => some (f.enc 0x26)
  | .cinvL1 f => some (f.enc 0x27)
  | .cinvTlb f => some (f.enc 0x27)
  | .cinvCtx f => some (f.enc 0x27)
  | .atomAdd f => some (f.enc 0x40)
  | .atomMin f => some (f.enc 0x41)
  | .atomMax f => some (f.enc 0x42)
  | .atomMinN f => some (f.enc 0x43)
  | .atomMaxN f => some (f.enc 0x44)
  | .atomAnd f => some (f.enc 0x45)
  | .atomOr f => some (f.enc 0x46)
  | .atomXor f => some (f.enc 0x47)
  | .atomExch f => some (f.enc 0x48)
  | .atomCas f => some (f.enc 0x49)
  | .atomFadd f => some (f.enc 0x4A)
  | .atomFmin f => some (f.enc 0x4B)
  | .atomFmax f => some (f.enc 0x4C)
  | .atomIncwrap f => some (f.enc 0x4D)
  | .redAdd f => some (f.enc 0x50)
  | .redMin f => some (f.enc 0x51)
  | .redMax f => some (f.enc 0x52)
  | .redMinN f => some (f.enc 0x53)
  | .redMaxN f => some (f.enc 0x54)
  | .redAnd f => some (f.enc 0x55)
  | .redOr f => some (f.enc 0x56)
  | .redXor f => some (f.enc 0x57)
  | .redFadd f => some (f.enc 0x58)
  | .redFmin f => some (f.enc 0x59)
  | .redFmax f => some (f.enc 0x5A)
  | .redIncwrap f => some (f.enc 0x5B)
  | .bra f => some (f.enc 0x01)
  | .bany f => some (f.enc 0x02)
  | .ball f => some (f.enc 0x03)
  | .bnone f => some (f.enc 0x04)
  | .brx f => some (f.enc 0x05)
  | .call f => some (f.enc 0x06)
  | .ret f => some (f.enc 0x07)
  | .ifW f => some (f.enc 0x10)
  | .elseW f => some (f.enc 0x11)
  | .endifW f => some (f.enc 0x12)
  | .loopW f => some (f.enc 0x13)
  | .breakW f => some (f.enc 0x14)
  | .contW f => some (f.enc 0x15)
  | .endloopW f => some (f.enc 0x16)
  | .exitW f => some (f.enc 0x18)
  | .exits f => some (f.enc 0x19)
  | .movi f => some (f.enc 0x01)
  | .movih f => some (f.enc 0x02)
  | .iaddi f => some (f.enc 0x03)
  | .andi f => some (f.enc 0x04)
  | .ori f => some (f.enc 0x05)
  | .xori f => some (f.enc 0x06)
  | .shli f => some (f.enc 0x07)
  | .icmpi f => some (f.enc 0x08)
  | .fmovi f => some (f.enc 0x09)
  | .leai f => some (f.enc 0x0A)
  | .wait f => some (f.enc 0x10)
  | .nop f => some (f.enc 0x01)
  | .yield f => some (f.enc 0x02)
  | .mfsr f => some (f.enc 0x03)
  | .mtsr f => some (f.enc 0x04)
  | .trap f => some (f.enc 0x05)
  | .trapRet f => some (f.enc 0x05)
  | .bkpt f => some (f.enc 0x06)
  | .prog f => some (f.enc 0x07)
  | .tmma f => some (f.enc 0x01)
  | .tmmag f => some (f.enc 0x02)
  | .tzero f => some (f.enc 0x03)
  | .tloada f => some (f.enc 0x04)
  | .tdrain f => some (f.enc 0x05)
  | .hread f => some (f.enc 0x06)
  | .cbook f => some (f.enc 0x07)
  | .cbookDef f => some (f.enc 0x07)
  | .tsplit f => some (f.enc 0x08)
  | .cpy f => some (f.enc 0x10)
  | .cpy2 f => some (f.enc 0x11)
  | .cpy3 f => some (f.enc 0x12)
  | .fput f => some (f.enc 0x18)
  | .fget f => some (f.enc 0x19)
  | .fsigInstr f => some (f.enc 0x1A)
  | .coll f => some (f.enc 0x20)
  | .ccancel f => some (f.enc 0x21)
  | .cstat f => some (f.enc 0x22)
  | .coldStart => none
  | .warmStart => none
  | .haspMarkPreserved => none
  | .supplyOrThermalExcursion => none
  | .clockStep => none
  | .moduleTrip => none
  | .dataFlitRx => none
  | .linkControlFlitTx => none
  | .linkControlFlitRx => none
  | .controlFlitTimeout => none
  | .parityFlitTx => none
  | .parityFlitRx => none
  | .parityTimeout => none
  | .laneBad => none
  | .linkIdleTimeout => none
  | .linkRetrainDone => none
  | .linkFail => none
  | .ezlRetrain => none
  | .ezlWiden => none
  | .ezlDisable => none
  | .ezlWmarkWrite => none
  | .ezlClear => none
  | .registerWrite => none
  | .readReq => none
  | .writeReq => none
  | .postedReq => none
  | .atomicReq => none
  | .fsigReq => none
  | .cfgrd => none
  | .cfgwr => none
  | .mmiord => none
  | .mmiowr => none
  | .hostrd => none
  | .hostwr => none
  | .hostConfigRequest => none
  | .hostMmioRequest => none
  | .cdata => none
  | .cbegun => none
  | .mstream => none
  | .rdata => none
  | .rack => none
  | .resumeMsg => none
  | .abortMsg => none
  | .streamFreezeTimeout => none
  | .rfaultRetryResend => none
  | .freezeConditionClear => none
  | .freezeConditionPermanent => none
  | .heldRequestSend => none
  | .remoteAccessFault => none
  | .packetUnknownOp => none
  | .vdnUpdate => none
  | .vdnDrainComplete => none
  | .vdnAck => none
  | .vdnUpdateRepeat => none
  | .forwardWindowExpire => none
  | .evrec => none
  | .hmsg => none
  | .seqReg => none
  | .seqAssign => none
  | .seqAack => none
  | .seqBegin => none
  | .seqGrant => none
  | .seqCancel => none
  | .seqCresult => none
  | .seqRetire => none
  | .seqDone => none
  | .seqMirror => none
  | .seqMack => none
  | .seqBeat => none
  | .seqTerm => none
  | .seqMessageRepeat => none
  | .seqBeatTimer => none
  | .seqBeatTimeout => none
  | .takeover => none
  | .csqRoleWrite => none
  | .ceSeqWrite => none
  | .engineBeginNumber => none
  | .collDataPhaseComplete => none
  | .collSegmentRepeat => none
  | .partSet => none
  | .partClear => none
  | .badcmd => none
  | .migOut => none
  | .migStopnow => none
  | .migAbort => none
  | .migIn => none
  | .nodest => none
  | .ckpt => none
  | .restoreImg => none
  | .dbgGrant => none
  | .dbgRevoke => none
  | .profBegin => none
  | .profEnd => none
  | .precopyPassEnd => none
  | .migPrecheck => none
  | .quiesceDone => none
  | .stoplate => none
  | .finalCopyDone => none
  | .migDestTimeout => none
  | .notifyStore => none
  | .qcfgWrite => none
  | .qerrHaltClear => none
  | .commandFetch => none
  | .launchCommand => none
  | .graphCommand => none
  | .copyCommand => none
  | .markerCommand => none
  | .flr => none
  | .flrComplete => none
  | .firmwareCapabilityFault => none
  | .bootApertureWrite => none
  | .fwcRange => none
  | .walkComplete => none
  | .parkedRetry => none
  | .flimExpire => none
  | .haspStage2Refuse => none
  | .xlInv => none
  | .xlInvComplete => none
  | .tierMove => none
  | .patrolScrub => none
  | .dirtyLineLost => none
  | .distributorPlace => none
  | .launchHold => none
  | .disCtimeTick => none
  | .scrubComplete => none
  | .graphNodeRetire => none
  | .starvationWin => none
  | .groupEnd => none
  | .coreStop => none
  | .shutFlip => none
  | .clusterAgentDelivery => none
  | .loadComplete => none
  | .storeAck => none
  | .syncClr => none
  | .prbHaltAll => none
  | .prbHaltRelease => none
  | .prbHaltOne => none
  | .prbEdit => none
  | .sampleInterval => none
  | .tbWptrWrite => none
  | .causalStart => none
  | .causalStop => none
  | .causalDelayExpire => none
  | .passStart => none
  | .passEnd => none
  | .replayAtomicTimeout => none
  | .yieldDelayExpire => none
  | .impreciseFaultDelivery => none
  | .tileOpComplete => none
  | .cteUnitComplete => none
  | .dataFlitTx => none
  | .linkNarrowRequest => none
  | .communicatorInstall => none
  | .copyCommandComplete => none
  | .cstatAnswer => none

/-- The instruction the host's word names, its bits numbered from the least significant bit of the word;
the bits above nbits are zero. -/
def decodeTableWord (nbits w : Nat) : Option Instr :=
  match decode (BitVec.ofNat 64 (w % 2 ^ nbits)) with
  | .ok i => some i
  | .error _ => none

end Sys2Proof
end

