-- ==== Sys2Proof/Config.lean ====
section
/-! DEFINITION. What an implementation fixes and the spec leaves open: opaque functions with no body, of
which no proof can see a value. -/

namespace Sys2Proof.Config

/-- An approximation of a special function at f32 bits, by function number (R359 to R361). -/
opaque special : Nat → W32 → W32
/-- The SHA-384 digest of a byte string (R116). -/
opaque sha384 : List Byte → BitVec 384
/-- Whether an ML-DSA-87 signature over a section verifies under a key (R116). -/
opaque mldsaOk : List Byte → List Byte → List Byte → Bool
/-- The digest of the public key fused into the part (R116). -/
opaque fusedKey : BitVec 384
/-- A value the spec leaves open, the n-th one drawn. -/
opaque freeNat : Nat → Nat
/-- The hash that picks an egress port for a stream and a VDN (R57). -/
opaque egressHash : StreamId → BitVec 16 → Nat
/-- Byte i of a record whose contents the spec gives without a layout, by record type and its contents
(R296, R65, R169). -/
opaque recByte : Nat → List Nat → Nat → Byte
/-- Field i of a record whose contents the spec gives without a layout, read back from its bytes, by record
type (R166 to R168). -/
opaque recField : Nat → List Byte → Nat → Nat
/-- The first root of the Reed–Solomon generator (R32 gives none). -/
opaque rsFirstRoot : Nat

/-- A function's PCIe configuration registers, which the spec does not lay out: the value before any write, and the
bits a write sets, by function and byte offset ÷ 4. -/
opaque cfgReset : Nat → Nat → W32
opaque cfgMask : Nat → Nat → W32
/-- The register, as byte offset ÷ 4, and the bit that is Initiate Function Level Reset (R106). -/
opaque cfgFlr : Nat × Nat
/-- The register and bit of PF0 that enables VFs, and the register whose low 16 bits say how many (R95). -/
opaque cfgVfEnable : Nat × Nat
opaque cfgNumVfs : Nat
/-- The local ports that lead to a group member, and the VDN under which a bridge addresses it, by the (NODE, NPORT)
of its group table entry (R69). -/
opaque groupPorts : BitVec 12 → BitVec 8 → BitVec 18
opaque groupVdn : BitVec 12 → BitVec 8 → BitVec 16
/-- The local ports that lead to a member's bridge, and the VDN under which the member addresses it (R69). -/
opaque bridgePorts : BitVec 18
opaque bridgeVdn : BitVec 16
/-- The host address and the value of an MSI-X message, by function and vector, from a table the spec does not lay
out (R52). -/
opaque msixMsg : Nat → Nat → W64 × W32
/-- Fields of the descriptor of a collective that no COLL has issued here (R108), by COMM, TAG and field. -/
opaque orphanField : BitVec 16 → W32 → Nat → BitVec 16
/-- The 256 KiB blocks of HBM, as address ÷ 2^18, of a stack's 2 MiB region for the dirty-bit bitmap (R138), by stack and
place in the region. -/
opaque bitmapBlock : Nat → Nat → Nat
/-- The freezes a target has room to record (R60). -/
opaque freezeRoom : Nat

/-- SCORE of the messages of Hasp, for which R51 gives no number. -/
opaque haspScore : BitVec 10

end Sys2Proof.Config
end

