-- ==== Sys2Proof/Machine/State.lean ====
section
/-! DEFINITION. The state of the device as plain data: every piece of state the spec gives the machine,
the data by which the model says what happens next (agenda, cur, inp, freeCtr), and the state at reset. -/

namespace Sys2Proof.Machine

/-- Why a step stops with a fault. -/
inductive Fault where
  /-- Raised by step when the module has tripped (R16) and the next turn is no cold start: every die's
  clocks are stopped and nothing runs. Safe: the hardware does nothing there either. -/
  | clocksStopped
  deriving DecidableEq, Repr

/-- Why a step is refused. -/
inductive Refusal where
  /-- An instruction this model gives no meaning, named by the opcode table's mnemonic. Safe. -/
  | notModelled (mnemonic : String)
  deriving DecidableEq, Repr

/-! ## Groups -/

/-- Kinds of wait record, codes 1 to 5 and 7 of R168. -/
inductive WaitKind where
  | ldw | ldwE | stwE | bwait | qpush | qpop | gang
  deriving DecidableEq, Repr

/-- A wait record (R234): the word, FIFO or gang waited on, the phase for BWAIT, and the lanes not yet
served for tagged words (R424). -/
structure WaitRec where
  kind : WaitKind
  addr : W32 := 0
  phase : Bool := false
  lanes : Lanes := 0
  /-- the fields of the word it stands at; none for the gang latch -/
  word : Option MForm := none
  deriving DecidableEq, Repr

inductive FenceKind where
  | acq | rel | full
  deriving DecidableEq, Repr

/-- A fence the group is held at (R423, R430). -/
structure PendFence where
  kind : FenceKind
  scope : Scope
  deriving DecidableEq, Repr

/-- Where a lane's access goes (R217, R45 to R47, R123). -/
inductive Loc where
  /-- the core's bank and a byte offset in it -/
  | own (bank off : Nat)
  /-- a cluster peer's scratch, the whole scratch address -/
  | dist (a : W32)
  /-- local memory at its HBM physical address -/
  | home (pa : Nat)
  /-- a page of the own partition held by a pool node, at its system fabric address -/
  | pool (sfa : Nat)
  /-- remote memory and its caching class -/
  | far (sfa : Nat) (rcc : Nat)
  /-- no target: the status the access completes with -/
  | err (status : Byte)
  /-- the device window, at its offset -/
  | window (off : Nat)
  deriving DecidableEq, Repr

/-- What an access does; an atomic names its M-form opcode. -/
inductive AccOp where
  | load | store | atom (op : BitVec 8) | red (op : BitVec 8)
  /-- BARR of a cluster peer's barrier word (R429) -/
  | barr
  /-- LDFRAG, or LDFRAG.T, of elements of e bytes (R386); its lanes hold the offset in the tile as data -/
  | frag (e : Nat) (tr : Bool)
  deriving DecidableEq, Repr

/-- One lane of an outstanding access. For an atomic, data holds operand b in bits 63:0 and the swap
value of CAS in bits 127:64. -/
structure LanePart where
  lane : Nat
  va : W64
  loc : Loc
  data : BitVec 256 := 0
  /-- a fabric request for this lane is under way -/
  sent : Bool := false
  /-- of a tile operation: the place has been read or written -/
  got : Bool := false
  /-- a translated lane: its virtual, guest-physical and fabric pages (R127, R129) -/
  xl : Option (Nat × Nat × Nat) := none
  /-- OWN and PRIV of the translation (R143) -/
  own : Nat := 0
  priv : Bool := false
  deriving DecidableEq, Repr

/-- A memory word issued and not complete (R417). -/
structure Access where
  id : Nat
  op : AccOp
  scope : Scope
  strm : BitVec 2
  /-- bytes of each lane's access -/
  bytes : Nat
  /-- the destination field of a load or atomic -/
  dest : BitVec 8
  parts : List LanePart
  /-- transaction table entries the word still holds (R241) -/
  entries : Nat := 0
  /-- the store of an ST.REL whose release is not done (R423) -/
  late : Bool := false
  deriving DecidableEq, Repr

/-- A translation fault as R124 and R132 describe it. -/
structure XlFault where
  stage2 : Bool
  level : Nat
  kind : Byte
  va : W64
  gpa : W64
  /-- 0 read, 1 write, 2 atomic, 3 fetch -/
  access : Nat
  deriving DecidableEq, Repr

/-- A parked access (R131, R134): its fault, whether it is parked now or being tried again, and the pages
whose records have been written. -/
structure Park where
  flt : XlFault
  active : Bool
  recs : List Nat
  /-- its time is over (R131, R134): the word traps if it still does not translate -/
  expired : Bool := false
  deriving DecidableEq, Repr

/-- An imprecise fault not yet delivered (R61, R231, R451): cause, INFO and address. -/
structure Imprecise where
  cause : Byte
  info : Nat
  addr : W64
  deriving DecidableEq, Repr

/-- A pending edit of a saved group (R293). -/
structure Edit where
  kind : BitVec 2
  reg : Byte
  lane : BitVec 7
  val : W64
  deriving DecidableEq, Repr

/-- VXEC progress (R394): outer and inner completion masks and the depth. -/
structure VxProg where
  outer : Lanes := 0
  inner : Lanes := 0
  depth : Nat := 0
  deriving DecidableEq, Repr

/-- Who waits for a fabric response. -/
inductive TxnOwner where
  | lane (core gs acc lane : Nat)
  /-- a sector for the home slices: the requester, a caching class and a context; place 64 is no group, and 65 the
  firmware, which reads at system scope -/
  | fill (core gs acc lane rcc ctx : Nat)
  /-- a place of the matrix unit's operation in progress -/
  | tile (core pos : Nat)
  /-- a word of a collective descriptor -/
  | desc (core gs pos : Nat)
  | unit (core desc pos : Nat)
  | sig (core desc : Nat)
  | evict (core : Nat)
  /-- a hop of a collective's ring by its place in the order of sending, and a begun signal -/
  | coll (func : Nat) (num : W32) (pos : Nat)
  | begun (func : Nat) (num : W32)
  | stream (pos : Nat)
  | bridge (slot : Nat) (func : Nat) (write : Bool)
  /-- a member's write of host memory (R69) -/
  | host
  | forwarded
  /-- a write of a tier move's copy (R135) -/
  | tier (func page : Nat)
  deriving DecidableEq, Repr

/-- What a CINV waits for (R127, R434): accesses, as group and access id; the engines' fabric requests that were under
way; and places of tile operations translated for its context, in the pages it named or in any. -/
structure CinvWait where
  users : List (Nat × Nat) := []
  engines : List TxnOwner := []
  tiles : Option (Nat × Nat × Option (List Nat)) := none
  deriving DecidableEq, Repr

/-- Why a stream sends nothing (R59, R60, R67). -/
inductive Freeze where
  | rfault (sseq : BitVec 16)
  | retry (sseq : BitVec 16)
  | moved (epoch : BitVec 16)
  /-- ended by RESUME or ABORT, with responses of requests sent before still to come -/
  | ended (aborted : Bool)
  deriving DecidableEq, Repr

/-- What a group's record keeps of a frozen stream (R164, R168): its identity, its VDN, the next SSEQ and the freeze. -/
structure SavedStream where
  sid : StreamId
  vdn : BitVec 16
  next : BitVec 16
  freeze : Option Freeze
  deriving DecidableEq, Repr

/-- A group and its registers (R168, R195, R197, R407). -/
structure Group where
  /-- the place is in use -/
  live : Bool := false
  /-- the place of its team on the core -/
  team : Nat := 0
  role : Nat := 0
  nreg : Nat := 0
  /-- %grp -/
  grp : Nat := 0
  /-- creation order on the core (R190) -/
  age : Nat := 0
  bornClk : W64 := 0
  /-- the header of the current block, and the word offset of the next word; 0 enters the header -/
  bhdr : W64 := 0
  woff : Nat := 0
  /-- LEN and ORD of the header entered, and the stop bits passed since (R288, R320) -/
  blen : Nat := 0
  ord : Nat := 0
  nsp : Nat := 0
  /-- the live octets its header declares (R196, R321) -/
  lvo : Nat := 0
  /-- v registers, key r * 32 + lane -/
  v : Tbl W32 := []
  s : Tbl W64 := []
  /-- k1 to k7 -/
  k : Tbl Lanes := []
  /-- nesting counters by lane -/
  ctr : Tbl Nat := []
  exited : Lanes := 0
  /-- lane random states (R278, R368) -/
  rnd : Tbl W64 := []
  mode : W64 := 0
  gang : W64 := 0
  xfm : Lanes := 0
  xfc : W32 := 0
  fst : W32 := 0
  tvec : W64 := 0
  tpos : W64 := 0
  taddr : W64 := 0
  tcause : W32 := 0
  tm : Bool := false
  rngseed : W64 := 0
  vx : VxProg := {}
  /-- the wait counters -/
  ld : Nat := 0
  st : Nat := 0
  cp : Nat := 0
  tl : Nat := 0
  wait : Option WaitRec := none
  pend : Option PendFence := none
  acc : List Access := []
  nextId : Nat := 0
  park : Option Park := none
  impr : List Imprecise := []
  /-- what its next word waits to have walked: the first sector of each page, with its access class (R126) -/
  miss : List (Nat × Nat) := []
  halted : Bool := false
  /-- released from a halt: the word executes without matching the breakpoint again (R291) -/
  relHalt : Bool := false
  /-- it halts at its next boundary (R292) -/
  haltReq : Bool := false
  edits : List Edit := []
  /-- clocks of a YIELD and of a causal delay still to pass, plus one; at 1 the delay is over and its end is due
  (R301, R405) -/
  yieldClk : Nat := 0
  causalClk : Nat := 0
  /-- clocks it has been ready without issuing (R191) -/
  starve : Nat := 0
  /-- the eight stall-class counters (R294) -/
  stall : Tbl W32 := []
  /-- the stall class of a hold at issue (R404, R417, R439, R449, R463), while held -/
  held : Option Nat := none
  /-- CINVs under way, each with what it waits for (R127, R434) -/
  cinv : List CinvWait := []
  /-- a CSTAT waits for its answer: destination field, COMM, TAG and stop bit (R463) -/
  cstat : Option (BitVec 8 × BitVec 16 × W32 × Bool) := none
  /-- words of a collective descriptor read from another device, by position: asked for while none, lost where
  the inner value is none (R459, R462) -/
  dread : Option (List (Nat × Option W64)) := none
  /-- requests of frozen streams saved with the group (R62) -/
  saved : List (Packet × TxnOwner) := []
  /-- the frozen streams those belong to -/
  strs : List SavedStream := []
  deriving DecidableEq, Repr

/-! ## Teams and launches -/

/-- A role of a launch record (R171). -/
structure Role where
  entry : W32 := 0
  nreg : Nat := 0
  ngrp : Nat := 0
  deriving DecidableEq, Repr

/-- A launch record (R171). -/
structure LaunchRec where
  code : W64 := 0
  ctx : Nat := 0
  prio : Nat := 0
  preempt : Bool := false
  coop : Bool := false
  cx : Nat := 1
  cy : Nat := 1
  gx : Nat := 1
  gy : Nat := 1
  gz : Nat := 1
  scratch : Nat := 0
  fbank : Nat := 0
  nbar : Nat := 0
  nacc : Nat := 0
  param : W64 := 0
  cbook : W64 := 0
  mode : W64 := 0
  roles : List Role := []
  deriving DecidableEq, Repr

/-- A team resident on a core (R174, R175, R216, R438). -/
structure Team where
  live : Bool := false
  launch : Nat := 0
  func : Nat := 0
  ctx : Nat := 0
  x : Nat := 0
  y : Nat := 0
  z : Nat := 0
  clu : Nat := 0
  /-- the origin core of its cluster rectangle, and CX and CY -/
  origin : Nat := 0
  cx : Nat := 1
  cy : Nat := 1
  /-- windows and FIFO numbers to banks -/
  win : List (Nat × Nat) := []
  fifo : List (Nat × Nat) := []
  nbar : Nat := 0
  /-- tile numbers to physical tiles -/
  tiles : List Nat := []
  code : W64 := 0
  roles : List Role := []
  prio : Nat := 0
  preempt : Bool := false
  coop : Bool := false
  /-- placement order (R181); the teams of one cluster share a number -/
  placed : Nat := 0
  /-- being terminated: its groups end without a save once their accesses are answered (R414) -/
  term : Bool := false
  /-- a stop of it is in progress (R209, R210) -/
  stopping : Bool := false
  deriving DecidableEq, Repr

/-- Bank settings (R216). -/
inductive Shutter where
  | cache | scratch | fifo
  deriving DecidableEq, Repr

/-- A scratch word with its tags (R223). -/
structure SWord where
  data : W32 := 0
  f : Bool := false
  sp : Bool := false
  deriving DecidableEq, Repr

/-- An L1 or L2 sector: its 32 bytes and a dirty-byte mask (R239, R249). -/
structure Sector where
  data : BitVec 256 := 0
  dirty : BitVec 32 := 0
  func : Nat := 0
  ctx : Nat := 0
  rcc : Nat := 0
  /-- OWN and PRIV of the translation that filled it (R143) -/
  own : Nat := 0
  priv : Bool := false
  /-- fetched for a system-scope read of the device's own firmware, and not used yet (R105, R171) -/
  fw : Bool := false
  deriving DecidableEq, Repr

/-- A combined translation (R125), one 64 KiB page. -/
structure TlbEntry where
  func : Nat
  ctx : Nat
  page : Nat
  /-- the 64 KiB page it reaches -/
  loc : Loc
  /-- the system fabric address of the page -/
  sfa : Nat
  /-- the stage-2 input page -/
  gpage : Nat
  rd : Bool
  wr : Bool
  x : Bool
  rcc : Nat
  own : Nat
  priv : Bool
  wp : Bool
  transit : Bool
  /-- both leaves are 512 MiB pages (R126) -/
  big : Bool := false
  deriving DecidableEq, Repr

/-- A SHUT accepted and not flipped (R221, R222). -/
structure Flip where
  team : Nat
  gs : Nat
  /-- the map entry: a window, or a FIFO number -/
  fifo : Bool
  num : Nat
  bank : Nat
  /-- towards cache way -/
  giveUp : Bool
  /-- it has begun; one that takes a cache way has no bank before that (R431) -/
  begun : Bool := true
  /-- accesses already accepted when it began: group place and access id -/
  before : List (Nat × Nat)
  deriving DecidableEq, Repr

/-- A FIFO bank (R235): head, tail and entries of one word per lane, key entry * 32 + lane. -/
structure Fifo where
  head : Nat := 0
  tail : Nat := 0
  data : Tbl W32 := []
  deriving DecidableEq, Repr

/-- One member's arrival at the gang latch (R441). -/
structure Arrival where
  idx : Nat
  gs : Nat
  arec : W64 × W64
  brec : W64 × W64
  tile : Nat
  z : Bool
  fmt : Byte
  npl : Byte
  /-- the stop bit of its TMMAG -/
  sp : Bool
  /-- where the planes and the scale tile of A, and of B, lie -/
  apl : List Loc
  bpl : List Loc
  deriving DecidableEq, Repr

/-- The gang latch (R441 to R443). -/
structure GangLatch where
  list : W64 := 0
  team : Nat := 0
  fn : BitVec 16 := 0
  arrivals : List Arrival := []
  deriving DecidableEq, Repr

/-- An operation of the matrix unit's queue (R439). -/
inductive TileKind where
  | mma (slabs : List Arrival)
  | zero (phys : List Nat)
  | loada (fmt : Nat)
  | drain (fn : BitVec 16) (e0 : Byte)
  | hread (h : Nat) (clr : Bool)
  | cbook (addr : W64) (dflt : Bool)
  deriving DecidableEq, Repr

/-- An operation of the matrix unit's queue. -/
structure TileOp where
  gs : Nat
  /-- the physical tile -/
  tile : Nat
  kind : TileKind
  /-- the 16-byte places it reads or writes, in row-major order -/
  parts : List LanePart := []
  /-- the accesses issued before it by its group or its gang, as place and access id, which are performed first
  (R439, R445) -/
  before : List (Nat × Nat)
  /-- it has started: a drain has read its tile -/
  started : Bool := false
  mode : W64
  deriving DecidableEq, Repr

/-- What a CTE descriptor transfers (R452 to R456). -/
inductive CteKind where
  | tsplit (src : W64) (stride : Nat) (dst : W64) (scale : W64) (sfmt : Nat) (scl : Option W64)
  | copy (src dst : W64) (len rows planes srs drs sps dps : Nat)
  | fput (src dst : W64) (len : Nat) (strm : BitVec 2) (sig : Option W64)
  | fget (src dst : W64) (len : Nat) (strm : BitVec 2)
  | fsig (target : W64) (data : W64) (latch : W64) (add : W64) (wide : Bool) (strm : BitVec 2)
  deriving DecidableEq, Repr

/-- A CTE descriptor in use (R449). -/
structure CteDesc where
  gs : Nat
  kind : CteKind
  latch : W64
  /-- units counted, by position, and their bytes -/
  done : List Nat := []
  count : Nat := 0
  /-- units whose request has been sent, all below it; responses come and not yet counted, with their data -/
  sent : Nat := 0
  back : List (Nat × Nat) := []
  /-- the FSIG of the descriptor has been sent, and answered -/
  sigSent : Bool := false
  sigBack : Bool := false
  park : Option Park := none
  mode : W64
  /-- the CBOOK it must wait for, as the count of CBOOKs issued at the core before it (R448) -/
  book : Nat := 0
  deriving DecidableEq, Repr

/-- A CCANCEL without its answer (R462): the descriptor's CRESULT address, the key, the latch, and the result
where it came while the team was saved. -/
structure Cancel where
  gs : Nat
  va : W64
  comm : BitVec 16
  tag : W32
  latch : W64
  res : Option Byte := none
  deriving DecidableEq, Repr

/-- A core (R167, R216, R235, R239, R286, R438). -/
structure Core where
  shut : List Shutter := List.replicate 32 .cache
  /-- scratch words, key bank * 4096 + word -/
  scr : Tbl SWord := []
  fifos : Tbl Fifo := []
  flips : List Flip := []
  /-- barrier directory: bank * 4096 + low word, and the team's place (R232) -/
  bars : List (Nat × Nat) := []
  latch : GangLatch := {}
  /-- histogram bins, key h * 32 + bin -/
  hist : Tbl W32 := []
  /-- codebook entries and CBADDR (R268, R448) -/
  book : Tbl (BitVec 16) := []
  cbaddr : W64 := 0
  booksDone : Nat := 0
  booksIssued : Nat := 0
  /-- accumulator elements, key tile * 4096 + row * 64 + column -/
  acc : Tbl W32 := []
  tq : List TileOp := []
  cte : Tbl (Option CteDesc) := []
  cancels : List Cancel := []
  /-- L1 sectors by location address ÷ 32 -/
  l1 : Tbl (Option Sector) := []
  tlb : List TlbEntry := []
  /-- pages queued at the miss queue (R126): function, context, page -/
  missq : List (Nat × Nat × Nat) := []
  /-- transaction table entries in use (R241) -/
  txUsed : Nat := 0
  clk : W64 := 0
  nextAge : Nat := 0
  /-- places that issued in this clock -/
  issued : List Nat := []
  /-- function and context last served; none after a scrub (R183) -/
  lastCtx : Option (Nat × Nat) := none
  scrub : Bool := false
  /-- it is scrubbed once its last group has ended (R183) -/
  toScrub : Bool := false
  /-- a stop is in progress (R209) -/
  stop : Bool := false
  /-- clocks counted towards SAMPLE_INT, and whether a sample is due (R291) -/
  sampleClk : Nat := 0
  sampleDue : Bool := false
  deriving DecidableEq, Repr

/-- A launch whose command has started (R171, R177). -/
structure Launch where
  id : Nat
  func : Nat
  /-- the queue and slot of its command, or the graph run and node -/
  owner : CopyRef
  lrec : LaunchRec
  startMs : Nat
  /-- clusters placed so far in grid order, and clusters of the grid -/
  next : Nat := 0
  total : Nat
  /-- resident teams: core and place -/
  resident : List (Nat × Nat)
  /-- sets of saved teams, each placed as one (R181) -/
  saved : List Nat
  status : Byte := 0
  /-- the checks that depend on the partition are still to be made (R96, R172) -/
  unchecked : Bool := false
  maxnest : Nat := 0
  /-- its codebook table does not translate (R131, R173) -/
  park : Option Park := none
  deriving DecidableEq, Repr

/-- A saved team (R166, R181): the core and group records in neutral form. -/
structure SavedTeam where
  id : Nat
  launch : Nat
  /-- teams of one cluster share a set and are placed together -/
  set : Nat
  team : Team
  crow : Nat
  ccol : Nat
  groups : List (Nat × Group)
  /-- windows' words, window * 4096 + word -/
  scr : Tbl SWord
  fifos : Tbl Fifo
  latch : GangLatch
  hist : Tbl W32
  cbaddr : W64
  acc : Tbl W32
  cte : List (Nat × CteDesc)
  cancels : List Cancel
  /-- the core it was on when its whole function stopped (R166) -/
  score : Option Nat := none
  /-- the core it was last on, by which Probex names its groups (R293) -/
  core : Nat := 0
  deriving DecidableEq, Repr

/-! ## Links (02) -/

/-- STATE of EZL_STATUS (R42). -/
inductive LinkState where
  | down | training | up | failed
  deriving DecidableEq, Repr

/-- A width order: width, lane set, switch sequence (R38). -/
structure WOrder where
  width : LinkWidth
  set : BitVec 2
  sw : BitVec 20
  deriving DecidableEq, Repr

/-- A response or message queued on a port and not wholly acknowledged: the units it has left to send, and the number
of the flit that carries its last one. -/
structure Kept where
  vc : Nat
  pkt : Packet
  left : Nat
  last : BitVec 20 := 0
  deriving DecidableEq, Repr

/-- An Ezlyn port: registers, transmitter and receiver (R23 to R44). -/
structure Port where
  maxw : BitVec 2 := 1
  disable : Bool := false
  state : LinkState := .down
  txw : BitVec 2 := 0
  rxw : BitVec 2 := 0
  txset : BitVec 2 := 0
  rxset : BitVec 2 := 0
  lanebad : BitVec 16 := 0
  event : BitVec 5 := 0
  high : Tbl Nat := []
  low : Tbl Nat := []
  /-- the eight counters of R43, in order -/
  cnt : Tbl W32 := []
  /-- transmitter: next sequence number, first unacknowledged, kept flits from there on -/
  txSeq : BitVec 20 := 0
  txAck : BitVec 20 := 0
  replay : List Flit := []
  /-- units waiting to be sent on each VC, each with a mark when it starts a packet -/
  txq : Tbl (List (Bool × Unit16)) := []
  /-- responses and messages to send again should the port fail (R35) -/
  kept : List Kept := []
  /-- stop state told by the other end, and stopped for want of control flits -/
  txStop : BitVec 8 := 0
  txMute : Bool := false
  slot21 : Nat := 0
  parReq : List (BitVec 20) := []
  resend : List Flit := []
  /-- the number the resend in progress was asked from -/
  served : Option (BitVec 20) := none
  order : Option WOrder := none
  /-- receiver: next sequence number, highest seen, flits held after a gap, damaged flits kept
  under the number they are asked for -/
  rxSeq : BitVec 20 := 0
  rxHigh : BitVec 20 := 0xFFFFF
  hold : List Flit := []
  damaged : List (BitVec 20 × Flit) := []
  preq : List (BitVec 20) := []
  /-- parity requests already repeated once (R33) -/
  repeated : List (BitVec 20) := []
  rresend : Option (BitVec 20) := none
  resendFails : Nat := 0
  /-- units waiting in each VC's buffer, each with a mark when it is the first of its flit -/
  rxbuf : Tbl (List (Bool × Unit16)) := []
  stopBits : BitVec 8 := 0
  /-- the VC whose first request waits for room to record its freeze, while VCs 0 and 2 are stopped (R60) -/
  fullHold : Option Nat := none
  worder : Option WOrder := none
  /-- orders issued before it whose switch has not been seen -/
  older : List WOrder := []
  deriving DecidableEq, Repr

/-! ## Fabric (03) -/

/-- An ordering stream to one VDN at its source (R55 to R60). -/
structure Stream where
  sid : StreamId
  vdn : BitVec 16
  next : BitVec 16 := 0
  /-- requests sent and unanswered, in order, each with its owner -/
  out : List (Packet × TxnOwner) := []
  /-- requests answered RFAULT or MOVED, or held, to be sent again -/
  queue : List (Packet × TxnOwner) := []
  freeze : Option Freeze := none
  port : Option Nat := none
  deriving DecidableEq, Repr

/-- A stream frozen at this device as target (R59): its identity, the VDN, the SSEQ and the page. -/
structure TFreeze where
  sid : StreamId
  vdn : BitVec 16
  sseq : BitVec 16
  sclu : BitVec 10
  func : Nat
  page : Nat
  /-- RESUME has been sent, and a request refused has not come again (R60) -/
  resumed : Bool := false
  /-- the last request refused -/
  hi : BitVec 16 := 0
  deriving DecidableEq, Repr

/-- A VDN update under way here (R65). -/
structure VdnUpd where
  vdn : BitVec 16
  entry : BitVec 128
  src : BitVec 16
  /-- it is this device's own Hasp's: no VDN_ACK is sent -/
  own : Bool := false
  deriving DecidableEq, Repr

/-- A VDN update this device's Hasp has sent and awaits (R65, R162). -/
structure VdnOut where
  vdn : BitVec 16
  entry : BitVec 128
  /-- the old home, asked first; then the other members -/
  first : Option (BitVec 16)
  wait : List (BitVec 16)
  later : List (BitVec 16)
  /-- this device's own entry is written (R65) -/
  ownDone : Bool := false
  deriving DecidableEq, Repr

/-- Who receives a management event record (R44). -/
inductive RecordTo where
  | pf0 | hasp
  deriving DecidableEq, Repr

/-- A packet or host message sent out of the device, or handed to PF0 or Hasp. -/
inductive Out where
  | flit (port : Nat) (f : Flit)
  | msix (func : Nat) (vec : Nat)
  | hostWrite (addr : W64) (bytes : List Byte)
  | hostAnswer (slot func : Nat) (ok : Bool) (v : W64)
  /-- an EVREC packet of VC 7 (R52), delivered -/
  | evrec (who : RecordTo) (p : Packet)
  | report (what : Nat)
  | hotplug (slot : Nat) (present : Bool)
  deriving DecidableEq, Repr

/-! ## Collectives (04, 19) -/

inductive NumSt where
  | assigned | started | voided
  deriving DecidableEq, Repr

/-- The mirrored transitions, codes 0x10 to 0x13 (R76). -/
inductive Mirror where
  | assign | void_ | start | retire
  deriving DecidableEq, Repr

/-- A number of the sequencer (R78). -/
structure SeqNum where
  num : W32
  comm : BitVec 16
  tag : W32
  st : NumSt
  /-- for each rank: PREV and FIRST of its SEQ_ASSIGN -/
  prevs : List (Bool × W32) := []
  aacks : List Nat := []
  vacks : List Nat := []
  retires : List Nat := []
  /-- transitions that have not taken effect, in order: the VDN to answer, and whether the standby has acknowledged -/
  pend : List (Mirror × BitVec 16 × Bool) := []
  /-- its SEQ_ASSIGN has been sent to the members (R79) -/
  shown : Bool := false
  deriving DecidableEq, Repr

/-- The sequencer and the engine's sequencer registers (R86, R92). -/
structure Seq where
  role : Nat := 0
  peer : BitVec 16 := 0
  event : BitVec 4 := 0
  term : BitVec 16 := 0
  next : W32 := 0
  nums : List SeqNum := []
  /-- at a standby: numbers it has recorded as retired (R86) -/
  gone : List W32 := []
  /-- the last number assigned to each member VDN (R79) -/
  last : Tbl (Option W32) := []
  /-- SEQ_REG and SEQ_CANCEL messages waiting for the window of R73 -/
  waiting : List (Byte × SeqMsg) := []
  /-- a primary by failover, with no standby named since (R87) -/
  alone : Bool := false
  cePrimary : BitVec 16 := 0
  ceStandby : BitVec 16 := 0
  deriving DecidableEq, Repr

/-- What asked for a key (R72, R186, R462). -/
inductive CollSrc where
  | group (core gs team : Nat) | graph (run node : Nat)
  deriving DecidableEq, Repr

/-- A collective descriptor as read (R457). -/
structure CollDesc where
  addr : W64
  kind : Nat
  op : Nat
  count : Nat
  src : W64
  dst : W64
  root : Nat
  dtype : Nat
  latch : Option W32
  /-- the launch and team index of the team whose latch it is -/
  launch : Nat
  index : Nat
  ctx : Nat
  deriving DecidableEq, Repr

/-- A key table entry (R71, R72, R81). -/
structure KeyEnt where
  func : Nat
  comm : BitVec 16
  tag : W32
  issued : Bool := false
  desc : Option CollDesc := none
  num : Option W32 := none
  prev : W32 := 0
  first : Bool := false
  void_ : Bool := false
  begun : Bool := false
  granted : Bool := false
  retired : Bool := false
  /-- the function was reset: it contributes the identity and discards (R108) -/
  orphan : Bool := false
  /-- progress of the ring (R475): its begun signal sent, and answered OK; hops sent, in order, and those of
  them answered OK; segments held, by rank and segment -/
  begunSent : Bool := false
  begunAck : Bool := false
  sent : Nat := 0
  acked : List Nat := []
  got : List ((Nat × Nat) × List W32) := []
  /-- how its own data phase is parked (R134), and whether reading SRC, or writing DST, has failed (R461) -/
  park : Option Park := none
  srcFail : Bool := false
  dstFail : Bool := false
  deriving DecidableEq, Repr

/-! ## Host (05) -/

structure Rect where
  die : Nat
  row : Nat
  col : Nat
  rows : Nat
  cols : Nat
  deriving DecidableEq, Repr

/-- A started command (R100, R101). -/
structure Cmd where
  /-- the QHEAD at which it was fetched: its ring slot is this modulo the ring's size (R99) -/
  slot : Nat
  kind : Nat
  /-- it starts only once every earlier command has retired -/
  waitPrev : Bool := false
  irq : Bool
  cseq : W32
  caddr : W64
  ctx : Nat
  /-- words 2 to 4 -/
  w2 : W64
  w3 : W64
  w4 : W64
  started : Bool := false
  park : Option Park := none
  /-- bytes of a copy made -/
  done : Nat := 0
  deriving DecidableEq, Repr

/-- A launch queue (R99). -/
structure Queue where
  base : W64 := 0
  cfg : W32 := 4
  head : W32 := 0
  done : W32 := 0
  tail : W32 := 0
  err : W32 := 0
  /-- fetched commands not retired, in ring order -/
  cmds : List Cmd := []
  deriving DecidableEq, Repr

/-- What the firmware does next in a graph (R186 to R189): a node starts, an arrival comes, or a node retires with
its state 2 run, 3 skipped or 4 failed. -/
inductive GAct where
  | start (node : Nat)
  | arrive (node : Nat) (run : Bool)
  | retire (node st : Nat)
  deriving DecidableEq, Repr

/-- A graph run (R184 to R189). -/
structure Graph where
  id : Nat
  func : Nat
  q : Nat
  slot : Nat
  addr : W64
  ctx : Nat
  n : Nat
  /-- nodes that failed, with their status -/
  failed : List (Nat × Byte) := []
  todo : List GAct := []
  /-- copy nodes running: node, bytes copied, and how it is parked -/
  copies : List (Nat × Nat × Option Park) := []
  deriving DecidableEq, Repr

/-- Probex of one function (R306). -/
structure Probex where
  rights : Option (Nat × BitVec 6) := none
  haltCore : Nat := 0
  haltGs : Nat := 0
  mismatch : Bool := false
  logfull : Bool := false
  /-- the session replays nothing: an area has filled in it (R299) -/
  noReplay : Bool := false
  /-- END is written and waits until no team runs (R303) -/
  ending : Bool := false
  trial : Bool := false
  pass : Bool := false
  editStat : BitVec 2 := 0
  editKind : BitVec 2 := 0
  editReg : Byte := 0
  editLane : BitVec 7 := 0
  eval : W64 := 0
  /-- BP0 to BP15: EN, KIND, ORD in their register places -/
  bp : Tbl W32 := []
  /-- buffers 0 and 1 -/
  tbBase : Tbl W64 := []
  tbSize : Tbl Nat := []
  tbCtrl : Tbl W32 := []
  tbWptr : Tbl W32 := []
  tbLost : Tbl W32 := []
  tbSeq : Tbl W32 := []
  /-- stop mode: full until WPTR is written (R297) -/
  tbFull : Tbl Bool := []
  sampleInt : W32 := 0
  dumpBase : W64 := 0
  dumpLimit : Nat := 0
  dumpCnt : Nat := 0
  causalLo : Nat := 0
  causalHi : Nat := 0
  causalDly : Nat := 0
  prog : Tbl W64 := []
  pcntSel : BitVec 16 := 0
  pcnt : Tbl W64 := []
  passNo : Nat := 0
  logBase : W64 := 0
  logSlice : Nat := 0
  /-- replay session: TVDN, TOFF and the passes; the snapshot as partition blocks -/
  session : Option (BitVec 16 × Nat) := none
  snap : Tbl (List Byte) := []
  /-- runs not yet closed, and runs logged per slice: location, id, length (R299) -/
  openRuns : List (Nat × W32 × Nat) := []
  log : Tbl (List (Nat × W32 × Nat)) := []
  enforce : Bool := false
  /-- runs not yet consumed in this pass -/
  left : Tbl (List (Nat × W32 × Nat)) := []
  deriving DecidableEq, Repr

/-- Outgoing and incoming migration, checkpoint and restore (R148 to R165). -/
structure Mig where
  func : Nat := 0
  dir : Nat := 0
  phase : Nat := 0
  pass : W32 := 0
  resid : W32 := 0
  black : W32 := 0
  event : BitVec 7 := 0
  dest : BitVec 16 := 0
  stopblk : Nat := 0
  maxpass : Nat := 0
  ports : BitVec 18 := 0
  stopnow : Bool := false
  /-- the destination has accepted the pre-check (R158) -/
  accepted : Bool := false
  /-- the source has acknowledged the destination's update: no return (R161) -/
  switched : Bool := false
  /-- checkpoint target and KEEP -/
  tvdn : BitVec 16 := 0
  toff : Nat := 0
  keep : Bool := false
  /-- blocks of the partition written to a checkpoint image (R169) -/
  blocks : Nat := 0
  /-- stream position sent, and whether a stream request failed -/
  pos : Nat := 0
  err : Bool := false
  /-- at a receiver: the function, its VDN and the source; the next position, bytes ahead of it, bytes not decoded -/
  inFunc : Option Nat := none
  inVdn : BitVec 16 := 0
  inSrc : BitVec 16 := 0
  inPos : Nat := 0
  inAhead : List (Nat × List Byte) := []
  inBytes : List Byte := []
  /-- the NSI and the monitor records received -/
  inNsi : List Byte := []
  inMon : List Byte := []
  inEnd : Bool := false
  /-- the phase of the incoming migration (R150) -/
  inPhase : Nat := 0
  /-- an FLR held during the stop phase: at the source, and at the destination (R109) -/
  flrHeld : Bool := false
  inFlr : Bool := false
  deriving DecidableEq, Repr

/-- One function (R95, R99, R104, R123, R182). -/
structure Func where
  /-- Hasp has given it a partition; SR-IOV enables it -/
  part : Bool := false
  vfOn : Bool := false
  rects : List Rect := []
  /-- quota in 512 MiB units -/
  quota : Nat := 0
  vdn : BitVec 16 := 0
  /-- HBM physical address of the stage-2 level-1 table (Hasp's state) -/
  s2root : Nat := 0
  /-- placement map, key page -/
  place : Tbl W64 := []
  queues : Tbl Queue := []
  /-- FLR in progress (R106) -/
  flr : Bool := false
  fetchOff : Bool := false
  placeOff : Bool := false
  weight : Nat := 1
  ctime : W32 := 0
  /-- units of service in hand, below zero when in debt (R182) -/
  deficit : Int := 0
  /-- words 0 to 2 held of each context's entry, as last read (R122), and contexts with a lost record (R132) -/
  ctxs : Tbl (Option (W64 × W64 × W64)) := []
  lost : List Nat := []
  holder : Option Nat := none
  probex : Probex := {}
  /-- who holds the dirty bits (R140): 1 migration, 2 Probex -/
  dirtyUse : Nat := 0
  /-- last number passed on its order chain (R81) -/
  passed : Option W32 := none
  /-- PCIe configuration registers that have been written, by byte offset ÷ 4 -/
  cfg : Tbl (Option W32) := []
  deriving DecidableEq, Repr

/-- The mailbox of R98. -/
structure Mailbox where
  req : MailReq := 0
  /-- Hasp handles the request -/
  busy : Bool := false
  /-- it is not refused: only its work remains -/
  judged : Bool := false
  resp : BitVec 128 := 0
  done : Bool := false
  deriving DecidableEq, Repr

/-- A sync line record (R261): SCOPE, and the issuing party with its cluster and device. -/
structure SyncRec where
  scope : Scope
  /-- VDN, core and team place; remote mark; origin core -/
  vdn : BitVec 16
  core : Nat
  team : Nat
  sclu : Nat
  /-- the placement number of its cluster, for a local party -/
  cl : Nat
  remote : Bool
  /-- update order, for the drop of R264 -/
  stamp : Nat
  deriving DecidableEq, Repr

/-- A pending walk (R126). -/
structure Walk where
  func : Nat
  ctx : Nat
  page : Nat
  access : Nat
  deriving DecidableEq, Repr

/-- An invalidation under way (R128, R129). -/
structure XlInv where
  lo : W32 := 0
  hi : W32 := 0
  flush : Bool := false
  scope : BitVec 2 := 0
  func : Nat := 0
  busy : Bool := false
  /-- accesses translated with a removed entry, as group key and access id -/
  users : List (Nat × Nat) := []
  /-- the engines' fabric requests that were under way with one -/
  engines : List TxnOwner := []
  /-- the old locations whose lines are to go, with FLUSH -/
  locs : List Loc := []
  deriving DecidableEq, Repr

/-- A write of the device's own, or the message that follows it, which cannot be made yet: its page is in a window
(R136), its home slice lacks a sector (R123), or a write before it is unanswered (R102). -/
inductive Owed where
  /-- a fault record's four words (R132) -/
  | ring (func ctx : Nat) (who : XlTarget) (w0 w1 w2 w3 : Nat)
  /-- bytes by virtual address; and for whom a stage-2 fault is reported to Hasp and waited out (R133) -/
  | put (func ctx : Nat) (va : W64) (bytes : List Byte) (who : Option XlTarget := none)
  /-- an MSI-X message -/
  | msix (func vec : Nat)
  deriving DecidableEq, Repr

/-- A tier move in progress (R135): whether the invalidation of its present step is over, where the page has been copied
to, and whether its entry has been written. -/
structure TierOpen where
  func : Nat
  page : Nat
  inv : Bool := false
  copied : Option Nat := none
  written : Bool := false
  deriving DecidableEq, Repr

/-- How a start went (R17 to R21). -/
inductive Halt where
  | none_ | measure | hardware (step : Nat) | tripped
  /-- a device-class memory error: nothing accepted until a warm start (R144) -/
  | fatal
  deriving DecidableEq, Repr

/-- The bring-up and package state (R11, R15 to R22, R115). -/
structure Boot where
  /-- the step in progress, 9 once ready, 0 when off -/
  step : Nat := 0
  warm : Bool := false
  reached : Bool := false
  halt : Halt := .none_
  bridge : Bool := false
  slot : BitVec 3 := 0
  clockMHz : Nat := 1700
  cause : Bool := false
  clearMs : Nat := 0
  trips : Nat := 0
  /-- preserved regions: first 512 MiB page and count -/
  preserved : List (Nat × Nat) := []
  coeffs : Bool := false
  apert : BitVec 11 := 0
  fwcBase : BitVec 11 := 0
  fwcSize : BitVec 3 := 0
  locked : Bool := false
  measFail : Bool := false
  measHasp : BitVec 384 := 0
  measSched : BitVec 384 := 0
  deriving DecidableEq, Repr

/-- Where the next word issues: a core, a place, and whether that place issues in the next step. -/
structure Cursor where
  core : Nat := 0
  gs : Nat := 0
  go : Bool := false
  deriving DecidableEq, Repr

/-- An error that arises in storage (R141, R142). -/
inductive MemErr where
  /-- a correctable one, corrected in the value delivered -/
  | corrected
  /-- an HBM sector becomes uncorrectable, and nothing has found it yet -/
  | sector (k : Nat)
  /-- an uncorrectable one in a core's store (2), vector registers (3) or accumulators (4), or in firmware memory (5),
  in data that a group of a core, or the firmware, consumes -/
  | used (src : BitVec 3) (core gs : Nat) (place : W32)
  deriving DecidableEq, Repr

/-- One turn of the machine. The agenda is the model's own: it says, as data, which of the things that
may happen next does. -/
inductive Turn where
  /-- a slot scheduler of a core issues (R190) -/
  | issue (core slot : Nat)
  /-- the arithmetic clock of a core advances -/
  | clock (core : Nat)
  /-- an event of the opcode table, with what it reads -/
  | event (i : Instr) (x : EventArgs)
  /-- a cache or TLB drops an entry of its own accord (R125, R239, R256) -/
  | evictL1 (core sector : Nat)
  | evictL2 (sector : Nat)
  | evictTlb (core : Nat) (page : Nat)
  | evictWalk (die : Nat) (k : Nat)
  /-- an error arises in storage (R141) -/
  | memError (e : MemErr)
  deriving DecidableEq, Repr

/-- The device. -/
structure State where
  agenda : List Turn := []
  cur : Cursor := {}
  /-- what the event in progress reads -/
  inp : EventArgs := {}
  /-- counter of the free values drawn so far -/
  freeCtr : Nat := 0
  /-- what has been sent out, latest first -/
  out : List Out := []
  boot : Boot := {}
  /-- HBM by physical address -/
  mem : List Host.Cell := []
  /-- sectors that read as uncorrectable (R142), and dirty bits by 4 KiB block (R137) -/
  poison : List Nat := []
  /-- sectors that read as uncorrectable and that no patrol has found -/
  weak : List Nat := []
  dirty : Tbl Bool := []
  /-- groups, key core * 64 + place; teams, key core * 8 + place; cores -/
  groups : Tbl Group := []
  teams : Tbl Team := []
  cores : Tbl Core := []
  launches : List Launch := []
  nextLaunch : Nat := 1
  savedTeams : List SavedTeam := []
  nextSaved : Nat := 1
  nextPlaced : Nat := 0
  graphs : List Graph := []
  funcs : Tbl Func := []
  age : Nat := 10
  /-- milliseconds counted by the distributor -/
  ms : Nat := 0
  mail : Mailbox := {}
  mig : Mig := {}
  seq : Seq := {}
  /-- the engine's term (R88), communicators by COMM, key table, messages awaiting an answer -/
  ceTerm : BitVec 16 := 1
  comms : Tbl (List (BitVec 16)) := []
  keys : List KeyEnt := []
  unanswered : List (Byte × SeqMsg) := []
  /-- numbers a function's successor has signalled begun (R475) -/
  begunSeen : List (Nat × W32) := []
  /-- segments that came before their number is known here: function, number, hop, segment, elements (R475) -/
  earlySegs : List (Nat × W32 × Nat × Nat × List W32) := []
  ports : Tbl Port := []
  vdnTab : Tbl (BitVec 128) := []
  vdnUpds : List VdnUpd := []
  vdnOut : List VdnOut := []
  haspSrc : BitVec 16 := 0
  streams : List Stream := []
  /-- streams of restored groups: a stream's own identity, the saved one it keeps while that has requests outstanding, and
  the VDN; and requests of streams whose identity is another's saved one, which wait (R164) -/
  aliases : List (StreamId × StreamId × BitVec 16) := []
  heldIds : List (Packet × TxnOwner) := []
  tfreezes : List TFreeze := []
  /-- the retry list (R60) -/
  retries : List StreamId := []
  /-- hold queues and forwarding windows of old homes (R66) -/
  homeHold : List (BitVec 16) := []
  holdq : List Packet := []
  fwdWin : List (BitVec 16) := []
  /-- VC 3 and VC 5 packets held until a destination resumes (R162) -/
  heldColl : List Packet := []
  waitVdn : List Packet := []
  /-- packets this device has sent to a VDN of its own, in order (R50, SELF) -/
  loop : List Packet := []
  /-- sectors whose last fetch for the home slices failed, with its status, until told to who asked (R146) -/
  fillLost : List (Nat × Byte) := []
  /-- what the device's own writes wait for, in order -/
  owed : List Owed := []
  group8 : Tbl (Option (BitVec 12 × BitVec 8)) := []
  /-- L2 sectors of remote and pool locations, by system fabric address ÷ 32 -/
  l2 : Tbl (Option Sector) := []
  l2tlb : Tbl (List TlbEntry) := []
  walks : Tbl (List Walk) := []
  /-- by die: the nested-walk cache, a function, an HBM address and the descriptor there; and the placement cache, a
  function, a page and its entry (R125) -/
  nwc : Tbl (List (Nat × Nat × W64)) := []
  pcache : Tbl (List (Nat × Nat × W64)) := []
  inv : XlInv := {}
  tiers : List TierOpen := []
  sync : Tbl (Option SyncRec) := []
  syncStamp : Nat := 0
  syncDrop : W32 := 0
  mecCe : W32 := 0
  mecUe : W32 := 0
  mecLogA : W32 := 0
  mecLogB : W32 := 0
  /-- faults of stage 2 reported to Hasp and not yet answered -/
  haspFaults : List (XlTarget × XlFault) := []
  /-- capability tags of firmware memory, by 16-byte granule -/
  capTags : Tbl Bool := []
  /-- the queues each scheduler core serves: firmware core, function, queue -/
  serving : List (Nat × Nat × Nat) := []
  /-- the ring capability Hasp has given the scheduler firmware for each enabled queue, key function * 64 + queue (R114) -/
  ringCaps : Tbl (Option (BitVec 128)) := []
  deriving DecidableEq, Repr

/-- The device at power-on, before its first start: HBM reads zero where nothing is listed. -/
def State.reset : State := {}

end Sys2Proof.Machine
end

