-- ==== Sys2Proof/Machine/Table.lean ====
section
/-! DEFINITION. Finite tables and byte memory: reading and writing one key, and words of bytes in the
byte order of R3. -/

namespace Sys2Proof.Machine

variable {α : Type}

/-- The value a table holds at a key; d where none is listed. -/
def tget (d : α) : Tbl α → Nat → α
  | [], _ => d
  | (k', v) :: t, k => if k = k' then v else tget d t k

/-- The table without any entry of a key. -/
def tdrop : Tbl α → Nat → Tbl α
  | [], _ => []
  | (k', v) :: t, k => if k = k' then tdrop t k else (k', v) :: tdrop t k

/-- The table with a key set; a key set to d is not listed, and no other entry of the key stays. -/
def tput [DecidableEq α] (d : α) : Tbl α → Nat → α → Tbl α
  | [], k, v => if v = d then [] else [(k, v)]
  | (k', v') :: t, k, v =>
    if k < k' then (if v = d then (k', v') :: tdrop t k else (k, v) :: (k', v') :: tdrop t k)
    else if k = k' then (if v = d then tdrop t k else (k, v) :: tdrop t k)
    else (k', v') :: tput d t k v

/-- Keys rise strictly from lo on and no entry is d. -/
def tblWf [DecidableEq α] (d : α) : Nat → Tbl α → Bool
  | _, [] => true
  | lo, (k, v) :: t => decide (lo ≤ k) && decide (v ≠ d) && tblWf d (k + 1) t

/-- The canonical form of memory. -/
def Memory.wf (m : List Host.Cell) : Bool := tblWf (0 : Byte) 0 m

/-- The keys at which every entry satisfies p are kept. -/
def tfilter (p : Nat → α → Bool) (t : Tbl α) : Tbl α := t.filter (fun e => p e.1 e.2)

/-- One byte of memory; a byte never written reads zero (R17). -/
def byteAt (m : List Host.Cell) (a : Nat) : Byte := tget 0 m a
/-- Memory with one byte written. -/
def setByte (m : List Host.Cell) (a : Nat) (b : Byte) : List Host.Cell := tput 0 m a b

/-- n bytes from an address, first lowest. -/
def bytesAt (m : List Host.Cell) (a : Nat) : Nat → List Byte
  | 0 => []
  | n + 1 => byteAt m a :: bytesAt m (a + 1) n
/-- Memory with bytes written from an address on. -/
def setBytes (m : List Host.Cell) (a : Nat) : List Byte → List Host.Cell
  | [] => m
  | b :: bs => setBytes (setByte m a b) (a + 1) bs

/-- A little-endian number (R3). -/
def leNat : List Byte → Nat
  | [] => 0
  | b :: bs => b.toNat + 256 * leNat bs
/-- The n low bytes of a number, first lowest (R3). -/
def leBytes : Nat → Nat → List Byte
  | 0, _ => []
  | n + 1, x => BitVec.ofNat 8 x :: leBytes n (x / 256)

/-- n bytes from an address as a number. -/
def numAt (m : List Host.Cell) (a n : Nat) : Nat := leNat (bytesAt m a n)

/-- Elements from, from + 1, … below to. -/
def upto (n : Nat) : List Nat := List.range n
/-- The 32 lanes. -/
def lanes : List Nat := List.range 32
/-- Lane L is in the set. -/
def lin (m : Lanes) (l : Nat) : Bool := m.getLsbD l
/-- The set of one lane. -/
def lane1 (l : Nat) : Lanes := BitVec.ofNat 32 (2 ^ l)
/-- The lanes that satisfy p. -/
def laneSet (p : Nat → Bool) : Lanes :=
  lanes.foldl (fun m l => if p l then m ||| lane1 l else m) 0
/-- The lanes of a set in ascending order. -/
def laneList (m : Lanes) : List Nat := lanes.filter (fun l => lin m l)
/-- The lowest lane of a set; 0 where none. -/
def lowLane (m : Lanes) : Nat := (laneList m).headD 0

/-- The members of a list, each once. -/
def distinct : List Nat → List Nat
  | [] => []
  | x :: xs => if xs.contains x then distinct xs else x :: distinct xs
/-- A list in rising order of a key; equal keys keep their order. -/
def insertBy (k : α → Nat) (x : α) : List α → List α
  | [] => [x]
  | y :: ys => if k x ≤ k y then x :: y :: ys else y :: insertBy k x ys
def sortBy (k : α → Nat) : List α → List α
  | [] => []
  | x :: xs => insertBy k x (sortBy k xs)
/-- Bits lo + n − 1 to lo of a number. -/
def bits (x lo n : Nat) : Nat := x / 2 ^ lo % 2 ^ n
/-- Bit i of a number. -/
def bitOf (x i : Nat) : Bool := x / 2 ^ i % 2 == 1
/-- A saturating 32-bit count (R43, R264, R294). -/
def satInc (x : W32) (n : Nat := 1) : W32 := BitVec.ofNat 32 (min (x.toNat + n) 0xFFFFFFFF)

end Sys2Proof.Machine
end

