-- ==== Sys2Proof/Machine/Reach.lean ====
section
/-! DEFINITION. Reading and writing the parts of the state, and reaching memory: the placement map, the
two-stage walk and the fault ring (R45 to R47, R117 to R132). -/

namespace Sys2Proof.Machine

def State.group (s : State) (c p : Nat) : Group := tget {} s.groups (c * 64 + p)
def State.setGroup (s : State) (c p : Nat) (g : Group) : State :=
  { s with groups := tput {} s.groups (c * 64 + p) g }
def State.team (s : State) (c t : Nat) : Team := tget {} s.teams (c * 8 + t)
def State.setTeam (s : State) (c t : Nat) (x : Team) : State :=
  { s with teams := tput {} s.teams (c * 8 + t) x }
def State.core (s : State) (c : Nat) : Core := tget {} s.cores c
def State.setCore (s : State) (c : Nat) (x : Core) : State := { s with cores := tput {} s.cores c x }
/-- PF0 is on from the start; the others when SR-IOV enables them (R95). -/
def State.func (s : State) (f : Nat) : Func := tget {} s.funcs f
def State.setFunc (s : State) (f : Nat) (x : Func) : State := { s with funcs := tput {} s.funcs f x }
def State.port (s : State) (p : Nat) : Port := tget {} s.ports p
def State.setPort (s : State) (p : Nat) (x : Port) : State := { s with ports := tput {} s.ports p x }

/-- The group the word in issue belongs to, and its core. -/
def State.cg (s : State) : Group := s.group s.cur.core s.cur.gs
def State.setCg (s : State) (g : Group) : State := s.setGroup s.cur.core s.cur.gs g
def State.cc (s : State) : Core := s.core s.cur.core
def State.setCc (s : State) (c : Core) : State := s.setCore s.cur.core c
/-- The team of the group in issue. -/
def State.ct (s : State) : Team := s.team s.cur.core s.cg.team

/-- The die of a core (R12) and its row and column. -/
def coreDie (c : Nat) : Nat := c / 144
def coreRow (c : Nat) : Nat := c % 144 / 12
def coreCol (c : Nat) : Nat := c % 12

/-- Adding what goes out of the device. -/
def State.emit (s : State) (o : Out) : State := { s with out := o :: s.out }

/-- The device accepts queues, VF configuration and migration commands: not after a failed measurement (R19), nor after
a device-class memory error (R144). -/
def State.accepting (s : State) : Bool := s.boot.halt != .measure && s.boot.halt != .fatal

/-- The next free value (R5 leaves no number to choose): the n-th is Config's. -/
def State.fresh (s : State) : Nat × State := (Config.freeNat s.freeCtr, { s with freeCtr := s.freeCtr + 1 })

/-! ## Local memory -/

/-- Bytes written to HBM: the dirty bits of their blocks are set (R137), and a sector written whole
is no longer poisoned (R142). -/
def State.homeWrite (s : State) (pa : Nat) (bs : List Byte) : State :=
  if bs.isEmpty then s else
  let last := pa + bs.length - 1
  { s with
    mem := setBytes s.mem pa bs
    dirty := (upto (last / 4096 - pa / 4096 + 1)).foldl (fun t i => tput false t (pa / 4096 + i) true) s.dirty
    capTags := s.capTags.filter (fun e => decide (e.1 < pa / 16) || decide (last / 16 < e.1))
    poison := s.poison.filter (fun k => !(decide (pa ≤ k * 32) && decide (k * 32 + 32 ≤ pa + bs.length)))
    weak := s.weak.filter (fun k => !(decide (pa ≤ k * 32) && decide (k * 32 + 32 ≤ pa + bs.length))) }

/-- The XOR of so many slices of w bits of a number. -/
def xorFold (w : Nat) : Nat → Nat → Nat
  | 0, _ => 0
  | n + 1, x => (x % 2 ^ w) ^^^ xorFold w n (x / 2 ^ w)
/-- The HBM stack of a physical address, its pseudo-channel in the stack, and the die that holds the stack (R10, R138). -/
def stackOf (pa : Nat) : Nat := xorFold 4 6 (pa / 2 ^ 18 % 2 ^ 22)
def pchanOf (pa : Nat) : Nat := xorFold 7 4 (pa / 2 ^ 12 % 2 ^ 28)
def stackDie (stack : Nat) : Nat := stack / 4
/-- The die of an HBM address. -/
def homeDie (pa : Nat) : Nat := stackDie (stackOf pa)
/-- Where word w of the dirty-bit bitmap lies: its stack, and the offset in the stack's reserved region (R138). -/
def bitmapPlace (w : Nat) : Nat × Nat := (stackOf (w * 2 ^ 18), 8 * (w / 16))
/-- An HBM address in a region reserved for the bitmap. -/
def inBitmap (pa : Nat) : Bool := (upto 16).any (fun k => (upto 8).any (fun i => Config.bitmapBlock k i == pa / 2 ^ 18))
/-- Word w of the bitmap: bit b for block 64w + b; and a scan of it, an exchange with zero (R138, R139). -/
def State.dirtyWord (s : State) (w : Nat) : BitVec 64 :=
  BitVec.ofNat 64 ((upto 64).foldl (fun (n : Nat) b => if tget false s.dirty (64 * w + b) then n + 2 ^ b else n) 0)
def State.scanWord (s : State) (w : Nat) : BitVec 64 × State :=
  (s.dirtyWord w, { s with dirty := s.dirty.filter (fun e => e.1 / 64 != w) })
/-- n bytes of HBM as a number (R3). -/
def State.homeNum (s : State) (pa n : Nat) : Nat := numAt s.mem pa n

/-! ## Where an address leads -/

/-- The function of this device whose partition VDN this is (R46). -/
def State.partOf (s : State) (vdn : Nat) : Option Nat :=
  (upto 64).find? (fun f => (s.func f).part && (s.func f).vdn.toNat == vdn)
/-- A function's records are being loaded onto cores, and none of its groups runs yet (R163, R170). -/
def State.loading (s : State) (f : Nat) : Bool :=
  (s.mig.inFunc == some f && s.mig.inPhase == 7) || (s.mig.dir == 3 && s.mig.phase == 7 && s.mig.func == f)
/-- Bytes of a function's quota (R95). -/
def Func.quotaBytes (f : Func) : Nat := f.quota * 2 ^ 29

/-- A placement entry, from the die's placement cache where it holds one (R123, R125). -/
def State.placeEntry (s : State) (d f page : Nat) : W64 :=
  match (tget [] s.pcache d).find? (fun e => e.1 == f && e.2.1 == page) with
  | some e => e.2.2
  | none => tget 0 (s.func f).place page
def plV (e : W64) : Bool := e.getLsbD 63
def plPool (e : W64) : Bool := e.getLsbD 62
def plWp (e : W64) : Bool := e.getLsbD 61
def plTransit (e : W64) : Bool := e.getLsbD 60
def plLoc (e : W64) : Nat := bits e.toNat 16 44 * 65536

/-- A partition offset below the quota through the placement map (R123). -/
def State.placed (s : State) (d f off : Nat) : Loc :=
  let e := s.placeEntry d f (off / 65536)
  if !plV e then .err 0x04
  else if plPool e then .pool (plLoc e + off % 65536)
  else .home (plLoc e + off % 65536)

/-- The device window (R47). -/
def windowLoc (off : Nat) : Loc := if off < 0x2000000 then .window off else .err 0x04

/-- The target of a system fabric address (R45 to R47). -/
def State.sfaLoc (s : State) (d sfa rcc : Nat) : Loc :=
  let vdn := sfa / 2 ^ 44
  let off := sfa % 2 ^ 44
  if vdn == 0xFFFF then windowLoc off else
  match s.partOf vdn with
  | some f =>
    if off < (s.func f).quotaBytes then s.placed d f off
    else if 0xF0000000000 ≤ off then windowLoc (off - 0xF0000000000) else .err 0x04
  | none => .far sfa rcc

/-- The place n bytes further. -/
def Loc.add : Loc → Nat → Loc
  | .own b o, n => .own b (o + n)
  | .dist a, n => .dist (a + BitVec.ofNat 32 n)
  | .home p, n => .home (p + n)
  | .pool p, n => .pool (p + n)
  | .far p r, n => .far (p + n) r
  | .err e, _ => .err e
  | .window o, n => .window (o + n)

/-- Bytes of a pool location as the home slice holds them, when it does (R123). -/
def State.l2Num (s : State) (sfa n : Nat) : Option Nat :=
  match tget none s.l2 (sfa / 32) with
  | some sec => some (sec.data.toNat / 2 ^ (8 * (sfa % 32)) % 2 ^ (8 * n))
  | none => none

/-- The mask of n bytes from an offset. -/
def byteMask (off n : Nat) : BitVec 32 := BitVec.ofNat 32 ((2 ^ n - 1) * 2 ^ off)
/-- Bytes of a number put into a sector. -/
def Sector.put (x : Sector) (off n v : Nat) (dirty : Bool) : Sector :=
  let d := x.data.toNat
  let lo := 8 * off
  let hi := lo + 8 * n
  { x with
    data := BitVec.ofNat 256 (d / 2 ^ hi * 2 ^ hi + v % 2 ^ (8 * n) * 2 ^ lo + d % 2 ^ lo)
    dirty := if dirty then x.dirty ||| byteMask off n else x.dirty }
def Sector.num (x : Sector) (off n : Nat) : Nat := x.data.toNat / 2 ^ (8 * off) % 2 ^ (8 * n)
/-- A sector of the home slice filled from its source (R63, R123). -/
def State.l2Put (s : State) (sfa : Nat) (x : Sector) : State := { s with l2 := tput none s.l2 (sfa / 32) (some x) }

/-! ## The walk -/

/-- How a translation ends: a fault, a sector of a pool-placed table the home slice must fetch, or a wait while a
table's page is in transit (R123). -/
inductive XlStop where
  | fault (f : XlFault)
  | need (sfa : Nat)
  | transit
  deriving DecidableEq, Repr

/-- A leaf of stage 2 with the address it gives (R120). -/
structure S2Leaf where
  sfa : Nat
  big : Bool
  rcc : Nat
  own : Nat
  rd : Bool
  wr : Bool
  x : Bool
  deriving DecidableEq, Repr

def kNotValid : Byte := 0x01
def kPerm : Byte := 0x02
def kSize : Byte := 0x03
def kResv : Byte := 0x04
def kTable : Byte := 0x05
def kRange : Byte := 0x06

/-- The index of a level (R118). -/
def lvlIndex (a level : Nat) : Nat := bits a (68 - 13 * level - 13) 13
/-- The bytes a leaf of a level maps (R118). -/
def lvlBytes (level : Nat) : Nat := if level == 2 then 2 ^ 29 else 2 ^ 16

/-- A descriptor, from the die's nested-walk cache where it is held (R125). -/
def State.desc (s : State) (d f pa : Nat) : Nat :=
  match (tget [] s.nwc d).find? (fun e => e.1 == f && e.2.1 == pa) with
  | some e => e.2.2.toNat
  | none => s.homeNum pa 8

/-- Bits of a stage-2 descriptor that must be zero (R120). -/
def s2Resv (d : Nat) : Bool :=
  if bitOf d 1 then
    bits d 60 4 != 0 || bits d 14 2 != 0 || bits d 6 4 != 0 || bitOf d 2 || bits d 10 2 == 3
  else bits d 40 24 != 0 || bits d 14 2 != 0 || bits d 2 12 != 0
/-- Bits of a stage-1 descriptor that must be zero (R119). -/
def s1Resv (d : Nat) : Bool :=
  bits d 55 9 != 0 || bits d 8 8 != 0 || bitOf d 6 || bitOf d 2 || (!bitOf d 1 && bits d 2 6 != 0)

/-- The address is on this device whatever RCC says (R120). -/
def State.localOa (s : State) (sfa : Nat) : Bool :=
  sfa / 2 ^ 44 == 0xFFFF || (s.partOf (sfa / 2 ^ 44)).isSome

/-- Stage 2 from a level on, with the descriptors read (R124). -/
def State.s2From (s : State) (die f gpa : Nat) : List Nat → Nat → Except (Nat × Byte) S2Leaf × List (Nat × Nat)
  | [], _ => (.error (3, kSize), [])
  | level :: rest, tbl =>
    let pa := tbl + 8 * lvlIndex gpa level
    let d := s.desc die f pa
    let out : Except (Nat × Byte) S2Leaf × List (Nat × Nat) :=
      if !bitOf d 0 then (.error (level, kNotValid), [])
      else if s2Resv d then (.error (level, kResv), [])
      else if bitOf d 1 then
        let base := bits d 16 44 * 65536
        if level == 1 || base % lvlBytes level != 0 then (.error (level, kSize), [])
        else if bits d 12 2 == 3 && !s.localOa base then (.error (level, kResv), [])
        else (.ok { sfa := base + gpa % lvlBytes level, big := level == 2, rcc := bits d 12 2, own := bits d 10 2,
                    rd := bitOf d 3, wr := bitOf d 4, x := bitOf d 5 }, [])
      else s.s2From die f gpa rest (bits d 16 24 * 65536)
    (out.1, (pa, d) :: out.2)
def State.stage2 (s : State) (die f gpa : Nat) : Except (Nat × Byte) S2Leaf × List (Nat × Nat) :=
  s.s2From die f gpa [1, 2, 3] (s.func f).s2root

/-- The access classes of R132: 0 read, 1 write, 2 atomic, 3 fetch; and what each needs (R121). -/
def permits (rd wr x : Bool) (access : Nat) : Bool :=
  match access with
  | 0 => rd | 1 => wr | 2 => rd && wr | _ => x

/-- The place of a table or ring word of the function's own partition (R122, R124, R132). -/
def State.ownPart (s : State) (die f sfa : Nat) : Option Loc :=
  if sfa / 2 ^ 44 == (s.func f).vdn.toNat && sfa % 2 ^ 44 < (s.func f).quotaBytes then
    match s.placed die f (sfa % 2 ^ 44) with
    | .home p => some (.home p)
    | .pool p => some (.pool p)
    | _ => none
  else none

/-- The level of a leaf (R118). -/
def S2Leaf.level (l : S2Leaf) : Nat := if l.big then 2 else 3
/-- The placement entry of an address of the function's own partition. -/
def State.ownEntry (s : State) (die f sfa : Nat) : W64 := s.placeEntry die f (sfa % 2 ^ 44 / 65536)
/-- Eight bytes of the own partition for the walker, or of a context's entry: those of a page in transit wait (R123). -/
def State.walkRead (s : State) (die f sfa : Nat) (cached : Bool) : Loc → Except XlStop Nat
  | .home p => if plTransit (s.ownEntry die f sfa) then .error .transit else .ok (if cached then s.desc die f p else s.homeNum p 8)
  | .pool p => if plTransit (s.ownEntry die f sfa) then .error .transit else match s.l2Num p 8 with
    | some v => .ok v
    | none => .error (.need p)
  | _ => .ok 0

/-- A word of the context table, through stage 2 as a walker read (R122). -/
def State.ctxRead (s : State) (die f ctx w : Nat) (va : W64) : Except XlStop Nat :=
  let gpa := ctx * 64 + 8 * w
  let flt (level : Nat) (k : Byte) : XlStop :=
    .fault { stage2 := true, level, kind := k, va, gpa := BitVec.ofNat 64 gpa, access := 0 }
  match (s.stage2 die f gpa).1 with
  | .error (l, k) => .error (flt l k)
  | .ok leaf =>
    if !leaf.rd then .error (flt leaf.level kPerm) else
    match s.ownPart die f leaf.sfa with
    | none => .error (flt 0 kTable)
    | some loc => s.walkRead die f leaf.sfa false loc
/-- A word of a context's entry as the device holds it since it last read it, at a launch or a queue's fetch; one it
has never read is read now (R122). -/
def State.ctxWord (s : State) (die f ctx w : Nat) (va : W64) : Except XlStop Nat :=
  match tget none (s.func f).ctxs ctx with
  | some e => .ok (if w = 0 then e.1 else if w = 1 then e.2.1 else e.2.2).toNat
  | none => s.ctxRead die f ctx w va

/-- A leaf of stage 1 (R119). -/
structure S1Leaf where
  gpa : Nat
  big : Bool
  priv : Bool
  rd : Bool
  wr : Bool
  x : Bool
  deriving DecidableEq, Repr

/-- Stage 1 from a level on, each table read through stage 2 (R124). -/
def State.s1From (s : State) (die f : Nat) (va : W64) (access : Nat) :
    List Nat → Nat → Except XlStop S1Leaf × List (Nat × Nat)
  | [], t => (.error (.fault { stage2 := false, level := 3, kind := kSize, va, gpa := 0, access }), [])
  | level :: rest, t =>
    let tg := t + 8 * lvlIndex va.toNat level
    let f1 (k : Byte) : XlStop :=
      .fault { stage2 := false, level, kind := k, va, gpa := if k == kTable then BitVec.ofNat 64 tg else 0, access }
    let f2 (l : Nat) (k : Byte) : XlStop :=
      .fault { stage2 := true, level := l, kind := k, va, gpa := BitVec.ofNat 64 tg, access }
    let (r2, reads2) := s.stage2 die f tg
    match r2 with
    | .error (l, k) => (.error (f2 l k), reads2)
    | .ok leaf =>
      if !leaf.rd then (.error (f2 leaf.level kPerm), reads2) else
      match s.ownPart die f leaf.sfa with
      | none => (.error (f1 kTable), reads2)
      | some loc =>
        match s.walkRead die f leaf.sfa true loc with
        | .error e => (.error e, reads2)
        | .ok d =>
          let mine : List (Nat × Nat) := match loc with
            | .home p => if level < 3 then [(p, d)] else []
            | _ => []
          let out : Except XlStop S1Leaf × List (Nat × Nat) :=
            if !bitOf d 0 then (.error (f1 kNotValid), [])
            else if s1Resv d then (.error (f1 kResv), [])
            else if bitOf d 1 then
              let base := bits d 16 39 * 65536
              if level == 1 || base % lvlBytes level != 0 then (.error (f1 kSize), [])
              else if !permits (bitOf d 3) (bitOf d 4) (bitOf d 5) access then (.error (f1 kPerm), [])
              else (.ok { gpa := base + va.toNat % lvlBytes level, big := level == 2, priv := bitOf d 7,
                          rd := bitOf d 3, wr := bitOf d 4, x := bitOf d 5 }, [])
            else s.s1From die f va access rest (bits d 16 39 * 65536)
          (out.1, reads2 ++ mine ++ out.2)

/-- A whole translation, by a walker of a die: the combined entry of the page, or how it stops; with the descriptors read that
the nested-walk cache may keep (R124). -/
def State.translate (s : State) (die f ctx : Nat) (va : W64) (access : Nat) :
    Except XlStop TlbEntry × List (Nat × Nat) :=
  if va.toNat / 2 ^ 55 != 0 then
    (.error (.fault { stage2 := false, level := 0, kind := kRange, va, gpa := 0, access }), [])
  else match s.ctxWord die f ctx 0 va with
  | .error e => (.error e, [])
  | .ok w0 =>
    if !bitOf w0 0 then
      (.error (.fault { stage2 := false, level := 0, kind := kNotValid, va, gpa := 0, access }), [])
    else
      let (r1, reads) := s.s1From die f va access [1, 2, 3] (bits w0 16 39 * 65536)
      match r1 with
      | .error e => (.error e, reads)
      | .ok l1 =>
        let f2 (l : Nat) (k : Byte) : XlStop :=
          .fault { stage2 := true, level := l, kind := k, va, gpa := BitVec.ofNat 64 l1.gpa, access }
        let (r2, reads2) := s.stage2 die f l1.gpa
        let keep := reads ++ reads2.take 2
        match r2 with
        | .error (l, k) => (.error (f2 l k), keep)
        | .ok l2 =>
          if !permits l2.rd l2.wr l2.x access then (.error (f2 l2.level kPerm), keep) else
          let sfa := l2.sfa / 65536 * 65536
          let pe : W64 := match s.partOf (sfa / 2 ^ 44) with
            | some pf => if sfa % 2 ^ 44 < (s.func pf).quotaBytes then s.placeEntry die pf (sfa % 2 ^ 44 / 65536) else 0
            | none => 0
          (.ok { func := f, ctx, page := va.toNat / 65536, loc := s.sfaLoc die sfa l2.rcc, sfa, gpage := l1.gpa / 65536,
                 rd := l1.rd && l2.rd, wr := l1.wr && l2.wr, x := l1.x && l2.x, rcc := l2.rcc, own := l2.own,
                 priv := l1.priv, wp := plWp pe, transit := plTransit pe, big := l1.big && l2.big }, keep)

/-- The page may not be used for the access: a write-protect or transit window (R136). -/
def TlbEntry.windowed (e : TlbEntry) (access : Nat) : Bool :=
  e.transit || (e.wp && (access == 1 || access == 2))
/-- The entry serves the access. -/
def TlbEntry.serves (e : TlbEntry) (f ctx page access : Nat) : Bool :=
  e.func == f && e.ctx == ctx && e.page == page && permits e.rd e.wr e.x access && !e.windowed access

/-- The set of the L2 TLB a page belongs to: 1,024 sets of 8 ways (R125). -/
def tlbSet (page : Nat) : Nat := page % 1024
/-- A translation put into an L2 TLB: where its set is full, the oldest of the set leaves. -/
def tlbPut (e : TlbEntry) (l : List TlbEntry) : List TlbEntry :=
  let set := l.filter (fun x => tlbSet x.page == tlbSet e.page)
  e :: (if set.length < 8 then l else l.filter (fun x => tlbSet x.page != tlbSet e.page || (set.take 7).contains x))
/-- A translation held by the core's L1 TLB or its die's L2 TLB (R125). -/
def State.tlbFind (s : State) (c f ctx page access : Nat) : Option TlbEntry :=
  match (s.core c).tlb.find? (fun e => e.serves f ctx page access) with
  | some e => some e
  | none => (tget [] s.l2tlb (coreDie c)).find? (fun e => e.serves f ctx page access)

/-! ## The fault ring -/

/-- Where a word of a fault ring lies: a place, none the record can be written to, or one that can be used later, once a
window is over (R136) or a sector has come (R123). -/
inductive RingAt where
  | here (l : Loc)
  | none_
  | later (ask : Option Nat)
/-- A word of the function's memory by GPA, read and written through stage 2 only (R132). -/
def State.ringAt (s : State) (f gpa : Nat) : RingAt :=
  match (s.stage2 0 f gpa).1 with
  | .ok leaf =>
    let e := s.ownEntry 0 f leaf.sfa
    if leaf.rd && leaf.wr then
      match s.ownPart 0 f leaf.sfa with
      | some (.home p) => if plWp e || plTransit e then .later none else .here (.home p)
      | some (.pool p) =>
        if plWp e || plTransit e then .later none
        else if (s.l2Num p 1).isSome then .here (.pool p) else .later (some p)
      | _ => .none_
    else .none_
  | .error _ => .none_
/-- Eight bytes of such a place, and bytes written there. -/
def State.partNum (s : State) : Loc → Nat
  | .home p => s.homeNum p 8
  | .pool p => (s.l2Num p 8).getD 0
  | _ => 0
def State.partWrite (s : State) (l : Loc) (bs : List Byte) : State :=
  match l with
  | .home p => s.homeWrite p bs
  | .pool p => match tget none s.l2 (p / 32) with
    | some x => s.l2Put p (x.put (p % 32) bs.length (leNat bs) true)
    | none => s
  | _ => s

/-- Bytes of FLOG that act (R122). -/
def flogOf (w2 : Nat) : Nat := if 4 ≤ bits w2 32 4 && bits w2 32 4 ≤ 12 then bits w2 32 4 else 4

/-- An MSI-X message of a function that may go at once: a bridge's goes to the host, a member's is owed (R69). -/
def State.msixSoon (s : State) (f vec : Nat) : State :=
  if s.boot.bridge then s.emit (.msix f vec) else { s with owed := s.owed ++ [.msix f vec] }
/-- How writing a record ends. -/
def Owed.func : Owed → Nat
  | .ring f .. | .put f .. | .msix f _ => f
inductive RingRes where
  | wrote (s : State)
  | lost
  | later (ask : Option Nat)
/-- One record written to a context's fault ring, where that can be done now (R132). -/
def State.ringPut (s : State) (f ctx : Nat) (w0 w1 w2 w3 : Nat) : RingRes :=
  match s.ctxWord 0 f ctx 1 0, s.ctxWord 0 f ctx 2 0 with
  | .ok c1, .ok c2 =>
    let ring := bits c1 12 43 * 4096
    match s.ringAt f ring with
    | .none_ => .lost
    | .later a => .later a
    | .here head =>
      let prod := s.partNum head
      let cons := s.partNum (head.add 8)
      let n := 2 ^ flogOf c2
      let count := prod % 2 ^ 63
      if n ≤ (count + 2 ^ 63 - cons % 2 ^ 63) % 2 ^ 63 then .wrote (s.partWrite head (leBytes 8 (2 ^ 63 + count)))
      else match s.ringAt f (ring + 0x40 + 32 * (count % n)) with
        | .none_ => .lost
        | .later a => .later a
        | .here slot =>
          let mark := prod / 2 ^ 63 == 1 || (s.func f).lost.contains ctx
          let s := s.partWrite slot (leBytes 8 w0 ++ leBytes 8 w1 ++ leBytes 8 w2 ++ leBytes 8 w3)
          let s := s.partWrite head (leBytes 8 ((if mark then 2 ^ 63 else 0) + (count + 1) % 2 ^ 63))
          let s := s.setFunc f { s.func f with lost := (s.func f).lost.filter (· != ctx) }
          .wrote (if bitOf c2 29 && !(s.func f).flr then s.msixSoon f (bits c2 16 11) else s)
  | .error (.need a), _ | _, .error (.need a) => .later (some a)
  | .error .transit, _ | _, .error .transit => .later none
  | _, _ => .lost
/-- The mark that a context has lost a record, reported to Hasp (R132). -/
def State.ringLost (s : State) (f ctx : Nat) (who : XlTarget) (w0 : Nat) : State :=
  let fn := s.func f
  let s := s.setFunc f { fn with lost := if fn.lost.contains ctx then fn.lost else ctx :: fn.lost }
  { s with haspFaults := s.haspFaults ++ [(who, { stage2 := true, level := 0, kind := kPerm,
                                                  va := BitVec.ofNat 64 w0, gpa := 0, access := 1 })] }
/-- One record for a context's fault ring: written, owed behind those that wait, or lost (R132). -/
def State.ringWrite (s : State) (f ctx : Nat) (who : XlTarget) (w0 w1 w2 w3 : Nat) : State :=
  let owe : State := { s with owed := s.owed ++ [.ring f ctx who w0 w1 w2 w3] }
  if s.owed.any (fun o => match o with | .ring g c .. => g == f && c == ctx | _ => false) then owe
  else match s.ringPut f ctx w0 w1 w2 w3 with
  | .wrote t => t
  | .lost => s.ringLost f ctx who w0
  | .later _ => owe

/-- Word 1 of a fault record (R132). -/
def recWord1 (kind : Nat) (stage2 : Bool) (access level ctx f score gs : Nat) : Nat :=
  kind + (if stage2 then 2 ^ 8 else 0) + access * 2 ^ 9 + level * 2 ^ 12 + ctx * 2 ^ 16 + f * 2 ^ 24 +
  score * 2 ^ 32 + gs * 2 ^ 42

end Sys2Proof.Machine
end

