-- ==== Sys2Proof/Machine/Ops.lean ====
section
/-! DEFINITION. The named operations on groups: registers, execution sets, position, and taking a trap
and returning from it (R195 to R202, R312, R320 to R322, R410 to R414). -/

namespace Sys2Proof.Machine

/-! ## Registers -/

def Group.vget (g : Group) (r lane : Nat) : W32 := tget 0 g.v (r * 32 + lane)
def Group.vput (g : Group) (r lane : Nat) (x : W32) : Group := { g with v := tput 0 g.v (r * 32 + lane) x }
def Group.sget (g : Group) (n : Nat) : W64 := tget 0 g.s n
def Group.sput (g : Group) (n : Nat) (x : W64) : Group := { g with s := tput 0 g.s n x }
/-- k0 reads as all ones (R194). -/
def Group.kget (g : Group) (n : Nat) : Lanes := if n = 0 then BitVec.allOnes 32 else tget 0 g.k n
/-- A write to k0 is ignored (R315). -/
def Group.kput (g : Group) (n : Nat) (x : Lanes) : Group := if n = 0 then g else { g with k := tput 0 g.k n x }
def Group.cget (g : Group) (lane : Nat) : Nat := tget 0 g.ctr lane

/-- The number of a scalar register field (R312). -/
def sNum (f : BitVec 8) : Nat := f.toNat - 0xC0
/-- A scalar register by its field. -/
def Group.sfld (g : Group) (f : BitVec 8) : W64 := g.sget (sNum f)

/-- Two 32-bit halves as one value, the second above (R313). -/
def join64 (lo hi : W32) : W64 := hi ++ lo
def lo32 (x : W64) : W32 := x.setWidth 32
def hi32 (x : W64) : W32 := x.extractLsb' 32 32

/-- An operand field as one lane reads it, 32 or 64 bits wide; a scalar is broadcast (R313). -/
def Group.read (g : Group) (wide : Bool) (f : BitVec 8) (lane : Nat) : W64 :=
  if isS f then (if wide then g.sfld f else (lo32 (g.sfld f)).setWidth 64)
  else if wide then join64 (g.vget f.toNat lane) (g.vget (f.toNat + 1) lane)
  else (g.vget f.toNat lane).setWidth 64

/-- One lane of a vector destination written, a pair when wide (R313). -/
def Group.writeLane (g : Group) (wide : Bool) (d : BitVec 8) (lane : Nat) (x : W64) : Group :=
  if wide then (g.vput d.toNat lane (lo32 x)).vput (d.toNat + 1) lane (hi32 x)
  else g.vput d.toNat lane (lo32 x)
/-- A scalar destination written; a 32-bit result leaves bits 63:32 zero (R313). -/
def Group.writeS (g : Group) (wide : Bool) (d : BitVec 8) (x : W64) : Group :=
  g.sput (sNum d) (if wide then x else (lo32 x).setWidth 64)

/-- The lanes of ex of a vector destination written with a value for each (R7). -/
def Group.writeV (g : Group) (wide : Bool) (d : BitVec 8) (ex : Lanes) (x : Nat → W64) : Group :=
  (laneList ex).foldl (fun g l => g.writeLane wide d l (x l)) g

/-! ## Execution sets (R197, R198, R412) -/

/-- The lanes whose counter is zero. -/
def Group.ctrZero (g : Group) : Lanes :=
  g.ctr.foldl (fun m e => if e.2 = 0 then m else m &&& ~~~(lane1 e.1)) (BitVec.allOnes 32)
/-- The lanes whose exit bit is clear. -/
def Group.liveLanes (g : Group) : Lanes := ~~~g.exited
/-- Active lanes; in a trap handler every live lane counts as active (R412). -/
def Group.active (g : Group) : Lanes :=
  if g.tm then g.liveLanes else g.liveLanes &&& g.ctrZero
/-- The guard's lanes (R197). -/
def Group.guardMask (g : Group) (gd : Guard) : Lanes :=
  if gd.neg then ~~~(g.kget gd.k.toNat) else g.kget gd.k.toNat
/-- The execution set over the given active lanes. -/
def Group.execSet (g : Group) (gd : Guard) (act : Lanes) : Lanes := act &&& g.guardMask gd
/-- Whether a uniform instruction executes (R198). -/
def Group.uniGuard (g : Group) (gd : Guard) (act : Lanes) : Bool :=
  (!gd.neg && gd.k == 0) || g.execSet gd act != 0

/-- Every vector register named is below NREG (R195). -/
def Group.inRange (g : Group) (fs : List (BitVec 8)) : Bool := fs.all (fun f => isS f || decide (f.toNat < g.nreg))

/-! ## Position (R320 to R322) -/

/-- The address of the next word. -/
def Group.addr (g : Group) : W64 := g.bhdr + BitVec.ofNat 64 (8 * g.woff)
/-- %tpos for a word offset in the current block (R409). -/
def tposOf (bhdr : W64) (woff : Nat) : W64 :=
  BitVec.ofNat 64 (woff % 512 * 2 ^ 55) ||| (bhdr &&& 0x007FFFFFFFFFFFF8)
def Group.pos (g : Group) : W64 := tposOf g.bhdr g.woff
/-- The word is done: the next word of the block, a stop bit counted (R288). -/
def Group.advance (g : Group) (sp : Bool) : Group :=
  { g with woff := g.woff + 1, nsp := if sp then g.nsp + 1 else g.nsp, held := none, relHalt := false, miss := [], park := none }
/-- Control goes to a header, entered at the next issue (R321). -/
def Group.goto (g : Group) (a : W64) : Group :=
  { g with bhdr := a, woff := 0, held := none, relHalt := false, miss := [], park := none }

/-! ## Traps (R410 to R414) -/

def cIllegal : Byte := 0x01
def cRange : Byte := 0x02
def cBranch : Byte := 0x03
def cOverrun : Byte := 0x04
def cNest : Byte := 0x05
def cScratch : Byte := 0x06
def cAlign : Byte := 0x07
def cTag : Byte := 0x08
def cScope : Byte := 0x09
def cXlate : Byte := 0x0A
def cShut : Byte := 0x0B
def cBar : Byte := 0x0C
def cFifo : Byte := 0x0D
def cOperand : Byte := 0x0E
def cGang : Byte := 0x0F
def cLaneWord : Byte := 0x10
def cBkpt : Byte := 0x11
def cTrap : Byte := 0x12
def cRemote : Byte := 0x14
def cLatch : Byte := 0x15
def cEngine : Byte := 0x16

/-- The places 0 to 7 of a core whose team satisfies p. -/
def State.teamsOf (s : State) (p : Nat → Team → Bool) : List (Nat × Nat) :=
  (s.teams.filter (fun e => e.2.live && p (e.1 / 8) e.2)).map (fun e => (e.1 / 8, e.1 % 8))
/-- The group places of a core. -/
def State.placesOf (s : State) (c : Nat) : List Nat :=
  (s.groups.filter (fun e => e.1 / 64 == c && e.2.live)).map (fun e => e.1 % 64)
/-- Applying a function to every live group of a core that satisfies p. -/
def State.mapGroups (s : State) (p : Nat → Nat → Group → Bool) (f : Group → Group) : State :=
  (s.groups.filter (fun e => e.2.live && p (e.1 / 64) (e.1 % 64) e.2)).foldl
    (fun s e => { s with groups := tput {} s.groups e.1 (f (tget {} s.groups e.1)) }) s

/-- One team is terminated: its wait records and the gang latch are cleared, and its groups end without
a save once their accesses are answered (R414). -/
def State.termTeam (s : State) (c t : Nat) : State :=
  let s := s.setTeam c t { s.team c t with term := true }
  let s := s.mapGroups (fun c' _ g => c' == c && g.team == t) (fun g => { g with wait := none, park := none })
  let co := s.core c
  if co.latch.team == t && co.latch.arrivals != [] then
    let s := co.latch.arrivals.foldl (fun s a =>
      s.setGroup c a.gs { s.group c a.gs with tl := (s.group c a.gs).tl - 1 }) s
    s.setCore c { co with latch := {} }
  else s

/-- The teams that fall with a team: its cluster, or its cooperative grid (R414). -/
def State.fellows (s : State) (c t : Nat) : List (Nat × Nat) :=
  let tm := s.team c t
  if tm.coop then s.teamsOf (fun _ x => x.launch == tm.launch)
  else if 1 < tm.cx * tm.cy then s.teamsOf (fun _ x => x.launch == tm.launch && x.placed == tm.placed)
  else [(c, t)]

/-- A trap that no handler takes ends the group's team; the record holds %taddr and %tpos as they stand
(R414). -/
def State.terminate (s : State) (c p : Nat) (cause : Byte) : State :=
  let g := s.group c p
  let tm := s.team c g.team
  let s := (s.fellows c g.team).foldl (fun s x => s.termTeam x.1 x.2) s
  s.ringWrite tm.func tm.ctx (.group c p) g.taddr.toNat
    (recWord1 (0x20 + cause.toNat) false 0 0 tm.ctx tm.func c p) g.tpos.toNat
    (if g.tm then (g.tcause.extractLsb' 0 8).toNat else 0)

/-- Taking a trap (R411): a second trap, or one with no handler, terminates; otherwise the cause, the
address and the position are saved, TM is set and the header at %tvec is entered. -/
def State.takeTrap (s : State) (c p : Nat) (cause : Byte) (info : Nat) (impr : Bool) (lane : Nat)
    (addr pos : W64) : State :=
  let g := s.group c p
  if g.tm || g.tvec == 0 then
    (s.setGroup c p { g with held := none }).terminate c p cause
  else
    s.setGroup c p ({ g with
      tcause := BitVec.ofNat 32 (info % 65536 * 2 ^ 16 + (if impr then 2 ^ 15 else 0) + lane % 128 * 2 ^ 8 + cause.toNat)
      taddr := addr, tpos := pos, tm := true, park := none }.goto g.tvec)

/-- The return of TRAP.RET (R413): TM falls and the word at %tpos follows; WOFF 0 enters the header. LEN and ORD
of the block are read again at the next issue, which a block length of 0 asks for. -/
def Group.trapReturn (g : Group) : Group :=
  { g with tm := false, bhdr := g.tpos &&& 0x007FFFFFFFFFFFF8, woff := (g.tpos.extractLsb' 55 9).toNat, held := none,
           relHalt := false, miss := [], park := none, blen := 0, ord := 0, nsp := 0 }

/-- An imprecise fault waits for the next boundary (R61, R231, R451). -/
def State.addImprecise (s : State) (c p : Nat) (i : Imprecise) : State :=
  let g := s.group c p
  if g.live then s.setGroup c p { g with impr := g.impr ++ [i] } else s

/-! ## What a word does -/

/-- How a word ends: done; a precise trap at itself, or after itself; a hold at issue with its stall
class; or a transfer to a header. -/
inductive Res where
  | done (s : State)
  /-- the word goes on at the group's next issue (R208) -/
  | again (s : State)
  | trap (cause : Byte) (info lane : Nat) (addr : W64) (s : State)
  | trapNext (cause : Byte) (info lane : Nat) (addr : W64) (s : State)
  | hold (cls : Nat) (s : State)
  | jump (a : W64) (s : State)

/-- The group in issue after its word: onwards, into the handler, held, or at the target. -/
def Res.retire (sp : Bool) : Res → State
  | .done s => s.setCg (s.cg.advance sp)
  | .again s => s.setCg { s.cg with held := none }
  | .trap cause info lane addr s => s.takeTrap s.cur.core s.cur.gs cause info false lane addr s.cg.pos
  | .trapNext cause info lane addr s =>
    let s := s.setCg (s.cg.advance sp)
    s.takeTrap s.cur.core s.cur.gs cause info false lane addr s.cg.pos
  | .hold cls s => s.setCg { s.cg with held := some cls }
  | .jump a s => s.setCg (s.cg.goto a)

/-- Bytes an access gives each lane of its destination. -/
def Access.regBytes (a : Access) : Nat := match a.op with | .frag .. => 16 | _ => a.bytes
/-- The registers an outstanding load or atomic still writes (R417). -/
def Access.writes (a : Access) (f : BitVec 8) (n : Nat) : Bool :=
  match a.op with
  | .load | .atom _ | .barr | .frag .. =>
    if isS a.dest then f == a.dest
    else !isS f && decide (f.toNat < a.dest.toNat + max 1 (a.regBytes / 4)) && decide (a.dest.toNat < f.toNat + n)
  | _ => false
/-- A word that names a register some outstanding load writes is held at issue (R417). -/
def Group.loadBusy (g : Group) (fs : List (BitVec 8 × Nat)) : Bool :=
  fs.any (fun f => g.acc.any (fun a => a.writes f.1 f.2))

end Sys2Proof.Machine
end

