-- ==== Sys2Proof/Machine/Flags.lean ====
section
/-! DEFINITION. The status bits of %fst and how an instruction sets them (R340), and the random state a
stochastic rounding draws from (R278, R366). -/

namespace Sys2Proof.Machine

/-- The five conditions of %fst: IV, DZ, OF, UF, NX in bits 4 to 0 (R340). -/
abbrev Fl := BitVec 5
def fIV : Fl := 0b10000
def fDZ : Fl := 0b01000
def fOF : Fl := 0b00100
def fUF : Fl := 0b00010
def fNX : Fl := 0b00001
def flIf (b : Bool) (f : Fl) : Fl := if b then f else 0

/-- The bits are sticky (R340). -/
def Group.orFst (g : Group) (f : Fl) : Group := { g with fst := g.fst ||| f.setWidth 32 }

/-- One step of the generator: the new state and the output (R366). -/
def rngStep (x : W64) : W64 × W64 :=
  let x := x + 0x9E3779B97F4A7C15
  let z := (x ^^^ (x >>> 30)) * 0xBF58476D1CE4E5B9
  let z := (z ^^^ (z >>> 27)) * 0x94D049BB133111EB
  (x, z ^^^ (z >>> 31))
/-- A draw: the new state and u, bits 63:32 of the output (R278, R366). -/
def rngDraw (x : W64) : W64 × Nat := let r := rngStep x; (r.1, (hi32 r.2).toNat)

/-- A lane's random state. -/
def Group.rget (g : Group) (lane : Nat) : W64 := tget 0 g.rnd lane
def Group.rput (g : Group) (lane : Nat) (x : W64) : Group := { g with rnd := tput 0 g.rnd lane x }

/-- The states a seed gives (R368). -/
def seedStates (s : W64) : Tbl W64 :=
  lanes.foldl (fun t l => tput 0 t l (s ^^^ (BitVec.ofNat 64 l * 0xD1B54A32D192ED03))) []
def Group.seed (g : Group) (s : W64) : Group := { g with rngseed := s, rnd := seedStates s }

/-- How a value is rounded: RND and SAT of a destination field (R276), stochastic turned into
nearest-even where the form draws nothing (R342). -/
structure Rm where
  rnd : Nat
  sat : Bool
  deriving DecidableEq, Repr
def rmNear : Rm := { rnd := 0, sat := false }
/-- The field of %mode at a bit position (R276). -/
def modeRm (mode : W64) (lo : Nat) : Rm :=
  { rnd := bits mode.toNat lo 2, sat := bitOf mode.toNat (lo + 2) }
def Rm.uniform (r : Rm) : Rm := if r.rnd = 2 then { r with rnd := 0 } else r
/-- The draw a rounding under the rule takes (R278). -/
def Rm.draw (r : Rm) (x : W64) : W64 × Nat := if r.rnd = 2 then rngDraw x else (x, 0)

end Sys2Proof.Machine
end

