-- ==== Sys2Proof/Machine/Float.lean ====
section
/-! DEFINITION. Number formats and rounding: values of bits (R265), the rounding of exact values with its
conditions (R277 to R280), and the exact operations the instructions round (R353 to R360). -/

namespace Sys2Proof.Machine

/-- How a format uses its top exponent (R265). -/
inductive Top where
  | ieee | e4m3 | e2m1
  deriving DecidableEq, Repr
/-- A floating-point format: exponent bits, fraction bits, bias (R265). -/
structure Fmt where
  e : Nat
  m : Nat
  bias : Nat
  top : Top
  deriving DecidableEq, Repr
def f64 : Fmt := ⟨11, 52, 1023, .ieee⟩
def f32 : Fmt := ⟨8, 23, 127, .ieee⟩
def f16 : Fmt := ⟨5, 10, 15, .ieee⟩
def bf16 : Fmt := ⟨8, 7, 127, .ieee⟩
def e5m2 : Fmt := ⟨5, 2, 15, .ieee⟩
def e4m3 : Fmt := ⟨4, 3, 7, .e4m3⟩
def e2m1 : Fmt := ⟨2, 1, 1, .e2m1⟩

/-- A value: a NaN, a signed infinity, or (−1)^neg × m × 2^e, zero included with its sign. -/
inductive FVal where
  | nan
  | inf (neg : Bool)
  | fin (neg : Bool) (m : Nat) (e : Int)
  deriving DecidableEq, Repr

def Fmt.width (F : Fmt) : Nat := 1 + F.e + F.m
def Fmt.signBit (F : Fmt) : Nat := 2 ^ (F.e + F.m)
/-- The value of a format's bits (R265). -/
def Fmt.val (F : Fmt) (x : Nat) : FVal :=
  let s := bitOf x (F.e + F.m)
  let ex := bits x F.m F.e
  let fr := bits x 0 F.m
  let max := 2 ^ F.e - 1
  if F.top == .ieee && ex == max then (if fr == 0 then .inf s else .nan)
  else if F.top == .e4m3 && ex == max && fr == 2 ^ F.m - 1 then .nan
  else if ex == 0 then .fin s fr (1 - (F.bias : Int) - F.m)
  else .fin s (2 ^ F.m + fr) ((ex : Int) - F.bias - F.m)

/-- The canonical NaN (R265, R266); E2M1 has none and takes +0 (R279). -/
def Fmt.nanBits (F : Fmt) : Nat :=
  match F.top with
  | .ieee => (2 ^ F.e - 1) * 2 ^ F.m + 2 ^ (F.m - 1)
  | .e4m3 => 0x7F
  | .e2m1 => 0
def Fmt.signed (F : Fmt) (neg : Bool) (x : Nat) : Nat := if neg then F.signBit + x else x
def Fmt.infBits (F : Fmt) (neg : Bool) : Nat := F.signed neg ((2 ^ F.e - 1) * 2 ^ F.m)
/-- The largest finite magnitude's bits. -/
def Fmt.maxBits (F : Fmt) : Nat :=
  match F.top with
  | .ieee => (2 ^ F.e - 1) * 2 ^ F.m - 1
  | .e4m3 => 0x7E
  | .e2m1 => 7
/-- The largest finite magnitude as m × 2^e. -/
def Fmt.maxVal (F : Fmt) : Nat × Int :=
  match F.val F.maxBits with
  | .fin _ m e => (m, e)
  | _ => (0, 0)

/-- m × 2^e as a comparison of two magnitudes. -/
def magLt (m1 : Nat) (e1 : Int) (m2 : Nat) (e2 : Int) : Bool :=
  let e := min e1 e2
  decide (m1 * 2 ^ (e1 - e).toNat < m2 * 2 ^ (e2 - e).toNat)
/-- ⌊log2⌋ of a non-zero magnitude m × 2^e. -/
def magLog (m : Nat) (e : Int) : Int := (m.log2 : Int) + e

/-- Bits and conditions. -/
structure FRes where
  bits : Nat
  fl : Fl := 0
  deriving DecidableEq, Repr

/-- The quotient and remainder of m × 2^e by 2^q, with the divisor (R277: lo and the rest). -/
def splitAt (m : Nat) (e q : Int) : Nat × Nat × Nat :=
  if q ≤ e then (m * 2 ^ (e - q).toNat, 0, 1)
  else let d := 2 ^ (q - e).toNat; (m / d, m % d, d)
/-- Whether the rule takes hi rather than lo (R277). -/
def roundUp (rnd u lo r d : Nat) : Bool :=
  match rnd with
  | 0 => decide (d < 2 * r) || (decide (d = 2 * r) && lo % 2 == 1)
  | 1 => false
  | 2 => decide (2 ^ 32 ≤ r * 2 ^ 32 / d + u)
  | _ => r != 0

/-- A result beyond the largest finite value (R279). -/
def Fmt.overflow (F : Fmt) (rm : Rm) (neg : Bool) : Nat :=
  if rm.sat || rm.rnd == 1 || F.top == .e2m1 then F.signed neg F.maxBits
  else if F.top == .e4m3 then F.nanBits else F.infBits neg

/-- A non-zero exact value rounded into the format (R277, R279). -/
def Fmt.round (F : Fmt) (rm : Rm) (u : Nat) (neg : Bool) (m : Nat) (e : Int) : FRes :=
  let emin : Int := 1 - F.bias
  let k := magLog m e
  let q := max k emin - F.m
  let (lo, r, d) := splitAt m e q
  let n := if roundUp rm.rnd u lo r d then lo + 1 else lo
  let inexact := r != 0
  let (mm, me) := F.maxVal
  if magLt mm me n q then { bits := F.overflow rm neg, fl := fOF ||| fNX }
  else
    let fl := flIf inexact fNX ||| flIf (inexact && decide (k < emin)) fUF
    if n == 0 then { bits := F.signed neg 0, fl }
    else
      let k' := magLog n q
      if k' < emin then { bits := F.signed neg n, fl }
      else
        let fr := if (n.log2 : Nat) == F.m then n - 2 ^ F.m else n / 2 - 2 ^ F.m
        { bits := F.signed neg ((k' + F.bias).toNat * 2 ^ F.m + fr), fl }

/-- An arithmetic result in the format: a NaN canonical, an infinity kept (R353, R354). -/
def Fmt.arith (F : Fmt) (rm : Rm) (u : Nat) (dsc : Int) : FVal → FRes
  | .nan => { bits := F.nanBits }
  | .inf n => { bits := F.infBits n }
  | .fin n 0 _ => { bits := F.signed n 0 }
  | .fin n m e => F.round rm u n m (e + dsc)
/-- A conversion into the format (R279). -/
def Fmt.convert (F : Fmt) (rm : Rm) (u : Nat) : FVal → FRes
  | .nan => { bits := F.nanBits, fl := flIf (F.top == .e2m1) fIV }
  | .inf n =>
    if F.top == .ieee && !rm.sat && rm.rnd != 1 then { bits := F.infBits n }
    else { bits := F.overflow rm n, fl := fOF ||| fNX }
  | .fin n 0 _ => { bits := F.signed n 0 }
  | .fin n m e => F.round rm u n m e

/-! ## Exact operations -/

def FVal.neg : FVal → Bool
  | .nan => false | .inf n => n | .fin n _ _ => n
def FVal.isNan : FVal → Bool
  | .nan => true | _ => false
def FVal.isZero : FVal → Bool
  | .fin _ 0 _ => true | _ => false

/-- The product, and whether it is Inf × 0 (R354). -/
def FVal.mul : FVal → FVal → FVal × Bool
  | .nan, _ => (.nan, false)
  | _, .nan => (.nan, false)
  | .inf s, .inf t => (.inf (s != t), false)
  | .inf s, .fin t m _ => if m == 0 then (.nan, true) else (.inf (s != t), false)
  | .fin t m _, .inf s => if m == 0 then (.nan, true) else (.inf (s != t), false)
  | .fin s m e, .fin t n f => (.fin (s != t) (m * n) (e + f), false)

/-- A finite value as an integer at exponent e, which is at most its own. -/
def FVal.at (v : FVal) (e : Int) : Int :=
  match v with
  | .fin n m f => let x : Int := m * 2 ^ (f - e).toNat; if n then -x else x
  | _ => 0
def FVal.exp : FVal → Int
  | .fin _ _ e => e
  | _ => 0
/-- The exact sum of the addends, and whether it is Inf − Inf (R354). -/
def fsum (xs : List FVal) : FVal × Bool :=
  if xs.any FVal.isNan then (.nan, false)
  else
    let pos := xs.contains (.inf false)
    let neg := xs.contains (.inf true)
    if pos && neg then (.nan, true)
    else if pos then (.inf false, false)
    else if neg then (.inf true, false)
    else
      let e := xs.foldl (fun a x => min a x.exp) ((xs.headD (.fin false 0 0)).exp)
      let t := xs.foldl (fun a x => a + x.at e) (0 : Int)
      if t == 0 then (.fin (xs.all (fun x => x.neg)) 0 0, false)
      else (.fin (decide (t < 0)) t.natAbs e, false)

/-- CLAMP on a result (R310, R353). -/
def Fmt.clamp (F : Fmt) (x : Nat) : Nat :=
  match F.val x with
  | .nan => 0
  | .inf n => if n then 0 else F.bias * 2 ^ F.m
  | .fin n m e => if n || m == 0 then 0 else if magLt 1 0 m e then F.bias * 2 ^ F.m else x

/-- Absolute value, then negation, of a source (R309). -/
def Fmt.srcMod (F : Fmt) (x : Nat) (neg abs : Bool) : Nat :=
  let x := if abs then x % F.signBit else x
  if neg then (if bitOf x (F.e + F.m) then x - F.signBit else x + F.signBit) else x

/-- The order of FMIN and FMAX: −0 below +0 (R356). -/
def fLess (a b : FVal) : Bool :=
  match a, b with
  | .nan, _ => false
  | _, .nan => false
  | .inf s, .inf t => s && !t
  | .inf s, .fin .. => s
  | .fin .., .inf t => !t
  | .fin s m e, .fin t n f =>
    match s, t with
    | true, false => true
    | false, true => false
    | false, false => magLt m e n f
    | true, true => magLt n f m e
/-- Equality of values, −0 and +0 alike; a NaN equals nothing (R357). -/
def fEq (a b : FVal) : Bool :=
  match a, b with
  | .inf s, .inf t => s == t
  | .fin s m e, .fin t n f => (m == 0 && n == 0) || (s == t && m != 0 && !magLt m e n f && !magLt n f m e)
  | _, _ => false

/-- FMIN and FMAX on bits (R356). -/
def Fmt.minmax (F : Fmt) (max : Bool) (a b : Nat) : Nat :=
  match (F.val a).isNan, (F.val b).isNan with
  | true, true => F.nanBits
  | true, false => b
  | false, true => a
  | false, false =>
    if max then (if fLess (F.val a) (F.val b) then b else a)
    else if fLess (F.val b) (F.val a) then b else a

/-- The integer square root, by bits from the top. -/
def isqrtGo (n : Nat) : Nat → Nat → Nat
  | 0, r => r
  | b + 1, r => let r' := r + 2 ^ b; isqrtGo n b (if r' * r' ≤ n then r' else r)
def isqrt (n : Nat) : Nat := isqrtGo n (n.log2 / 2 + 1) 0

/-- The root of m × 2^e to well beyond any rounding, with a sticky low bit. -/
def sqrtMag (m : Nat) (e : Int) : Nat × Int :=
  let sh : Int := if (e - 160) % 2 == 0 then 160 else 161
  let n := m * 2 ^ sh.toNat
  let r := isqrt n
  (2 * r + (if r * r == n then 0 else 1), (e - sh) / 2 - 1)
/-- FSQRT's exact value, and whether it is invalid (R354, R360). -/
def FVal.sqrt : FVal → FVal × Bool
  | .nan => (.nan, false)
  | .inf n => if n then (.nan, true) else (.inf false, false)
  | .fin n m e =>
    if m == 0 then (.fin n 0 0, false)
    else if n then (.nan, true)
    else let (r, q) := sqrtMag m e; (.fin false r q, false)

/-! ## Integral values (R280, R358) -/

/-- The magnitude rounded to an integer: its value and whether it is inexact. -/
def roundInt (rnd u : Nat) (m : Nat) (e : Int) : Nat × Bool :=
  let (lo, r, d) := splitAt m e 0
  (if roundUp rnd u lo r d then lo + 1 else lo, r != 0)
/-- FRND: rules nearest-even, toward zero, down, up (R358). -/
def Fmt.rnd (F : Fmt) (rule : Nat) (x : Nat) : Nat :=
  match F.val x with
  | .nan => F.nanBits
  | .inf _ => x
  | .fin n m e =>
    let away := (rule == 2 && n) || (rule == 3 && !n)
    let r := (roundInt (if rule == 0 then 0 else if away then 3 else 1) 0 m e).1
    if r == 0 then F.signed n 0 else (F.round rmNear 0 n r 0).bits
/-- A value saturated to an integer range, with IV and NX (R280, R363). -/
def toInt (rnd u : Nat) (lo hi : Int) : FVal → Int × Fl
  | .nan => (0, fIV)
  | .inf n => (if n then lo else hi, fIV)
  | .fin n m e =>
    let (r, inex) := roundInt rnd u m e
    let v : Int := if n then -r else r
    if v < lo then (lo, fIV ||| flIf inex fNX)
    else if hi < v then (hi, fIV ||| flIf inex fNX)
    else (v, flIf inex fNX)
/-- An integer as a value. -/
def ofInt (x : Int) : FVal := .fin (decide (x < 0)) x.natAbs 0

/-- The classes of FCLASS (R358). -/
def Fmt.classify (F : Fmt) (x : Nat) : Nat :=
  match F.val x with
  | .nan => 2 ^ 8
  | .inf n => if n then 1 else 2 ^ 7
  | .fin n m _ =>
    let sub := bits x F.m F.e == 0
    if m == 0 then (if n then 2 ^ 3 else 2 ^ 4)
    else if sub then (if n then 2 ^ 2 else 2 ^ 5)
    else if n then 2 ^ 1 else 2 ^ 6

/-- FCMP (R357). -/
def fcmp (cc : Nat) (a b : FVal) : Bool :=
  let nan := a.isNan || b.isNan
  match cc with
  | 0 => fEq a b
  | 1 => !fEq a b
  | 2 => !nan && fLess a b && !fEq a b
  | 3 => !nan && (fLess a b || fEq a b)
  | 4 => !nan && fLess b a && !fEq a b
  | 5 => !nan && (fLess b a || fEq a b)
  | 6 => !nan
  | _ => nan

end Sys2Proof.Machine
end

