-- ==== Sys2Proof/Machine/Operands.lean ====
section
/-! DEFINITION. The operand forms: the checks a word passes before its effect (R330, R417), the elements of
the packed types (R311, R338), and how a V-form or I-form word reads its operands and writes its result
in the vector and in the uniform form (R313, R314). -/

namespace Sys2Proof

open Machine

namespace Machine

/-- The registers a word names: an operand field and how many registers it covers. -/
abbrev Regs := List (BitVec 8 × Nat)

/-- The checks before a word's effect: the hold for registers an outstanding load writes (R417), the guard
and execution set (R198, R201), and the register range (R195), in the order of R330. -/
def State.gate (s : State) (rs : Regs) (runs : Bool) (k : Res) : Res :=
  if s.cg.loadBusy rs then .hold 6 s
  else if !runs then .done s
  else if !s.cg.inRange (rs.map Prod.fst) then .trap cRange 0 0 0 s
  else k

/-! ## Elements -/

end Machine

/-- Element width of a type (R311). -/
def Ty.ew : Ty → Nat
  | .i64 | .n64 | .f64 => 64
  | .i16x2 | .n16x2 | .f16x2 | .bf16x2 => 16
  | .i8x4 | .n8x4 => 8
  | _ => 32
/-- Elements of a type (R311). -/
def Ty.en : Ty → Nat
  | .i16x2 | .n16x2 | .f16x2 | .bf16x2 => 2
  | .i8x4 | .n8x4 => 4
  | _ => 1
/-- The i types are signed (R345). -/
def Ty.isSigned : Ty → Bool
  | .i32 | .i64 | .i16x2 | .i8x4 => true
  | _ => false
/-- The format of a floating-point type, and the place of its field in %mode (R276, R353). -/
def Ty.fmt : Ty → Fmt
  | .f16x2 => f16 | .bf16x2 => bf16 | .f64 => Machine.f64 | _ => Machine.f32

namespace Machine

def Fmt.modeLo (F : Fmt) : Nat :=
  if F == f32 then 0 else if F == f16 then 3 else if F == bf16 then 6 else if F == e4m3 then 9
  else if F == e5m2 then 12 else if F == e2m1 then 15 else 18
/-- The rounding of a destination format (R276). -/
def Group.rmOf (g : Group) (F : Fmt) : Rm := modeRm g.mode F.modeLo

/-- Element e of a register value. -/
def elemOf (w e : Nat) (x : W64) : Nat := bits x.toNat (w * e) w
/-- A w-bit number read as two's complement. -/
def sInt (w x : Nat) : Int := if bitOf x (w - 1) then (x : Int) - 2 ^ w else x
/-- A w-bit element as the type reads it. -/
def elInt (sg : Bool) (w x : Nat) : Int := if sg then sInt w x else x
/-- An integer modulo 2^w. -/
def wrap (w : Nat) (x : Int) : Nat := (x % 2 ^ w).toNat
/-- All ones or zero in w bits (R346). -/
def allOr (w : Nat) (b : Bool) : Nat := if b then 2 ^ w - 1 else 0

/-- What one lane computes: its value, its conditions, and its random state when it draws. -/
structure LRes where
  val : W64
  fl : Fl := 0
  rng : Option W64 := none
  deriving DecidableEq, Repr
/-- A lane's computation over a, b, c, the old destination and the random state; uni marks the uniform form. -/
abbrev LaneFn := (a b c d : W64) → (rng : W64) → LRes

/-- Element by element, with no condition and no draw (R338). -/
def intLane (t : Ty) (h : Nat → Nat → Nat → Nat) : LaneFn := fun a b c _ _ =>
  let w := t.ew
  { val := BitVec.ofNat 64 ((upto t.en).foldl
      (fun acc e => acc + h (elemOf w e a) (elemOf w e b) (elemOf w e c) % 2 ^ w * 2 ^ (w * e)) 0) }

/-- A draw under the rule: the u of a rounding, and the random state when it is stochastic (R278). -/
def drawOf (rm : Rm) (x : Option W64) (x0 : W64) : Nat × Option W64 :=
  if rm.rnd = 2 then
    let r := rngDraw (x.getD x0)
    (r.2, some r.1)
  else (0, x)

/-- Element by element, each element rounded once with a draw of its own (R278, R353): h gives the bits
and conditions of an element from its sources and the draw. -/
def floatLane (t : Ty) (rm : Rm) (h : (u : Nat) → Nat → Nat → Nat → FRes) : LaneFn := fun a b c _ x =>
  let w := t.ew
  let r := (upto t.en).foldl (fun (acc : Nat × Fl × Option W64) e =>
    let d := drawOf rm acc.2.2 x
    let o := h d.1 (elemOf w e a) (elemOf w e b) (elemOf w e c)
    (acc.1 + o.bits % 2 ^ w * 2 ^ (w * e), acc.2.1 ||| o.fl, d.2)) (0, (0 : Fl), none)
  { val := BitVec.ofNat 64 r.1, fl := r.2.1, rng := r.2.2 }

/-! ## The V form -/

/-- The use of an operand field: none, a 32-bit register or a 64-bit one. -/
inductive Use where
  | no | w32 | w64
  deriving DecidableEq, Repr

end Machine

/-- A register of the width of the type. -/
def Ty.use (t : Ty) : Use := if t.is64 then .w64 else .w32

namespace Machine

def Use.regs : Use → Nat
  | .no => 0 | .w32 => 1 | .w64 => 2
/-- The registers of a field with a use. -/
def useRegs (f : BitVec 8) (u : Use) : Regs := if u = .no then [] else [(f, u.regs)]
/-- An operand as a lane reads it (R313). -/
def Group.opnd (g : Group) (u : Use) (f : BitVec 8) (lane : Nat) : W64 :=
  match u with
  | .no => 0
  | .w32 => g.read false f lane
  | .w64 => g.read true f lane

/-- How a V-form opcode uses its fields. -/
structure VUse where
  d : Use
  a : Use
  b : Use := .no
  c : Use := .no
  deriving DecidableEq, Repr

end Machine

/-- The registers a V-form word names. -/
def VForm.regs (f : VForm) (u : VUse) : Regs :=
  useRegs f.d u.d ++ useRegs f.a u.a ++ useRegs f.b u.b ++ useRegs f.c u.c
/-- The word executes once on the scalar datapath (R314). -/
def VForm.uniform (f : VForm) : Bool := isS f.d

namespace Machine

/-- The word executes at all over the active lanes (R197, R198). -/
def Group.runs (g : Group) (uniform : Bool) (gd : Guard) (act : Lanes) : Bool :=
  if uniform then g.uniGuard gd act else g.execSet gd act != 0

/-- One lane of a vector destination written with a result. -/
def Group.laneDone (g : Group) (wide : Bool) (d : BitVec 8) (lane : Nat) (r : LRes) : Group :=
  let g := (g.writeLane wide d lane r.val).orFst r.fl
  match r.rng with
  | some x => g.rput lane x
  | none => g
/-- The lane results of a vector word, every lane having read before any writes (R7). -/
def Group.vecDone (g : Group) (wide : Bool) (d : BitVec 8) (ex : Lanes) (h : Nat → LRes) : Group :=
  (laneList ex).foldl (fun acc l => acc.laneDone wide d l (h l)) g
/-- What one lane of a V-form word computes. -/
def Group.laneRes (g : Group) (f : VForm) (u : VUse) (h : LaneFn) (l : Nat) : LRes :=
  h (g.opnd u.a f.a l) (g.opnd u.b f.b l) (g.opnd u.c f.c l) (g.opnd u.d f.d l) (g.rget l)
/-- A V-form word's group after it: h in each lane of the execution set, or k once (R338, R342). -/
def Group.runV (g : Group) (f : VForm) (u : VUse) (act : Lanes) (h k : LaneFn) : Group :=
  if f.uniform then
    let r := g.laneRes f u k 0
    (g.writeS (u.d == .w64) f.d r.val).orFst r.fl
  else g.vecDone (u.d == .w64) f.d (g.execSet f.g act) (g.laneRes f u h)
/-- A computing V-form word (R338). -/
def State.runV (s : State) (f : VForm) (u : VUse) (act : Lanes) (h k : LaneFn) : Res :=
  s.gate (f.regs u) (s.cg.runs f.uniform f.g act) (.done (s.setCg (s.cg.runV f u act h k)))

/-- Two sources of the type. -/
def VUse.bin (t : Ty) : VUse := { d := t.use, a := t.use, b := t.use }
def VUse.tern (t : Ty) : VUse := { d := t.use, a := t.use, b := t.use, c := t.use }
def VUse.un (t : Ty) : VUse := { d := t.use, a := t.use }

/-- A word all of whose elements are integers: no draw, no condition. -/
def State.runInt (s : State) (f : VForm) (u : VUse) (act : Lanes) (h : Nat → Nat → Nat → Nat) : Res :=
  s.runV f u act (intLane f.ty h) (intLane f.ty h)

/-! ## The I form (R369) -/

end Machine

/-- The registers an I-form word names. -/
def IForm.regs (f : IForm) (useA : Bool) : Regs := (f.d, 1) :: (if useA then [(f.a, 1)] else [])

namespace Machine

/-- A computing I-form word: 32 bits in each lane, or 64 bits once, from the width, a and the old d. -/
def Group.runI (g : Group) (f : IForm) (act : Lanes) (h : (w : Nat) → (a d : W64) → W64) : Group :=
  if isS f.d then g.writeS true f.d (h 64 (g.opnd .w64 f.a 0) (g.opnd .w64 f.d 0))
  else g.vecDone false f.d (g.execSet f.g act)
    (fun l => { val := h 32 (g.opnd .w32 f.a l) (g.opnd .w32 f.d l) })
def State.runI (s : State) (f : IForm) (useA : Bool) (act : Lanes) (h : (w : Nat) → (a d : W64) → W64) : Res :=
  s.gate (f.regs useA) (s.cg.runs (isS f.d) f.g act) (.done (s.setCg (s.cg.runI f act h)))

end Machine

/-- The signed value of the immediate (R369). -/
def IForm.sext (f : IForm) : W64 := f.imm.signExtend 64

end Sys2Proof
end

