-- ==== Sys2Proof/Machine/Arith.lean ====
section
/-! DEFINITION. The integer and bitwise instructions, PACK, UNPACK, and the immediate instructions
(R344 to R351, R364, R369, R370). Each op is the word over given active lanes, so that VXEC can issue it
over a word's holders; each exec is the word in the group's own stream. -/

namespace Sys2Proof.Machine

/-! ## Integer (R345 to R347) -/

def opIadd (f : VForm) (act : Lanes) (s : State) : Res :=
  s.runInt f (.bin f.ty) act (fun a b _ => a + b)
def opIsub (f : VForm) (act : Lanes) (s : State) : Res :=
  s.runInt f (.bin f.ty) act (fun a b _ => wrap f.ty.ew ((a : Int) - b))
def opImul (f : VForm) (act : Lanes) (s : State) : Res :=
  s.runInt f (.bin f.ty) act (fun a b _ => a * b)
/-- The element width of the type as an exact product's high half (R345). -/
def mulHigh (sg : Bool) (w a b : Nat) : Nat := wrap w (elInt sg w a * elInt sg w b / 2 ^ w)
def opImulh (f : VForm) (act : Lanes) (s : State) : Res :=
  s.runInt f (.bin f.ty) act (fun a b _ => mulHigh f.ty.isSigned f.ty.ew a b)
def opImad (f : VForm) (act : Lanes) (s : State) : Res :=
  s.runInt f (.tern f.ty) act (fun a b c => a * b + c)
def opImin (f : VForm) (act : Lanes) (s : State) : Res :=
  s.runInt f (.bin f.ty) act (fun a b _ =>
    if elInt f.ty.isSigned f.ty.ew a ≤ elInt f.ty.isSigned f.ty.ew b then a else b)
def opImax (f : VForm) (act : Lanes) (s : State) : Res :=
  s.runInt f (.bin f.ty) act (fun a b _ =>
    if elInt f.ty.isSigned f.ty.ew a ≤ elInt f.ty.isSigned f.ty.ew b then b else a)
/-- The comparisons of R346. -/
def icmp (cc : Nat) (a b : Int) : Bool :=
  match cc with
  | 0 => a == b
  | 1 => a != b
  | 2 => decide (a < b)
  | 3 => decide (a ≤ b)
  | 4 => decide (b < a)
  | _ => decide (b ≤ a)
def opIcmp (f : VForm) (act : Lanes) (s : State) : Res :=
  s.runInt f (.bin f.ty) act (fun a b _ =>
    allOr f.ty.ew (icmp f.c.toNat (elInt f.ty.isSigned f.ty.ew a) (elInt f.ty.isSigned f.ty.ew b)))
def opIsel (f : VForm) (act : Lanes) (s : State) : Res :=
  s.runInt f (.tern f.ty) act (fun a b c => if c != 0 then a else b)
/-- LEA: b is one 32-bit register, sign-extended for i64 (R347). -/
def leaVal (t : Ty) (sh : Nat) (a b : W64) : W64 :=
  let b32 := lo32 b
  if t == .i64 then a + (b32.signExtend 64 <<< sh)
  else if t == .n64 then a + (b32.setWidth 64 <<< sh)
  else (lo32 a + (b32 <<< sh)).setWidth 64
def opLea (f : VForm) (act : Lanes) (s : State) : Res :=
  let h : LaneFn := fun a b _ _ _ => { val := leaVal f.ty f.c.toNat a b }
  s.runV f { d := f.ty.use, a := f.ty.use, b := .w32 } act h h

/-! ## Bitwise and shifts (R348 to R351) -/

def opAndV (f : VForm) (act : Lanes) (s : State) : Res :=
  s.runInt f (.bin f.ty) act (fun a b _ => a &&& b)
def opOrV (f : VForm) (act : Lanes) (s : State) : Res :=
  s.runInt f (.bin f.ty) act (fun a b _ => a ||| b)
def opXorV (f : VForm) (act : Lanes) (s : State) : Res :=
  s.runInt f (.bin f.ty) act (fun a b _ => a ^^^ b)
def opAndn (f : VForm) (act : Lanes) (s : State) : Res :=
  s.runInt f (.bin f.ty) act (fun a b _ => a &&& (b ^^^ (2 ^ f.ty.ew - 1)))
/-- The shifts of R348: an amount of the width or more leaves 0, or the sign. -/
def shlN (w a n : Nat) : Nat := if w ≤ n then 0 else a * 2 ^ n
def shrN (w a n : Nat) : Nat := if w ≤ n then 0 else a / 2 ^ n
def sarN (w a n : Nat) : Nat := wrap w (sInt w a / 2 ^ min n w)
def opShl (f : VForm) (act : Lanes) (s : State) : Res :=
  s.runInt f (.bin f.ty) act (fun a b _ => shlN f.ty.ew a b)
def opShr (f : VForm) (act : Lanes) (s : State) : Res :=
  s.runInt f (.bin f.ty) act (fun a b _ => shrN f.ty.ew a b)
def opSar (f : VForm) (act : Lanes) (s : State) : Res :=
  s.runInt f (.bin f.ty) act (fun a b _ => sarN f.ty.ew a b)
/-- BFE (R349). -/
def bfeN (sg : Bool) (w a ctl : Nat) : Nat :=
  let p := bits ctl 0 8
  let n := min (bits ctl 8 8) w
  if n = 0 then 0
  else
    let x := bits a p n
    if sg then wrap w (sInt n x) else x
def opBfe (f : VForm) (act : Lanes) (s : State) : Res :=
  s.runInt f (.bin f.ty) act (fun a b _ => bfeN f.ty.isSigned f.ty.ew a b)
/-- BFI (R349). -/
def bfiN (w a b ctl : Nat) : Nat :=
  let p := bits ctl 0 8
  let n := min (min (bits ctl 8 8) w) (w - p)
  b / 2 ^ (p + n) * 2 ^ (p + n) + bits a 0 n * 2 ^ p + b % 2 ^ p
def opBfi (f : VForm) (act : Lanes) (s : State) : Res :=
  s.runInt f (.tern f.ty) act (fun a b c => if f.ty.ew ≤ bits c 0 8 then b else bfiN f.ty.ew a b c)
/-- Counting and reversing (R350). -/
def popN (w a : Nat) : Nat := ((upto w).filter (bitOf a)).length
def clzN (w a : Nat) : Nat := if a = 0 then w else w - 1 - a.log2
def brevN (w a : Nat) : Nat := (upto w).foldl (fun acc i => if bitOf a i then acc + 2 ^ (w - 1 - i) else acc) 0
def opPopc (f : VForm) (act : Lanes) (s : State) : Res :=
  s.runInt f (.un f.ty) act (fun a _ _ => popN f.ty.ew a)
def opClz (f : VForm) (act : Lanes) (s : State) : Res :=
  s.runInt f (.un f.ty) act (fun a _ _ => clzN f.ty.ew a)
def opBrev (f : VForm) (act : Lanes) (s : State) : Res :=
  s.runInt f (.un f.ty) act (fun a _ _ => brevN f.ty.ew a)
/-- IDP4: c and d are whole 32-bit registers (R351). -/
def idp4Val (sg : Bool) (a b c : W64) : W64 :=
  let dot := (upto 4).foldl (fun (acc : Int) e => acc + elInt sg 8 (elemOf 8 e a) * elInt sg 8 (elemOf 8 e b)) 0
  BitVec.ofNat 64 (wrap 32 ((lo32 c).toNat + dot))
def opIdp4 (f : VForm) (act : Lanes) (s : State) : Res :=
  let h : LaneFn := fun a b c _ _ => { val := idp4Val f.ty.isSigned a b c }
  s.runV f (.tern .i32) act h h

/-! ## Pack and unpack (R364) -/

/-- An integer saturated to a range. -/
def satInt (lo hi x : Int) : Int := max lo (min hi x)
def packVal (k : Nat) (a b : W64) : W64 :=
  let half (x : W64) (e : Nat) : Nat := elemOf 16 e x
  let sat (x : W64) : Nat :=
    let v := sInt 32 (lo32 x).toNat
    wrap 16 (if k = 2 then satInt (-32768) 32767 v else satInt 0 65535 v)
  BitVec.ofNat 64 (match k with
    | 0 => half a 0 + half b 0 * 2 ^ 16
    | 1 => half a 1 + half b 1 * 2 ^ 16
    | _ => sat a + sat b * 2 ^ 16)
def opPack (f : VForm) (act : Lanes) (s : State) : Res :=
  let h : LaneFn := fun a b _ _ _ => { val := packVal f.c.toNat a b }
  s.runV f (.bin .n32) act h h
def unpackVal (k : BitVec 8) (a : W64) : W64 :=
  let w := if cvtFm k ≤ 9 then 16 else 8
  let x := elemOf w (cvtEl k) a
  BitVec.ofNat 64 (if cvtFm k % 2 = 0 then wrap 32 (sInt w x) else x)
def opUnpack (f : VForm) (act : Lanes) (s : State) : Res :=
  let h : LaneFn := fun a _ _ _ _ => { val := unpackVal f.c a }
  s.runV f (.un .i32) act h h

/-! ## Immediates (R369, R370) -/

def opMovi (f : IForm) (act : Lanes) (s : State) : Res := s.runI f false act (fun _ _ _ => f.sext)
/-- MOVIH writes the odd register of the pair, or the high half (R369). -/
def opMovih (f : IForm) (act : Lanes) (s : State) : Res :=
  if isS f.d then s.runI f false act (fun _ _ d => join64 (lo32 d) f.imm)
  else s.runI { f with d := f.d + 1 } false act (fun _ _ _ => f.imm.setWidth 64)
def opIaddi (f : IForm) (act : Lanes) (s : State) : Res := s.runI f true act (fun _ a _ => a + f.sext)
def opAndi (f : IForm) (act : Lanes) (s : State) : Res := s.runI f true act (fun _ a _ => a &&& f.sext)
def opOri (f : IForm) (act : Lanes) (s : State) : Res := s.runI f true act (fun _ a _ => a ||| f.sext)
def opXori (f : IForm) (act : Lanes) (s : State) : Res := s.runI f true act (fun _ a _ => a ^^^ f.sext)
/-- SHLI by its kind (R370). -/
def shiVal (w : Nat) (imm : W32) (a : W64) : W64 :=
  let n := bits imm.toNat 0 6
  let x := a.toNat % 2 ^ w
  BitVec.ofNat 64 (match bits imm.toNat 6 2 with
    | 0 => shlN w x n
    | 1 => shrN w x n
    | _ => sarN w x n)
def opShli (f : IForm) (act : Lanes) (s : State) : Res := s.runI f true act (fun w a _ => shiVal w f.imm a)
/-- ICMPI: cc 6 to 9 are LT, LE, GT and GE unsigned (R370). -/
def icmpiVal (w : Nat) (imm : W32) (a : W64) : W64 :=
  let cc := bits imm.toNat 28 4
  let v := sInt 28 (bits imm.toNat 0 28)
  let x := a.toNat % 2 ^ w
  BitVec.ofNat 64 (allOr w (if 6 ≤ cc then icmp (cc - 4) x (wrap w v) else icmp cc (sInt w x) v))
def opIcmpi (f : IForm) (act : Lanes) (s : State) : Res := s.runI f true act (fun w a _ => icmpiVal w f.imm a)
def opFmovi (f : IForm) (act : Lanes) (s : State) : Res := s.runI f false act (fun _ _ _ => f.imm.setWidth 64)
/-- LEAI: the address of this word plus 8 × IMM (R369). -/
def opLeai (f : IForm) (act : Lanes) (s : State) : Res :=
  s.runI f false act (fun _ _ _ => s.cg.addr + (f.sext <<< 3))

/-! ## The words -/

def execIadd (f : VForm) (s : State) : Host.Outcome State Fault Refusal :=
  .next (Res.retire f.sp (opIadd f s.cg.active s))
def execIsub (f : VForm) (s : State) : Host.Outcome State Fault Refusal :=
  .next (Res.retire f.sp (opIsub f s.cg.active s))
def execImul (f : VForm) (s : State) : Host.Outcome State Fault Refusal :=
  .next (Res.retire f.sp (opImul f s.cg.active s))
def execImulh (f : VForm) (s : State) : Host.Outcome State Fault Refusal :=
  .next (Res.retire f.sp (opImulh f s.cg.active s))
def execImad (f : VForm) (s : State) : Host.Outcome State Fault Refusal :=
  .next (Res.retire f.sp (opImad f s.cg.active s))
def execImin (f : VForm) (s : State) : Host.Outcome State Fault Refusal :=
  .next (Res.retire f.sp (opImin f s.cg.active s))
def execImax (f : VForm) (s : State) : Host.Outcome State Fault Refusal :=
  .next (Res.retire f.sp (opImax f s.cg.active s))
def execIcmp (f : VForm) (s : State) : Host.Outcome State Fault Refusal :=
  .next (Res.retire f.sp (opIcmp f s.cg.active s))
def execIsel (f : VForm) (s : State) : Host.Outcome State Fault Refusal :=
  .next (Res.retire f.sp (opIsel f s.cg.active s))
def execLea (f : VForm) (s : State) : Host.Outcome State Fault Refusal :=
  .next (Res.retire f.sp (opLea f s.cg.active s))
def execAndV (f : VForm) (s : State) : Host.Outcome State Fault Refusal :=
  .next (Res.retire f.sp (opAndV f s.cg.active s))
def execOrV (f : VForm) (s : State) : Host.Outcome State Fault Refusal :=
  .next (Res.retire f.sp (opOrV f s.cg.active s))
def execXorV (f : VForm) (s : State) : Host.Outcome State Fault Refusal :=
  .next (Res.retire f.sp (opXorV f s.cg.active s))
def execAndn (f : VForm) (s : State) : Host.Outcome State Fault Refusal :=
  .next (Res.retire f.sp (opAndn f s.cg.active s))
def execShl (f : VForm) (s : State) : Host.Outcome State Fault Refusal :=
  .next (Res.retire f.sp (opShl f s.cg.active s))
def execShr (f : VForm) (s : State) : Host.Outcome State Fault Refusal :=
  .next (Res.retire f.sp (opShr f s.cg.active s))
def execSar (f : VForm) (s : State) : Host.Outcome State Fault Refusal :=
  .next (Res.retire f.sp (opSar f s.cg.active s))
def execBfe (f : VForm) (s : State) : Host.Outcome State Fault Refusal :=
  .next (Res.retire f.sp (opBfe f s.cg.active s))
def execBfi (f : VForm) (s : State) : Host.Outcome State Fault Refusal :=
  .next (Res.retire f.sp (opBfi f s.cg.active s))
def execPopc (f : VForm) (s : State) : Host.Outcome State Fault Refusal :=
  .next (Res.retire f.sp (opPopc f s.cg.active s))
def execClz (f : VForm) (s : State) : Host.Outcome State Fault Refusal :=
  .next (Res.retire f.sp (opClz f s.cg.active s))
def execBrev (f : VForm) (s : State) : Host.Outcome State Fault Refusal :=
  .next (Res.retire f.sp (opBrev f s.cg.active s))
def execIdp4 (f : VForm) (s : State) : Host.Outcome State Fault Refusal :=
  .next (Res.retire f.sp (opIdp4 f s.cg.active s))
def execPack (f : VForm) (s : State) : Host.Outcome State Fault Refusal :=
  .next (Res.retire f.sp (opPack f s.cg.active s))
def execUnpack (f : VForm) (s : State) : Host.Outcome State Fault Refusal :=
  .next (Res.retire f.sp (opUnpack f s.cg.active s))
def execMovi (f : IForm) (s : State) : Host.Outcome State Fault Refusal :=
  .next (Res.retire f.sp (opMovi f s.cg.active s))
def execMovih (f : IForm) (s : State) : Host.Outcome State Fault Refusal :=
  .next (Res.retire f.sp (opMovih f s.cg.active s))
def execIaddi (f : IForm) (s : State) : Host.Outcome State Fault Refusal :=
  .next (Res.retire f.sp (opIaddi f s.cg.active s))
def execAndi (f : IForm) (s : State) : Host.Outcome State Fault Refusal :=
  .next (Res.retire f.sp (opAndi f s.cg.active s))
def execOri (f : IForm) (s : State) : Host.Outcome State Fault Refusal :=
  .next (Res.retire f.sp (opOri f s.cg.active s))
def execXori (f : IForm) (s : State) : Host.Outcome State Fault Refusal :=
  .next (Res.retire f.sp (opXori f s.cg.active s))
def execShli (f : IForm) (s : State) : Host.Outcome State Fault Refusal :=
  .next (Res.retire f.sp (opShli f s.cg.active s))
def execIcmpi (f : IForm) (s : State) : Host.Outcome State Fault Refusal :=
  .next (Res.retire f.sp (opIcmpi f s.cg.active s))
def execFmovi (f : IForm) (s : State) : Host.Outcome State Fault Refusal :=
  .next (Res.retire f.sp (opFmovi f s.cg.active s))
def execLeai (f : IForm) (s : State) : Host.Outcome State Fault Refusal :=
  .next (Res.retire f.sp (opLeai f s.cg.active s))

end Sys2Proof.Machine
end

