-- ==== Sys2Proof/Machine/Special.lean ====
section
/-! DEFINITION. The approximated special functions (R359, R360): each result is one Config gives, kept to
the bound of R359; where what Config gives lies outside the bound, the nearest value stands in its place.
The bounds are judged against a fixed-point value of the function that is far finer than any bound. -/

namespace Sys2Proof.Machine

/-! ## Fixed point, 200 fraction bits -/

def fpOne : Int := 2 ^ 200
def fpMul (a b : Int) : Int := a * b / fpOne
def fpDiv (a b : Int) : Int := a * fpOne / b
/-- m × 2^e in fixed point. -/
def fpOf (neg : Bool) (m : Nat) (e : Int) : Int :=
  let x : Int := if 0 ≤ e + 200 then m * 2 ^ (e + 200).toNat else m / 2 ^ (-(e + 200)).toNat
  if neg then -x else x

/-- Terms of a power series: term k + 1 is term k times x, divided by d k. -/
def fpSeries (x : Int) (d : Nat → Int) : Nat → Nat → Int → Int
  | 0, _, _ => 0
  | n + 1, k, term => term + fpSeries x d n (k + 1) (fpMul term x / d k)
/-- e^x for 0 ≤ x < 1. -/
def fpExp (x : Int) : Int := fpSeries x (fun k => k + 1) 60 0 fpOne
/-- atanh x for 0 ≤ x ≤ 1/3, and arctan of 1/n. -/
def fpAtanh (x : Int) : Int :=
  let x2 := fpMul x x
  ((upto 70).foldl (fun (acc : Int × Int) (k : Nat) => (acc.1 + acc.2 / ((2 * k + 1 : Nat) : Int), fpMul acc.2 x2)) (0, x)).1
def fpAtanInv (n : Nat) : Int :=
  ((upto 90).foldl (fun (acc : Int × Int) (k : Nat) =>
    (if k % 2 = 0 then acc.1 + acc.2 / ((2 * k + 1 : Nat) : Int) else acc.1 - acc.2 / ((2 * k + 1 : Nat) : Int), acc.2 / ((n * n : Nat) : Int)))
    (0, fpOne / n)).1
def fpPi : Int := 4 * (4 * fpAtanInv 5 - fpAtanInv 239)
def fpLn2 : Int := 2 * fpAtanh (fpOne / 3)
/-- sin x and cos x for |x| ≤ 4. -/
def fpSin (x : Int) : Int := fpMul x (fpSeries (-(fpMul x x)) (fun k => (2 * k + 2) * (2 * k + 3)) 50 0 fpOne)
def fpCos (x : Int) : Int := fpSeries (-(fpMul x x)) (fun k => (2 * k + 1) * (2 * k + 2)) 50 0 fpOne

/-! ## The functions: the value as m × 2^e with its sign -/

/-- A fixed-point number times 2^n as a value. -/
def fpVal (x : Int) (n : Int) : FVal := .fin (decide (x < 0)) x.natAbs (n - 200)
/-- 2^x. -/
def valExp2 (x : Int) : FVal :=
  let n := x / fpOne
  fpVal (fpExp (fpMul (x % fpOne) fpLn2)) n
/-- log2 of m × 2^e. -/
def valLog2 (m : Nat) (e : Int) : FVal :=
  let k : Int := m.log2
  let f := fpOf false m (-k)
  fpVal ((k + e) * fpOne + fpDiv (2 * fpAtanh (fpDiv (f - fpOne) (f + fpOne))) fpLn2) 0
/-- x modulo 2π. -/
def fpTurn (x : Int) : Int :=
  let r := x % (2 * fpPi)
  if fpPi < r then r - 2 * fpPi else r
/-- tanh x for 0 < x. -/
def valTanh (neg : Bool) (m : Nat) (e : Int) : FVal :=
  if magLog m e < -60 then .fin neg m e
  else
    let t := 2 * fpOf false m e
    let q := fpDiv t fpLn2
    let ex := fpExp (fpMul (q % fpOne) fpLn2) * 2 ^ (q / fpOne).toNat
    let r := fpDiv (ex - fpOne) (ex + fpOne)
    .fin neg r.natAbs (-200)

/-! ## The bounds -/

/-- The exponent of ulp(y): max(⌊log2 |y|⌋, −126) − 23 (R359). -/
def ulpExp (m : Nat) (e : Int) : Int := max (magLog m e) (-126) - 23
/-- |c − y| ≤ b × 2^be, with 2^−40 of the bound allowed for the fixed point. -/
def nearBy (c y : FVal) (b : Nat) (be : Int) : Bool :=
  match c, y with
  | .fin .., .fin .. =>
    let e := min (min c.exp y.exp) (be - 40)
    decide ((c.at e - y.at e).natAbs ≤ b * 2 ^ (be - e).toNat + 2 ^ (be - 40 - e).toNat)
  | _, _ => false
/-- A value Config gives when the test allows it, else the nearest f32. -/
def approx (fn : Nat) (x : Nat) (y : FVal) (ok : FVal → Bool) : Nat :=
  let c := (Config.special fn (BitVec.ofNat 32 x)).toNat
  if ok (f32.val c) then c else (f32.convert rmNear 0 y).bits
/-- The conditions of an approximation: inexact, and underflow when the exact value is tiny (R340, R359). -/
def approxFl (y : FVal) : Fl :=
  match y with
  | .fin _ m e => fNX ||| flIf (m != 0 && decide (magLog m e < -126)) fUF
  | _ => fNX
/-- A result within n ulp of y (R359); beyond the largest finite value it overflows. -/
def approxUlp (fn x n : Nat) (sat : Bool) (y : FVal) : FRes :=
  match y with
  | .fin neg m e =>
    if 128 ≤ magLog m e then
      { bits := if sat then f32.signed neg f32.maxBits else f32.infBits neg, fl := fOF ||| fNX }
    else { bits := approx fn x y (fun c => nearBy c y n (ulpExp m e)), fl := approxFl y }
  | _ => { bits := f32.nanBits }
/-- A result within an absolute bound b × 2^be, and of magnitude at most one when asked. -/
def approxAbs (fn x b : Nat) (be : Int) (unit : Bool) (y : FVal) : FRes :=
  { bits := approx fn x y (fun c => nearBy c y b be && (!unit || !magLt 1 0 (match c with | .fin _ m _ => m | _ => 0) c.exp)),
    fl := approxFl y }

def nanIv : FRes := { bits := f32.nanBits, fl := fIV }
def zeroOf (neg : Bool) : FRes := { bits := f32.signed neg 0 }

/-- FRCP: 1 ÷ x within one ulp (R359, R360). The quotient is taken to 300 bits. -/
def fnRcp (sat : Bool) (x : Nat) : FRes :=
  match f32.val x with
  | .nan => { bits := f32.nanBits }
  | .inf n => zeroOf n
  | .fin n m e =>
    if m = 0 then { bits := f32.infBits n, fl := fDZ }
    else approxUlp 0 x 1 sat (.fin n (2 ^ 300 / m) (-300 - e))
/-- FRSQ: 1 ÷ √x within two ulp. -/
def fnRsq (x : Nat) : FRes :=
  match f32.val x with
  | .nan => { bits := f32.nanBits }
  | .inf n => if n then nanIv else zeroOf false
  | .fin n m e =>
    if m = 0 then { bits := f32.infBits n, fl := fDZ }
    else if n then nanIv
    else
      let (r, q) := sqrtMag m e
      approxUlp 1 x 2 false (.fin false (2 ^ 400 / r) (-400 - q))
/-- FEXP2: exact for an integer from −149 to 127, within two ulp elsewhere. -/
def fnExp2 (sat : Bool) (x : Nat) : FRes :=
  match f32.val x with
  | .nan => { bits := f32.nanBits }
  | .inf n => if n then zeroOf false else { bits := f32.infBits false }
  | .fin n m e =>
    if m = 0 then { bits := 127 * 2 ^ 23 }
    else
      let big := !magLt m e 256 0
      if big then
        (if n then { bits := 0, fl := fUF ||| fNX }
         else { bits := if sat then f32.maxBits else f32.infBits false, fl := fOF ||| fNX })
      else
        let fx := fpOf n m e
        let int := (splitAt m e 0).2.1 == 0
        let v := fx / fpOne
        if int && decide (-149 ≤ v) && decide (v ≤ 127) then { bits := (f32.convert rmNear 0 (.fin false 1 v)).bits }
        else if fx < -150 * fpOne then { bits := 0, fl := fUF ||| fNX }
        else approxUlp 2 x 2 sat (valExp2 fx)
/-- FLOG2: exact for a power of two; absolute bound from 0.5 to 2, two ulp elsewhere. -/
def fnLog2 (x : Nat) : FRes :=
  match f32.val x with
  | .nan => { bits := f32.nanBits }
  | .inf n => if n then nanIv else { bits := f32.infBits false }
  | .fin n m e =>
    if m = 0 then { bits := f32.infBits true, fl := fDZ }
    else if n then nanIv
    else if m = 2 ^ m.log2 then f32.convert rmNear 0 (ofInt (magLog m e))
    else
      let y := valLog2 m e
      if !magLt m e 1 (-1) && !magLt 2 0 m e then approxAbs 3 x 1 (-22) false y
      else approxUlp 3 x 2 false y
/-- The bound of FSIN and FCOS: 2^−21, or 2^−21 × |x| ÷ 32π beyond 32π, as a count of 2^−200. -/
def trigBound (m : Nat) (e : Int) : Nat :=
  let x := fpOf false m e
  if x ≤ 32 * fpPi then 2 ^ 179 else (fpDiv x (32 * fpPi)).natAbs / 2 ^ 21
/-- FSIN and FCOS, never outside −1 to 1. -/
def fnTrig (cos : Bool) (x : Nat) : FRes :=
  match f32.val x with
  | .nan => { bits := f32.nanBits }
  | .inf _ => nanIv
  | .fin n m e =>
    if m = 0 then (if cos then { bits := 127 * 2 ^ 23 } else zeroOf n)
    else
      let r := fpTurn (fpOf n m e)
      let y := if cos then fpVal (fpCos r) 0 else if magLog m e < -60 then .fin n m e else fpVal (fpSin r) 0
      approxAbs (if cos then 5 else 4) x (trigBound m e) (-200) true y
/-- FTANH: absolute bound below 1, two ulp elsewhere, ±1 from 9 on. -/
def fnTanh (x : Nat) : FRes :=
  match f32.val x with
  | .nan => { bits := f32.nanBits }
  | .inf n => { bits := f32.signed n (127 * 2 ^ 23) }
  | .fin n m e =>
    if m = 0 then zeroOf n
    else if !magLt m e 9 0 then { bits := f32.signed n (127 * 2 ^ 23) }
    else if magLt m e 1 0 then approxAbs 6 x 1 (-22) false (valTanh n m e)
    else approxUlp 6 x 2 false (valTanh n m e)

end Sys2Proof.Machine
end

