-- ==== Sys2Proof/Machine/FloatOps.lean ====
section
/-! DEFINITION. The floating-point instructions, the special functions, CVT, RAND and MOV
(R352 to R363, R365, R367). -/

namespace Sys2Proof.Machine

/-- The exponent DSC adds to the exact result (R309). -/
def dscExp (d : Dsc) : Int :=
  match d with
  | .one => 0 | .x2 => 1 | .x4 => 2 | .x8 => 3 | .d2 => -1 | .d4 => -2 | .d8 => -3

/-- One rounded element: the exact value and whether it is invalid, scaled, rounded once and clamped (R353). -/
def roundEl (F : Fmt) (rm : Rm) (u : Nat) (dsc : Dsc) (clamp : Bool) (v : FVal × Bool) : FRes :=
  let r := F.arith rm u (dscExp dsc) v.1
  { bits := if clamp then F.clamp r.bits else r.bits, fl := r.fl ||| flIf v.2 fIV }

/-- The modified sources of an element as values (R353). -/
def srcA (f : VForm) (F : Fmt) (x : Nat) : FVal := F.val (F.srcMod x f.na f.aa)
def srcB (f : VForm) (F : Fmt) (x : Nat) : FVal := F.val (F.srcMod x f.nb f.ab)
def srcC (f : VForm) (F : Fmt) (x : Nat) : FVal := F.val (F.srcMod x f.nc f.ac)
/-- A value with its sign turned. -/
def FVal.negate : FVal → FVal
  | .nan => .nan
  | .inf n => .inf (!n)
  | .fin n m e => .fin (!n) m e
/-- The exact sum of a product and an addend (R354). -/
def mulAdd (a b c : FVal) : FVal × Bool :=
  let p := a.mul b
  let t := fsum [p.1, c]
  (t.1, p.2 || t.2)

/-- A word whose elements are each rounded once under the field of its type (R353); the uniform form
rounds to nearest-even where the field is stochastic (R342). -/
def State.runFloat (s : State) (f : VForm) (u : VUse) (act : Lanes) (v : Nat → Nat → Nat → FVal × Bool) : Res :=
  let F := f.ty.fmt
  let rm := s.cg.rmOf F
  let h (rm : Rm) : LaneFn := floatLane f.ty rm (fun d a b c => roundEl F rm d f.dsc f.clamp (v a b c))
  s.runV f u act (h rm) (h rm.uniform)
/-- A word whose elements are found exactly, with no condition (R340). -/
def State.runExact (s : State) (f : VForm) (u : VUse) (act : Lanes) (h : Nat → Nat → Nat → Nat) : Res :=
  s.runV f u act (intLane f.ty h) (intLane f.ty h)

def opFadd (f : VForm) (act : Lanes) (s : State) : Res :=
  s.runFloat f (.bin f.ty) act (fun a b _ => fsum [srcA f f.ty.fmt a, srcB f f.ty.fmt b])
def opFsub (f : VForm) (act : Lanes) (s : State) : Res :=
  s.runFloat f (.bin f.ty) act (fun a b _ => fsum [srcA f f.ty.fmt a, (srcB f f.ty.fmt b).negate])
def opFmul (f : VForm) (act : Lanes) (s : State) : Res :=
  s.runFloat f (.bin f.ty) act (fun a b _ => (srcA f f.ty.fmt a).mul (srcB f f.ty.fmt b))
def opFfma (f : VForm) (act : Lanes) (s : State) : Res :=
  s.runFloat f (.tern f.ty) act
    (fun a b c => mulAdd (srcA f f.ty.fmt a) (srcB f f.ty.fmt b) (srcC f f.ty.fmt c))

/-- FDP2's exact sum of two products and c (R355). -/
def dot2 (f : VForm) (a b c : W64) : FVal × Bool :=
  let F := f.ty.fmt
  let p0 := (srcA f F (elemOf 16 0 a)).mul (srcB f F (elemOf 16 0 b))
  let p1 := (srcA f F (elemOf 16 1 a)).mul (srcB f F (elemOf 16 1 b))
  let t := fsum [p0.1, p1.1, srcC f f32 (elemOf 32 0 c)]
  (t.1, p0.2 || p1.2 || t.2)
/-- One value rounded once into one register, with a draw of its own. -/
def oneLane (rm : Rm) (h : (u : Nat) → W64 → W64 → W64 → FRes) : LaneFn := fun a b c _ x =>
  let d := drawOf rm none x
  let r := h d.1 a b c
  { val := BitVec.ofNat 64 r.bits, fl := r.fl, rng := d.2 }
def opFdp2 (f : VForm) (act : Lanes) (s : State) : Res :=
  let rm := s.cg.rmOf f32
  let h (rm : Rm) : LaneFn := oneLane rm (fun u a b c => roundEl f32 rm u f.dsc f.clamp (dot2 f a b c))
  s.runV f (.tern .f32) act (h rm) (h rm.uniform)

def opFmin (f : VForm) (act : Lanes) (s : State) : Res :=
  s.runExact f (.bin f.ty) act (fun a b _ =>
    f.ty.fmt.minmax false (f.ty.fmt.srcMod a f.na f.aa) (f.ty.fmt.srcMod b f.nb f.ab))
def opFmax (f : VForm) (act : Lanes) (s : State) : Res :=
  s.runExact f (.bin f.ty) act (fun a b _ =>
    f.ty.fmt.minmax true (f.ty.fmt.srcMod a f.na f.aa) (f.ty.fmt.srcMod b f.nb f.ab))
def opFcmp (f : VForm) (act : Lanes) (s : State) : Res :=
  s.runExact f (.bin f.ty) act (fun a b _ =>
    allOr f.ty.ew (fcmp f.c.toNat (srcA f f.ty.fmt a) (srcB f f.ty.fmt b)))
/-- FSEL: with a modifier in the word a NaN becomes canonical (R357). -/
def fselEl (f : VForm) (F : Fmt) (a b c : Nat) : Nat :=
  let x := if c != 0 then F.srcMod a f.na f.aa else F.srcMod b f.nb f.ab
  if (f.na || f.aa || f.nb || f.ab) && (F.val x).isNan then F.nanBits else x
def opFsel (f : VForm) (act : Lanes) (s : State) : Res :=
  s.runExact f (.tern f.ty) act (fun a b c => fselEl f f.ty.fmt a b c)
def opFrnd (f : VForm) (act : Lanes) (s : State) : Res :=
  s.runExact f (.un f.ty) act (fun a _ _ => f.ty.fmt.rnd f.c.toNat (f.ty.fmt.srcMod a f.na f.aa))
def opFclass (f : VForm) (act : Lanes) (s : State) : Res :=
  s.runExact f (.un f.ty) act (fun a _ _ => f.ty.fmt.classify a)

/-! ## Special functions (R359, R360) -/

/-- An approximation: modifiers before, CLAMP after (R360). -/
def State.runApprox (s : State) (f : VForm) (act : Lanes) (fn : Nat → FRes) : Res :=
  let h : LaneFn := fun a _ _ _ _ =>
    let r := fn (f32.srcMod (elemOf 32 0 a) f.na f.aa)
    { val := BitVec.ofNat 64 (if f.clamp then f32.clamp r.bits else r.bits), fl := r.fl }
  s.runV f (.un .f32) act h h
def opFrcp (f : VForm) (act : Lanes) (s : State) : Res := s.runApprox f act (fnRcp (s.cg.rmOf f32).sat)
def opFrsq (f : VForm) (act : Lanes) (s : State) : Res := s.runApprox f act fnRsq
def opFsqrt (f : VForm) (act : Lanes) (s : State) : Res :=
  s.runFloat f (.un .f32) act (fun a _ _ => (srcA f f32 a).sqrt)
def opFexp2 (f : VForm) (act : Lanes) (s : State) : Res := s.runApprox f act (fnExp2 (s.cg.rmOf f32).sat)
def opFlog2 (f : VForm) (act : Lanes) (s : State) : Res := s.runApprox f act fnLog2
def opFsin (f : VForm) (act : Lanes) (s : State) : Res := s.runApprox f act (fnTrig false)
def opFcos (f : VForm) (act : Lanes) (s : State) : Res := s.runApprox f act (fnTrig true)
def opFtanh (f : VForm) (act : Lanes) (s : State) : Res := s.runApprox f act fnTanh

/-! ## CVT (R362, R363) -/

/-- What a conversion format code names: an integer of a width and signedness, or a floating format. -/
inductive CvtFmt where
  | int (w : Nat) (sg : Bool)
  | flt (F : Fmt)
  deriving DecidableEq, Repr
def cvtFmt (fm : Nat) : CvtFmt :=
  match fm with
  | 0 => .int 32 true | 1 => .int 32 false | 2 => .int 64 true | 3 => .int 64 false
  | 4 => .flt f32 | 5 => .flt f64 | 6 => .flt f16 | 7 => .flt bf16
  | 8 => .int 16 true | 9 => .int 16 false | 10 => .int 8 true | 11 => .int 8 false
  | 12 => .flt e4m3 | 13 => .flt e5m2 | _ => .flt e2m1
/-- Bits of one element of a format. -/
def CvtFmt.width : CvtFmt → Nat
  | .int w _ => w
  | .flt F => F.width
/-- The format code of a TYPE (R362). -/
def tyFm (t : Ty) : Nat :=
  match t with
  | .i32 => 0 | .n32 => 1 | .i64 => 2 | .n64 => 3 | .f64 => 5 | _ => 4
/-- A format code held in 64 bits. -/
def fmUse (fm : Nat) : Use := if fm == 2 || fm == 3 || fm == 5 then .w64 else .w32

/-- The rule a conversion rounds under: the destination's field, or IRND for an integer (R276, R280). -/
def Group.cvtRm (g : Group) (src dst : CvtFmt) : Rm :=
  match src, dst with
  | .int .., .int .. => rmNear
  | .flt _, .int .. => { rnd := bits g.mode.toNat 21 2, sat := false }
  | _, .flt F => g.rmOf F
/-- One conversion (R363). -/
def cvtEl1 (src dst : CvtFmt) (rm : Rm) (u : Nat) (x : Nat) : FRes :=
  match src, dst with
  | .int w sg, .int w' sg' =>
    let hi : Int := if sg' then 2 ^ (w' - 1) - 1 else 2 ^ w' - 1
    let lo : Int := if sg' then -(2 ^ (w' - 1)) else 0
    { bits := wrap w' (satInt lo hi (elInt sg w x)) }
  | .int w sg, .flt F => F.convert rm u (ofInt (elInt sg w x))
  | .flt F, .int w' sg' =>
    let hi : Int := if sg' then 2 ^ (w' - 1) - 1 else 2 ^ w' - 1
    let lo : Int := if sg' then -(2 ^ (w' - 1)) else 0
    let r := toInt rm.rnd u lo hi (F.val x)
    { bits := wrap w' r.1, fl := r.2 }
  | .flt F, .flt F' =>
    if F = F' then { bits := if (F.val x).isNan then F.nanBits else x }
    else F'.convert rm u (F.val x)

/-- What CVT computes in a lane, by its selector (R362). -/
def cvtLane (t : Ty) (k : BitVec 8) (rm : Rm) : LaneFn := fun a b _ d x =>
  let ty := cvtFmt (tyFm t)
  let fm := cvtFmt (cvtFm k)
  let w := fm.width
  let el := cvtEl k
  if !cvtDir k then
    let dr := drawOf rm none x
    let r := cvtEl1 fm ty rm dr.1 (elemOf w el a)
    { val := BitVec.ofNat 64 r.bits, fl := r.fl, rng := dr.2 }
  else if cvtFm k ≤ 5 then
    let dr := drawOf rm none x
    let r := cvtEl1 ty fm rm dr.1 (elemOf ty.width 0 a)
    { val := BitVec.ofNat 64 r.bits, fl := r.fl, rng := dr.2 }
  else if cvtPair k then
    let d0 := drawOf rm none x
    let r0 := cvtEl1 ty fm rm d0.1 (elemOf ty.width 0 a)
    let d1 := drawOf rm d0.2 x
    let r1 := cvtEl1 ty fm rm d1.1 (elemOf ty.width 0 b)
    { val := BitVec.ofNat 64 (r0.bits + r1.bits * 2 ^ 16), fl := r0.fl ||| r1.fl, rng := d1.2 }
  else
    let dr := drawOf rm none x
    let r := cvtEl1 ty fm rm dr.1 (elemOf ty.width 0 a)
    let old := (lo32 d).toNat
    { val := BitVec.ofNat 64 (old / 2 ^ (w * el + w) * 2 ^ (w * el + w) + r.bits * 2 ^ (w * el) + old % 2 ^ (w * el)),
      fl := r.fl, rng := dr.2 }
/-- The registers CVT uses: FM's width at one end and TYPE's at the other; b in the pair form. -/
def cvtUse (t : Ty) (k : BitVec 8) : VUse :=
  if cvtDir k then { d := fmUse (cvtFm k), a := t.use, b := if cvtPair k then t.use else .no }
  else { d := t.use, a := fmUse (cvtFm k) }
/-- An integer destination draws only under a stochastic IRND; an integer to an integer never. -/
def Group.cvtRule (g : Group) (t : Ty) (k : BitVec 8) : Rm :=
  if cvtDir k then g.cvtRm (cvtFmt (tyFm t)) (cvtFmt (cvtFm k)) else g.cvtRm (cvtFmt (cvtFm k)) (cvtFmt (tyFm t))
def opCvt (f : VForm) (act : Lanes) (s : State) : Res :=
  let rm := s.cg.cvtRule f.ty f.c
  s.runV f (cvtUse f.ty f.c) act (cvtLane f.ty f.c rm) (cvtLane f.ty f.c rm.uniform)

/-! ## RAND and MOV -/

/-- RAND: n32 takes the upper half of the output, f32 its upper 24 bits times 2^−24 (R367). -/
def randVal (t : Ty) (u : Nat) : Nat := if t == .f32 then (f32.convert rmNear 0 (.fin false (u / 256) (-24))).bits else u
def opRand (f : VForm) (act : Lanes) (s : State) : Res :=
  let h : LaneFn := fun _ _ _ _ x => let r := rngDraw x; { val := BitVec.ofNat 64 (randVal f.ty r.2), rng := some r.1 }
  s.runV f { d := .w32, a := .no } act h h

/-- MOV: bits unchanged, or with any modifier a rounded copy (R365). -/
def opMov (f : VForm) (act : Lanes) (s : State) : Res :=
  if f.noMods then
    let h : LaneFn := fun a _ _ _ _ => { val := a }
    s.runV f (.un f.ty) act h h
  else s.runFloat f (.un f.ty) act (fun a _ _ => (srcA f f.ty.fmt a, false))

/-! ## The words -/

def execFdp2 (f : VForm) (s : State) : Host.Outcome State Fault Refusal :=
  .next (Res.retire f.sp (opFdp2 f s.cg.active s))
def execFadd (f : VForm) (s : State) : Host.Outcome State Fault Refusal :=
  .next (Res.retire f.sp (opFadd f s.cg.active s))
def execFsub (f : VForm) (s : State) : Host.Outcome State Fault Refusal :=
  .next (Res.retire f.sp (opFsub f s.cg.active s))
def execFmul (f : VForm) (s : State) : Host.Outcome State Fault Refusal :=
  .next (Res.retire f.sp (opFmul f s.cg.active s))
def execFfma (f : VForm) (s : State) : Host.Outcome State Fault Refusal :=
  .next (Res.retire f.sp (opFfma f s.cg.active s))
def execFmin (f : VForm) (s : State) : Host.Outcome State Fault Refusal :=
  .next (Res.retire f.sp (opFmin f s.cg.active s))
def execFmax (f : VForm) (s : State) : Host.Outcome State Fault Refusal :=
  .next (Res.retire f.sp (opFmax f s.cg.active s))
def execFcmp (f : VForm) (s : State) : Host.Outcome State Fault Refusal :=
  .next (Res.retire f.sp (opFcmp f s.cg.active s))
def execFsel (f : VForm) (s : State) : Host.Outcome State Fault Refusal :=
  .next (Res.retire f.sp (opFsel f s.cg.active s))
def execFrnd (f : VForm) (s : State) : Host.Outcome State Fault Refusal :=
  .next (Res.retire f.sp (opFrnd f s.cg.active s))
def execFclass (f : VForm) (s : State) : Host.Outcome State Fault Refusal :=
  .next (Res.retire f.sp (opFclass f s.cg.active s))
def execFrcp (f : VForm) (s : State) : Host.Outcome State Fault Refusal :=
  .next (Res.retire f.sp (opFrcp f s.cg.active s))
def execFrsq (f : VForm) (s : State) : Host.Outcome State Fault Refusal :=
  .next (Res.retire f.sp (opFrsq f s.cg.active s))
def execFsqrt (f : VForm) (s : State) : Host.Outcome State Fault Refusal :=
  .next (Res.retire f.sp (opFsqrt f s.cg.active s))
def execFexp2 (f : VForm) (s : State) : Host.Outcome State Fault Refusal :=
  .next (Res.retire f.sp (opFexp2 f s.cg.active s))
def execFlog2 (f : VForm) (s : State) : Host.Outcome State Fault Refusal :=
  .next (Res.retire f.sp (opFlog2 f s.cg.active s))
def execFsin (f : VForm) (s : State) : Host.Outcome State Fault Refusal :=
  .next (Res.retire f.sp (opFsin f s.cg.active s))
def execFcos (f : VForm) (s : State) : Host.Outcome State Fault Refusal :=
  .next (Res.retire f.sp (opFcos f s.cg.active s))
def execFtanh (f : VForm) (s : State) : Host.Outcome State Fault Refusal :=
  .next (Res.retire f.sp (opFtanh f s.cg.active s))
def execCvt (f : VForm) (s : State) : Host.Outcome State Fault Refusal :=
  .next (Res.retire f.sp (opCvt f s.cg.active s))
def execRand (f : VForm) (s : State) : Host.Outcome State Fault Refusal :=
  .next (Res.retire f.sp (opRand f s.cg.active s))
def execMov (f : VForm) (s : State) : Host.Outcome State Fault Refusal :=
  .next (Res.retire f.sp (opMov f s.cg.active s))

end Sys2Proof.Machine
end

