-- ==== Sys2Proof/Machine/Lane.lean ====
section
/-! DEFINITION. Lane data movement, votes, reductions and the mask instructions (R372 to R384). -/

namespace Sys2Proof.Machine

/-- What a source lane supplies: its register, or zero once it has exited (R202). -/
def Group.supplied (g : Group) (u : Use) (f : BitVec 8) (j : Nat) : W64 :=
  if isS f then g.opnd u f j
  else if lin g.exited j then 0 else g.opnd u f j

/-- A vector word that computes each destination lane from the whole group (R372). -/
def State.runLanes (s : State) (f : VForm) (rs : Regs) (wide : Bool) (act : Lanes)
    (h : (ex : Lanes) → Nat → LRes) : Res :=
  let ex := s.cg.execSet f.g act
  s.gate rs (ex != 0) (.done (s.setCg (s.cg.vecDone wide f.d ex (h ex))))
/-- A vector word whose destination is a scalar register or a register in each lane of the execution set;
fl holds the conditions of the whole word. -/
def State.runOne (s : State) (f : VForm) (rs : Regs) (wide : Bool) (act : Lanes)
    (h : (ex : Lanes) → W64) (fl : Lanes → Fl) : Res :=
  let ex := s.cg.execSet f.g act
  let g := s.cg.orFst (fl ex)
  s.gate rs (ex != 0) (.done (s.setCg
    (if isS f.d then g.writeS true f.d (if wide then h ex else (lo32 (h ex)).setWidth 64)
     else g.vecDone wide f.d ex (fun _ => { val := h ex }))))

/-! ## Shuffles (R374, R375) -/

/-- The distance a span code stands for (R374). -/
def span (n : Nat) : Nat := 32 / 2 ^ n
/-- A shuffle from the lane src names; outside the group the lane keeps its own value of a. -/
def State.shuffle (s : State) (f : VForm) (useB : Use) (act : Lanes) (src : Nat → Nat → Int) : Res :=
  let g := s.cg
  s.runLanes f (f.regs { d := f.ty.use, a := f.ty.use, b := useB }) f.ty.is64 act (fun _ l =>
    let j := src (g.opnd useB f.b l).toNat l
    { val := if j < 0 ∨ 32 ≤ j then g.opnd f.ty.use f.a l else g.supplied f.ty.use f.a j.toNat })
def opShfl (f : VForm) (act : Lanes) (s : State) : Res := s.shuffle f .w32 act (fun b _ => ((b % 32 : Nat) : Int))
def opShflx (f : VForm) (act : Lanes) (s : State) : Res := s.shuffle f .w32 act (fun b l => ((l ^^^ (b % 32) : Nat) : Int))
def opShflup (f : VForm) (act : Lanes) (s : State) : Res :=
  s.shuffle f .no act (fun _ l => (l : Int) - span (f.c.toNat % 8))
def opShfldn (f : VForm) (act : Lanes) (s : State) : Res :=
  s.shuffle f .no act (fun _ l => (l : Int) + span (f.c.toNat % 8))
def opShflr (f : VForm) (act : Lanes) (s : State) : Res := s.shuffle f .w32 act (fun b l => (((l + b) % 32 : Nat) : Int))

/-! ## Votes, ballot and match (R376 to R378) -/

/-- Whether a vote of a kind holds over a set, from each lane's value (R376). -/
def voteHolds (k : Nat) (ex : Lanes) (a : Nat → W64) : Bool :=
  let ls := laneList ex
  match k with
  | 0 => ls.any (fun l => a l != 0)
  | 1 => ls.all (fun l => a l != 0)
  | 2 => ls.all (fun l => a l == 0)
  | _ => ls.all (fun l => a l == a (lowLane ex))
def opVote (f : VForm) (act : Lanes) (s : State) : Res :=
  let g := s.cg
  s.runOne f (useRegs f.d .w32 ++ useRegs f.a f.ty.use) false act (fun ex =>
    if voteHolds (f.c.toNat % 4) ex (g.opnd f.ty.use f.a) then (if isS f.d then 1 else 0xFFFFFFFF) else 0) (fun _ => 0)
def opBallot (f : VForm) (act : Lanes) (s : State) : Res :=
  let g := s.cg
  s.runOne f (useRegs f.d .w32 ++ useRegs f.a f.ty.use) true act (fun ex =>
    (laneSet (fun l => lin ex l && g.opnd f.ty.use f.a l != 0)).setWidth 64) (fun _ => 0)
/-- The lanes of a set holding the same bits as lane l (R378). -/
def matchMask (ex : Lanes) (a : Nat → W64) (l : Nat) : Lanes := laneSet (fun j => lin ex j && a j == a l)
def opMatchV (f : VForm) (act : Lanes) (s : State) : Res :=
  let g := s.cg
  s.runLanes f (useRegs f.d .w32 ++ useRegs f.a f.ty.use) false act (fun ex l =>
    let m := matchMask ex (g.opnd f.ty.use f.a) l
    { val := if f.c.getLsbD 0 then (if m = ex then ex.setWidth 64 else 0) else m.setWidth 64 })

/-! ## Reductions, scans and steps (R379 to R382) -/

/-- The identity of an operation code for a type (R379). -/
def redIdent (t : Ty) (op : Nat) : W64 :=
  if t == .f32 then (if op = 0 then 0x80000000 else BitVec.ofNat 64 f32.nanBits)
  else BitVec.ofNat 64 (match op with
    | 1 => if t.isSigned then 2 ^ (t.ew - 1) - 1 else 2 ^ t.ew - 1
    | 2 => if t.isSigned then 2 ^ (t.ew - 1) else 0
    | 3 => 2 ^ t.ew - 1
    | _ => 0)
/-- One combination: its bits, and the conditions of an f32 addition (R372, R379). -/
def redOp (t : Ty) (op : Nat) (a b : W64) : W64 × Fl :=
  let w := t.ew
  let x := elemOf w 0 a
  let y := elemOf w 0 b
  if t == .f32 then
    match op with
    | 0 => let r := roundEl f32 rmNear 0 .one false (fsum [f32.val x, f32.val y]); (BitVec.ofNat 64 r.bits, r.fl)
    | 1 => (BitVec.ofNat 64 (f32.minmax false x y), 0)
    | _ => (BitVec.ofNat 64 (f32.minmax true x y), 0)
  else
    let le := decide (elInt t.isSigned w x ≤ elInt t.isSigned w y)
    (BitVec.ofNat 64 (match op with
      | 0 => (x + y) % 2 ^ w
      | 1 => if le then x else y
      | 2 => if le then y else x
      | 3 => x &&& y
      | 4 => x ||| y
      | _ => x ^^^ y), 0)
/-- Entry i of a list of lane values. -/
def at_ (t : List W64) (i : Nat) : W64 := t.getD i 0
/-- The lane values a reduction starts from (R380, R381). -/
def redStart (t : Ty) (op : Nat) (ex : Lanes) (a : Nat → W64) : List W64 :=
  lanes.map (fun l => if lin ex l then a l else redIdent t op)
/-- The tree of R380 over spans. -/
def redTree (t : Ty) (op : Nat) : List Nat → List W64 × Fl → List W64 × Fl
  | [], x => x
  | sp :: rest, (v, fl) =>
    let r := (upto sp).map (fun l => redOp t op (at_ v l) (at_ v (l + sp)))
    redTree t op rest (r.map Prod.fst, r.foldl (fun acc e => acc ||| e.2) fl)
/-- VRED's result and conditions over a set. -/
def vredVal (t : Ty) (op : Nat) (ex : Lanes) (a : Nat → W64) : W64 × Fl :=
  let r := redTree t op [16, 8, 4, 2, 1] (redStart t op ex a, 0)
  (at_ r.1 0, r.2)
def opVred (f : VForm) (act : Lanes) (s : State) : Res :=
  let g := s.cg
  let op := f.c.toNat % 8
  s.runOne f (f.regs (.un f.ty)) f.ty.is64 act
    (fun ex => (vredVal f.ty op ex (g.opnd f.ty.use f.a)).1) (fun ex => (vredVal f.ty op ex (g.opnd f.ty.use f.a)).2)
/-- The passes of R381 over spans. -/
def scanPass (t : Ty) (op : Nat) : List Nat → List W64 × Fl → List W64 × Fl
  | [], x => x
  | sp :: rest, (v, fl) =>
    let r := lanes.map (fun l => if sp ≤ l then redOp t op (at_ v (l - sp)) (at_ v l) else (at_ v l, 0))
    scanPass t op rest (r.map Prod.fst, r.foldl (fun acc e => acc ||| e.2) fl)
def opVscan (f : VForm) (act : Lanes) (s : State) : Res :=
  let g := s.cg
  let op := f.c.toNat % 8
  let ex := g.execSet f.g act
  let r := scanPass f.ty op [1, 2, 4, 8, 16] (redStart f.ty op ex (g.opnd f.ty.use f.a), 0)
  s.gate (f.regs (.un f.ty)) (ex != 0) (.done (s.setCg ((g.orFst r.2).vecDone f.ty.is64 f.d ex (fun l =>
    { val := if !f.c.getLsbD 3 then at_ r.1 l else if l = 0 then redIdent f.ty op else at_ r.1 (l - 1) }))))
def opVstep (f : VForm) (act : Lanes) (s : State) : Res :=
  let g := s.cg
  let op := f.c.toNat % 8
  let o := span (f.c.toNat / 16 % 8)
  let own (l : Nat) : W64 := g.opnd f.ty.use f.a l
  let part (j : Nat) : W64 := if lin g.exited j then redIdent f.ty op else own j
  s.runLanes f (f.regs (.un f.ty)) f.ty.is64 act (fun _ l =>
    if o = 0 ∨ 32 ≤ o then { val := own l }
    else
      let p := l ^^^ o
      let r := redOp f.ty op (if l < p then own l else part p) (if l < p then part p else own l)
      { val := r.1, fl := r.2 })

/-! ## Single lanes (R383) -/

def opRdfirst (f : VForm) (act : Lanes) (s : State) : Res :=
  let g := s.cg
  s.runOne f (f.regs (.un f.ty)) f.ty.is64 act (fun ex => g.opnd f.ty.use f.a (lowLane ex)) (fun _ => 0)
def opRdlane (f : VForm) (act : Lanes) (s : State) : Res :=
  let g := s.cg
  s.runOne f (f.regs { VUse.un f.ty with b := .w32 }) f.ty.is64 act
    (fun _ => g.supplied f.ty.use f.a ((g.opnd .w32 f.b 0).toNat % 32)) (fun _ => 0)
def opWrlane (f : VForm) (act : Lanes) (s : State) : Res :=
  let g := s.cg
  let ex := g.execSet f.g act
  let l := (g.opnd .w32 f.b 0).toNat % 32
  s.gate (f.regs { VUse.un f.ty with b := .w32 }) (ex != 0) (.done (s.setCg
    (g.vecDone f.ty.is64 f.d (ex &&& lane1 l) (fun _ => { val := g.opnd f.ty.use f.a 0 }))))

/-! ## Masks (R384) -/

/-- A mask field's register number (R315). -/
def kNum (f : BitVec 8) : Nat := f.toNat % 8
/-- A uniform mask word with its new group. -/
def State.runMask (s : State) (f : VForm) (rs : Regs) (act : Lanes) (g' : Group) : Res :=
  s.gate rs (s.cg.uniGuard f.g act) (.done (s.setCg g'))
def opKand (f : VForm) (act : Lanes) (s : State) : Res :=
  s.runMask f [] act (s.cg.kput (kNum f.d) (s.cg.kget (kNum f.a) &&& s.cg.kget (kNum f.b)))
def opKor (f : VForm) (act : Lanes) (s : State) : Res :=
  s.runMask f [] act (s.cg.kput (kNum f.d) (s.cg.kget (kNum f.a) ||| s.cg.kget (kNum f.b)))
def opKxor (f : VForm) (act : Lanes) (s : State) : Res :=
  s.runMask f [] act (s.cg.kput (kNum f.d) (s.cg.kget (kNum f.a) ^^^ s.cg.kget (kNum f.b)))
def opKnot (f : VForm) (act : Lanes) (s : State) : Res :=
  s.runMask f [] act (s.cg.kput (kNum f.d) (~~~(s.cg.kget (kNum f.a))))
def opKpop (f : VForm) (act : Lanes) (s : State) : Res :=
  s.runMask f [(f.d, 1)] act (s.cg.sput (sNum f.d) (BitVec.ofNat 64 (laneList (s.cg.kget (kNum f.a))).length))
def opKffs (f : VForm) (act : Lanes) (s : State) : Res :=
  s.runMask f [(f.d, 1)] act (s.cg.sput (sNum f.d) (BitVec.ofNat 64 ((laneList (s.cg.kget (kNum f.a))).headD 32)))
def opKmov (f : VForm) (act : Lanes) (s : State) : Res :=
  let g := s.cg
  match f.c.toNat % 4 with
  | 0 => s.runMask f [] act (g.kput (kNum f.d) (g.kget (kNum f.a)))
  | 1 =>
    let ex := g.execSet f.g act
    s.gate (useRegs f.a f.ty.use) (ex != 0) (.done (s.setCg (g.kput (kNum f.d)
      (laneSet (fun l => if lin ex l then g.opnd f.ty.use f.a l != 0 else lin (g.kget (kNum f.d)) l)))))
  | 2 => s.runMask f [(f.a, 1)] act (g.kput (kNum f.d) (lo32 (g.sfld f.a)))
  | _ => s.runMask f [(f.d, 1)] act (g.sput (sNum f.d) ((g.kget (kNum f.a)).setWidth 64))

/-! ## The words -/

def execShfl (f : VForm) (s : State) : Host.Outcome State Fault Refusal :=
  .next (Res.retire f.sp (opShfl f s.cg.active s))
def execShflx (f : VForm) (s : State) : Host.Outcome State Fault Refusal :=
  .next (Res.retire f.sp (opShflx f s.cg.active s))
def execShflup (f : VForm) (s : State) : Host.Outcome State Fault Refusal :=
  .next (Res.retire f.sp (opShflup f s.cg.active s))
def execShfldn (f : VForm) (s : State) : Host.Outcome State Fault Refusal :=
  .next (Res.retire f.sp (opShfldn f s.cg.active s))
def execShflr (f : VForm) (s : State) : Host.Outcome State Fault Refusal :=
  .next (Res.retire f.sp (opShflr f s.cg.active s))
def execVote (f : VForm) (s : State) : Host.Outcome State Fault Refusal :=
  .next (Res.retire f.sp (opVote f s.cg.active s))
def execBallot (f : VForm) (s : State) : Host.Outcome State Fault Refusal :=
  .next (Res.retire f.sp (opBallot f s.cg.active s))
def execMatchV (f : VForm) (s : State) : Host.Outcome State Fault Refusal :=
  .next (Res.retire f.sp (opMatchV f s.cg.active s))
def execVred (f : VForm) (s : State) : Host.Outcome State Fault Refusal :=
  .next (Res.retire f.sp (opVred f s.cg.active s))
def execVscan (f : VForm) (s : State) : Host.Outcome State Fault Refusal :=
  .next (Res.retire f.sp (opVscan f s.cg.active s))
def execVstep (f : VForm) (s : State) : Host.Outcome State Fault Refusal :=
  .next (Res.retire f.sp (opVstep f s.cg.active s))
def execRdfirst (f : VForm) (s : State) : Host.Outcome State Fault Refusal :=
  .next (Res.retire f.sp (opRdfirst f s.cg.active s))
def execRdlane (f : VForm) (s : State) : Host.Outcome State Fault Refusal :=
  .next (Res.retire f.sp (opRdlane f s.cg.active s))
def execWrlane (f : VForm) (s : State) : Host.Outcome State Fault Refusal :=
  .next (Res.retire f.sp (opWrlane f s.cg.active s))
def execKand (f : VForm) (s : State) : Host.Outcome State Fault Refusal :=
  .next (Res.retire f.sp (opKand f s.cg.active s))
def execKor (f : VForm) (s : State) : Host.Outcome State Fault Refusal :=
  .next (Res.retire f.sp (opKor f s.cg.active s))
def execKxor (f : VForm) (s : State) : Host.Outcome State Fault Refusal :=
  .next (Res.retire f.sp (opKxor f s.cg.active s))
def execKnot (f : VForm) (s : State) : Host.Outcome State Fault Refusal :=
  .next (Res.retire f.sp (opKnot f s.cg.active s))
def execKmov (f : VForm) (s : State) : Host.Outcome State Fault Refusal :=
  .next (Res.retire f.sp (opKmov f s.cg.active s))
def execKpop (f : VForm) (s : State) : Host.Outcome State Fault Refusal :=
  .next (Res.retire f.sp (opKpop f s.cg.active s))
def execKffs (f : VForm) (s : State) : Host.Outcome State Fault Refusal :=
  .next (Res.retire f.sp (opKffs f s.cg.active s))

end Sys2Proof.Machine
end

