-- ==== Sys2Proof/Machine/Packet.lean ====
section
/-! DEFINITION. Fabric packets (R51, R52): their units on a link, the stream each belongs to, and the
packets this device makes. -/

namespace Sys2Proof

/-- The VDN a packet goes to (R45, R51). -/
def Packet.vdn (p : Packet) : Nat := p.daddr.toNat / 2 ^ 44
/-- The offset in that VDN. -/
def Packet.off (p : Packet) : Nat := p.daddr.toNat % 2 ^ 44
/-- The stream a request belongs to (R55, R60). -/
def Packet.sid (p : Packet) : StreamId :=
  { svdn := p.svdn, score := p.score, sgrp := p.sgrp, strm := p.strm, steam := p.steam }
/-- The stream a response or control message names: the requester's (R52, R60). -/
def Packet.rsid (p : Packet) : StreamId :=
  { svdn := BitVec.ofNat 16 p.vdn, score := p.score, sgrp := p.sgrp, strm := p.strm, steam := p.steam }

/-- The four header words (R51). -/
def Packet.words (p : Packet) : List W64 :=
  [BitVec.ofBool p.resend ++ p.steam ++ p.daddr,
   p.svdn ++ p.score ++ p.sgrp ++ p.strm ++ p.sseq ++ p.tag ++ BitVec.ofBool p.fwd,
   p.op ++ p.len ++ p.scope ++ p.sfunc ++ p.epoch ++ p.status ++ p.sclu ++ p.opx,
   p.w3]
/-- A packet from its header words and data bytes. -/
def Packet.ofWords (w0 w1 w2 w3 : W64) (data : List Byte) : Packet :=
  { resend := w0.getLsbD 63, steam := w0.extractLsb' 60 3, daddr := w0.extractLsb' 0 60
    svdn := w1.extractLsb' 48 16, score := w1.extractLsb' 38 10, sgrp := w1.extractLsb' 32 6
    strm := w1.extractLsb' 30 2, sseq := w1.extractLsb' 14 16, tag := w1.extractLsb' 1 13, fwd := w1.getLsbD 0
    op := w2.extractLsb' 58 6, len := w2.extractLsb' 53 5, scope := w2.extractLsb' 50 3
    sfunc := w2.extractLsb' 44 6, epoch := w2.extractLsb' 28 16, status := w2.extractLsb' 20 8
    sclu := w2.extractLsb' 10 10, opx := w2.extractLsb' 0 10, w3, data }

namespace Machine

/-- Sixteen bytes as a unit, missing bytes zero. -/
def unitOf (bs : List Byte) : Unit16 := BitVec.ofNat 128 (leNat (bs.take 16))
def unitsOf : Nat → List Byte → List Unit16
  | 0, _ => []
  | n + 1, bs => unitOf bs :: unitsOf n (bs.drop 16)
/-- The units of a packet: a header of two and its data units (R51). -/
def packetUnits (p : Packet) : List Unit16 :=
  match p.words with
  | [a, b, c, d] => (b ++ a) :: (d ++ c) :: unitsOf p.len.toNat p.data
  | _ => []
/-- Data units that hold n bytes. -/
def unitCount (n : Nat) : Nat := (n + 15) / 16

/-! Operation codes and status values (R52). -/

def oREAD : BitVec 6 := 0x01
def oWRITE : BitVec 6 := 0x02
def oPOSTED : BitVec 6 := 0x03
def oATOMIC : BitVec 6 := 0x04
def oFSIG : BitVec 6 := 0x05
def oCFGRD : BitVec 6 := 0x06
def oCFGWR : BitVec 6 := 0x07
def oMMIORD : BitVec 6 := 0x08
def oMMIOWR : BitVec 6 := 0x09
def oHOSTRD : BitVec 6 := 0x0A
def oHOSTWR : BitVec 6 := 0x0B
def oRDATA : BitVec 6 := 0x20
def oRACK : BitVec 6 := 0x21
def oCDATA : BitVec 6 := 0x22
def oCBEGUN : BitVec 6 := 0x23
def oMSTREAM : BitVec 6 := 0x24
def oRESUME : BitVec 6 := 0x30
def oABORT : BitVec 6 := 0x31
def oUPDATE : BitVec 6 := 0x38
def oACK : BitVec 6 := 0x39
def oEVREC : BitVec 6 := 0x3A
def oHMSG : BitVec 6 := 0x3B

def stOk : Byte := 0x00
def stMoved : Byte := 0x01
def stRfault : Byte := 0x02
def stRetry : Byte := 0x82
def stAccess : Byte := 0x03
def stRange : Byte := 0x04
def stUncorr : Byte := 0x05
def stLink : Byte := 0x06
def stAborted : Byte := 0x07
def stNoVdn : Byte := 0x08

/-- The virtual channel of an operation (R52); a checkpoint or restore stream moves to VC 4. -/
def opVc (op : BitVec 6) : Nat :=
  match op.toNat with
  | 0x01 | 0x02 | 0x04 => 0
  | 0x03 | 0x05 => 2
  | 0x20 | 0x21 | 0x30 | 0x31 => 1
  | 0x22 | 0x23 => 3
  | 0x24 => 4
  | 0x38 | 0x39 | 0x3A | 0x3B => 7
  | n => if 0x06 ≤ n ∧ n ≤ 0x0B then 6 else if 0x10 ≤ n ∧ n ≤ 0x1C then 5 else 0
/-- A request, which receives one response (R52, R53). -/
def opRequest (op : BitVec 6) : Bool :=
  let n := op.toNat
  (decide (1 ≤ n) && decide (n ≤ 0x0B)) || n == 0x22 || n == 0x23 || n == 0x24
/-- An assigned operation (R52). -/
def opKnown (op : BitVec 6) : Bool :=
  let n := op.toNat
  opRequest op || (decide (0x10 ≤ n) && decide (n ≤ 0x1C)) || n == 0x20 || n == 0x21 || n == 0x30 || n == 0x31 ||
  (decide (0x38 ≤ n) && decide (n ≤ 0x3B))
/-- Requests executed again after a port fails (R58). -/
def opRepeats (op : BitVec 6) : Bool :=
  op == oREAD || op == oCFGRD || op == oMMIORD || op == oHOSTRD || op == oWRITE || op == oPOSTED || op == oHOSTWR ||
  op == oMSTREAM || op == oCDATA || op == oCBEGUN

/-- The response to a request (R53): back to the requester's VDN, naming its stream and SSEQ. -/
def respTo (q : Packet) (status : Byte) (epoch : BitVec 16) (data : List Byte) (rdata : Bool) : Packet :=
  { steam := q.steam, daddr := q.svdn ++ (0 : BitVec 44), svdn := BitVec.ofNat 16 q.vdn, score := q.score, sgrp := q.sgrp
    strm := q.strm, sseq := q.sseq, tag := q.tag, op := if rdata then oRDATA else oRACK
    len := BitVec.ofNat 5 (unitCount data.length), scope := q.scope, sfunc := q.sfunc, epoch, status
    sclu := q.sclu, data }
/-- Operations answered with data. -/
def opReads (q : Packet) : Bool :=
  q.op == oREAD || q.op == oCFGRD || q.op == oMMIORD || q.op == oHOSTRD ||
  (q.op == oATOMIC && decide (q.opx.toNat % 256 < 0x50))

end Machine

end Sys2Proof
end

