-- ==== Sys2Proof/Machine/Units.lean ====
section
/-! DEFINITION. The transfer units of the core transfer engine's descriptors (R452, R454, R455): which bytes
each moves. -/

namespace Sys2Proof.Machine

/-- One transfer unit: where it reads and writes, and how many bytes. -/
structure XUnit where
  src : W64
  dst : W64
  n : Nat
  deriving DecidableEq, Repr

/-- The j-th run of a row of len bytes that ends at multiples of step of an address, as offset and length. -/
def runOf (start step len j : Nat) : Option (Nat × Nat) :=
  let a := start % step
  let lo := step * j - a
  let hi := min len (step * (j + 1) - a)
  if lo < hi then some (lo, hi - lo) else none
/-- Places for runs in a row, by any alignment of its start. -/
def runsIn (step len : Nat) : Nat := (len + 2 * step - 2) / step

/-- The unit of a descriptor at a position; none where there is none. -/
def CteDesc.unit (d : CteDesc) (pos : Nat) : Option XUnit :=
  match d.kind with
  | .tsplit src _ dst _ _ _ => if pos == 0 then some { src, dst, n := 0 } else none
  | .fsig t _ _ _ _ _ => if pos == 0 then some { src := t, dst := t, n := 0 } else none
  | .copy src dst len rows planes srs drs sps dps =>
    let k := runsIn 4096 len
    let row := pos / k
    let y := row % rows
    let z := row / rows
    let so := BitVec.ofNat 64 (z * sps + y * srs)
    let to_ := BitVec.ofNat 64 (z * dps + y * drs)
    if z < planes then
      (runOf (dst + to_).toNat 4096 len (pos % k)).map (fun r =>
        { src := src + so + BitVec.ofNat 64 r.1, dst := dst + to_ + BitVec.ofNat 64 r.1, n := r.2 })
    else none
  | .fput src dst len _ _ =>
    (runOf dst.toNat 256 len pos).map (fun r =>
      { src := src + BitVec.ofNat 64 r.1, dst := dst + BitVec.ofNat 64 r.1, n := r.2 })
  | .fget src dst len _ =>
    (runOf src.toNat 256 len pos).map (fun r =>
      { src := src + BitVec.ofNat 64 r.1, dst := dst + BitVec.ofNat 64 r.1, n := r.2 })
/-- Bytes a descriptor moves in all, a TSPLIT's counted by its unit. -/
def CteDesc.total (d : CteDesc) : Nat :=
  match d.kind with
  | .copy _ _ len rows planes _ _ _ _ => len * rows * planes
  | .fput _ _ len _ _ => len
  | .fget _ _ len _ => len
  | _ => 1
/-- The address a failed unit's fault names: the remote one of FPUT and FGET. -/
def CteDesc.unitAddr (d : CteDesc) (pos : Nat) : W64 :=
  match d.unit pos with
  | none => 0
  | some u => match d.kind with
    | .fput .. => u.dst
    | _ => u.src

end Sys2Proof.Machine
end

