-- ==== Sys2Proof/Machine/Send.lean ====
section
/-! DEFINITION. The source side of the fabric: what a response completes, and sending requests, responses
and messages through the VDN table (R49 to R58, R61). -/

namespace Sys2Proof.Machine

/-! ## What a response completes -/

/-- The registers of one lane of a load or atomic written, the value zero-extended (R416). -/
def Group.loadLane (g : Group) (d : BitVec 8) (bytes lane x : Nat) : Group :=
  if isS d then g.sput (sNum d) (BitVec.ofNat 64 x)
  else (upto (max 1 (bytes / 4))).foldl (fun g i => g.vput (d.toNat + i) lane (BitVec.ofNat 32 (x / 2 ^ (32 * i)))) g
/-- The wait counter of an access falls (R417). -/
def Group.countDown (g : Group) (op : AccOp) : Group :=
  match op with
  | .load | .atom _ | .frag .. => { g with ld := g.ld - 1 }
  | .store | .red _ | .barr => { g with st := g.st - 1 }
/-- The operation gives its destination a value. -/
def AccOp.returns : AccOp → Bool
  | .load | .atom _ | .barr | .frag .. => true
  | _ => false

/-- A remote-access fault waits for the next boundary; the first failed request is the one recorded (R61). -/
def Group.remoteFault (g : Group) (status : Byte) (addr : Nat) : Group :=
  if g.impr.any (fun i => i.cause == cRemote) then g
  else { g with impr := g.impr ++ [{ cause := cRemote, info := status.toNat, addr := BitVec.ofNat 64 addr }] }

/-- Transaction table entries the lanes of an access hold: one for each 32-byte sector of global memory and one
for each distributed-scratch lane (R241). -/
def entriesOf (ps : List LanePart) : Nat :=
  (distinct ((ps.filter (fun x => x.xl.isSome)).map (fun x => x.va.toNat / 32))).length +
  (ps.filter (fun x => match x.loc with | .dist _ => true | _ => false)).length
/-- An access after one of its lanes is done: listed without it, or complete (R417). -/
def State.dropPart (s : State) (c p id lane : Nat) : State :=
  let g := s.group c p
  match g.acc.find? (fun a => a.id == id) with
  | none => s
  | some a =>
    let rest := a.parts.filter (fun x => x.lane != lane)
    let s := s.setCore c { s.core c with txUsed := (s.core c).txUsed - (a.entries - entriesOf rest) }
    if rest.isEmpty then
      s.setGroup c p ({ g with acc := g.acc.filter (fun x => x.id != id) }.countDown a.op)
    else s.setGroup c p { g with acc := g.acc.map (fun x => if x.id == id then
      { x with parts := rest, entries := entriesOf rest } else x) }
/-- One lane of an access is performed: its value written, or a failure recorded (R61, R417). -/
def State.partDone (s : State) (c p id lane : Nat) (status : Byte) (x addr : Nat) : State :=
  let g := s.group c p
  match g.acc.find? (fun a => a.id == id) with
  | none => s
  | some a =>
    let g := if status != stOk then g.remoteFault status addr
      else if a.op.returns then g.loadLane a.dest a.regBytes lane x else g
    (s.setGroup c p g).dropPart c p id lane
/-- A lane's fabric request has ended and the lane may be performed. -/
def State.partBack (s : State) (c p id lane : Nat) : State :=
  let g := s.group c p
  s.setGroup c p { g with acc := g.acc.map (fun a => if a.id == id then
    { a with parts := a.parts.map (fun x => if x.lane == lane then { x with sent := false } else x) } else a) }

/-- An engine word fails: its descriptor is abandoned, cp falls, and its group receives an imprecise fault
(R231, R451). -/
def State.engineEnd (s : State) (c d : Nat) (cause : Byte) (info : Nat) (addr : W64) : State :=
  match tget none (s.core c).cte d with
  | none => s
  | some x =>
    let g := s.group c x.gs
    let s := s.setGroup c x.gs { g with cp := g.cp - 1, impr := g.impr ++ [{ cause, info, addr }] }
    s.setCore c { s.core c with cte := tput none (s.core c).cte d none }
/-- A remote response other than OK fails the word with INFO 3 (R451). -/
def State.engineFail (s : State) (c d pos : Nat) : State :=
  match tget none (s.core c).cte d with
  | none => s
  | some x => s.engineEnd c d cEngine 3 (x.unitAddr pos)
/-- A signal that reaches the device window is refused: its descriptor is over, and its group receives the
remote-access fault (R48). -/
def State.sigRefused (s : State) (c d : Nat) (status : Byte) (addr : Nat) : State :=
  match tget none (s.core c).cte d with
  | none => s
  | some x =>
    let g := s.group c x.gs
    let s := s.setGroup c x.gs ({ g with cp := g.cp - 1 }.remoteFault status addr)
    s.setCore c { s.core c with cte := tput none (s.core c).cte d none }
/-- A place of the device window by VDN and offset (R46). -/
def inWindowOf (vdn off : Nat) : Bool := vdn == 0xFFFF || decide (0xF0000000000 ≤ off)
/-- A unit's request of an engine descriptor has its response. -/
def State.unitBack (s : State) (c d pos data : Nat) : State :=
  match tget none (s.core c).cte d with
  | none => s
  | some x => s.setCore c { s.core c with cte := tput none (s.core c).cte d (some { x with back := x.back ++ [(pos, data)] }) }
/-- The FSIG of an engine descriptor has its response. -/
def State.sigBack (s : State) (c d : Nat) : State :=
  match tget none (s.core c).cte d with
  | none => s
  | some x => s.setCore c { s.core c with cte := tput none (s.core c).cte d (some { x with sigBack := true }) }
/-- A place of the operation in progress in a matrix unit has its response; a failed one has no target. -/
def State.tileBack (s : State) (c pos : Nat) (status : Byte) (data addr : Nat) : State :=
  let co := s.core c
  match co.tq with
  | [] => s
  | o :: rest =>
    let mark (x : LanePart) : LanePart := { x with got := true, sent := false, data := BitVec.ofNat 256 data
                                                   loc := if status == stOk then x.loc else .err status }
    let s := s.setCore c { co with tq := { o with parts := o.parts.map (fun x => if x.lane == pos then mark x else x) } :: rest }
    if status == stOk then s else s.setGroup c o.gs ((s.group c o.gs).remoteFault status addr)

/-- A key table entry with a change made. -/
def State.mapKey (s : State) (p : KeyEnt → Bool) (f : KeyEnt → KeyEnt) : State :=
  { s with keys := s.keys.map (fun k => if p k then f k else k) }
/-- A started command with a change made (R100). -/
def State.mapCmd (s : State) (f q slot : Nat) (h : Cmd → Cmd) : State :=
  let fn := s.func f
  let qu := tget {} fn.queues q
  let qu := { qu with cmds := qu.cmds.map (fun c => if c.slot == slot then h c else c) }
  s.setFunc f { fn with queues := tput {} fn.queues q qu }

/-- What waited for a request receives its outcome (R53, R61). -/
def State.finish (s : State) (o : TxnOwner) (q : Packet) (status : Byte) (data : List Byte) : State :=
  match o with
  | .lane c p id lane => s.partDone c p id lane status (leNat data) q.daddr.toNat
  | .fill c p id lane rcc ctx =>
    if status == stOk then
      let x := ((s.group c p).acc.find? (fun a => a.id == id)).bind (fun a => a.parts.find? (fun (x : LanePart) => x.lane == lane))
      let s := if (tget none s.l2 (q.daddr.toNat / 32)).isSome && p != 65 then s
        else s.l2Put q.daddr.toNat { data := BitVec.ofNat 256 (leNat data), func := q.sfunc.toNat, ctx, rcc, fw := p == 65
                                     own := if p < 64 then (x.map (·.own)).getD 0 else 0
                                     priv := p < 64 && (x.map (·.priv)).getD false }
      if p < 64 then s.partBack c p id lane else s
    else if 64 ≤ p then { s with fillLost := (q.daddr.toNat / 32, status) :: s.fillLost.filter (fun e => e.1 != q.daddr.toNat / 32) }
    else if (s.group c p).acc.any (fun a => a.id == id) then s.partDone c p id lane status 0 q.daddr.toNat
    else s.setGroup c p ((s.group c p).remoteFault status q.daddr.toNat)
  | .tile c pos => s.tileBack c pos status (leNat data) q.daddr.toNat
  | .desc c p pos =>
    let g := s.group c p
    let g := if status == stOk then g else g.remoteFault status q.daddr.toNat
    s.setGroup c p { g with dread := g.dread.map (fun l =>
      l ++ [(pos, if status == stOk then some (BitVec.ofNat 64 (leNat data)) else none)]) }
  | .unit c d pos => if status == stOk then s.unitBack c d pos (leNat data) else s.engineFail c d pos
  | .sig c d =>
    if status == stOk then s.sigBack c d
    else if status == stAccess && (inWindowOf q.vdn q.off || inWindowOf q.vdn (q.w3.toNat % 2 ^ 44)) then
      s.sigRefused c d status q.daddr.toNat
    else s.engineFail c d 0
  | .evict _ => s
  | .coll f num pos =>
    if status == stOk then s.mapKey (fun k => k.func == f && k.num == some num) (fun k =>
      { k with acked := if k.acked.contains pos then k.acked else pos :: k.acked })
    else s
  | .begun f num =>
    if status == stOk then s.mapKey (fun k => k.func == f && k.num == some num) (fun k => { k with begunAck := true })
    else s
  | .stream _ => if status == stOk then s else { s with mig := { s.mig with err := true } }
  | .bridge slot f wr =>
    s.emit (.hostAnswer slot f (status == stOk) (if wr then 0 else BitVec.ofNat 64 (leNat data)))
  | .tier f page => if status == stOk then s else { s with tiers := s.tiers.map (fun t =>
      if t.func == f && t.page == page then { t with copied := none } else t) }
  | .host | .forwarded => s

/-! ## The VDN table (R49, R50) -/

def vtValid (e : BitVec 128) : Bool := e.getLsbD 63
def vtSelf (e : BitVec 128) : Bool := e.getLsbD 62
def vtHold (e : BitVec 128) : Bool := e.getLsbD 61
def vtEpoch (e : BitVec 128) : BitVec 16 := e.extractLsb' 32 16
/-- The ports an entry allows that are up. -/
def State.egress (s : State) (e : BitVec 128) : List Nat :=
  (upto 18).filter (fun p => e.getLsbD (64 + p) && (s.port p).state == .up)

/-- A packet's units queued on a port's virtual channel (R26). -/
def State.portQueue (s : State) (port vc : Nat) (p : Packet) : State :=
  let pt := s.port port
  let us := match packetUnits p with
    | [] => []
    | u :: rest => (true, u) :: rest.map (fun x => (false, x))
  let kept := if vc == 1 || vc == 5 || vc == 7 then pt.kept ++ [{ vc, pkt := p, left := us.length }] else pt.kept
  s.setPort port { pt with txq := tput [] pt.txq vc (tget [] pt.txq vc ++ us), kept }

/-- Whether a stream sends nothing for now. -/
def Stream.stopped (x : Stream) : Bool := x.freeze.isSome || !x.queue.isEmpty
/-- The streams with one changed or added. -/
def State.setStream (s : State) (x : Stream) : State :=
  let rest := s.streams.filter (fun y => !(y.sid == x.sid && y.vdn == x.vdn))
  { s with streams := if x.out.isEmpty && x.queue.isEmpty && x.freeze.isNone && x.next == 0 then rest else rest ++ [x] }
def State.stream (s : State) (sid : StreamId) (vdn : BitVec 16) : Stream :=
  match s.streams.find? (fun y => y.sid == sid && y.vdn == vdn) with
  | some x => x
  | none => { sid, vdn }

/-- The port a stream's request leaves by: the stream's own while it has requests outstanding, else one
the hash picks (R57). -/
def Stream.pickPort (x : Stream) (ports : List Nat) : Option Nat :=
  match x.port with
  | some p => if !x.out.isEmpty && ports.contains p then some p else
      ports[Config.egressHash x.sid x.vdn % max 1 ports.length]?
  | none => ports[Config.egressHash x.sid x.vdn % max 1 ports.length]?

/-- The virtual channel of a request: 4 for the streams of a migration or checkpoint (R52, R169). -/
def reqVc (q : Packet) (o : TxnOwner) : Nat :=
  match o with
  | .stream _ | .forwarded => 4
  | _ => opVc q.op
/-- The ports a migration or checkpoint stream may take (R151, R169). -/
def State.streamPorts (s : State) (e : BitVec 128) : List Nat :=
  (s.egress e).filter (fun p => s.mig.dir == 3 || s.mig.ports.getLsbD p)
/-- A list turned by n places. -/
def rotate {α : Type} (n : Nat) (l : List α) : List α := l.drop (n % max 1 l.length) ++ l.take (n % max 1 l.length)
/-- The entry by which a request goes: that of its VDN, or, for traffic between a bridge and a member, the group's own
route, which is no entry of the table (R69). -/
def State.reqEntry (s : State) (o : TxnOwner) (vdn : Nat) : BitVec 128 :=
  match o with
  | .bridge .. | .host => BitVec.ofNat 128 (2 ^ 63)
  | _ => tget 0 s.vdnTab vdn
/-- The ports a request may take (R50, R69, R151). -/
def State.reqPorts (s : State) (o : TxnOwner) (e : BitVec 128) : List Nat :=
  let up (m : BitVec 18) : List Nat := (upto 18).filter (fun p => m.getLsbD p && (s.port p).state == .up)
  match o with
  | .stream pos => if s.mig.dir == 3 then rotate (pos / 256) (s.streamPorts e) else s.streamPorts e
  | .bridge slot _ _ => (match tget none s.group8 slot with
    | some m => up (Config.groupPorts m.1 m.2)
    | none => [])
  | .host => up Config.bridgePorts
  | _ => s.egress e
/-- A request put where its entry leads, outstanding from now on: on a port, or, for a partition of this device, among
the packets that come back to it (R50, R55, R57); none without a port. -/
def State.putReq (s : State) (x : Stream) (e : BitVec 128) (p : Packet) (o : TxnOwner) : Option State :=
  let p := { p with epoch := vtEpoch e }
  let x := { x with out := x.out ++ [(p, o)] }
  if vtSelf e then
    let s := s.setStream { x with port := none }
    some { s with loop := s.loop ++ [p] }
  else
    let x := { x with out := x.out.dropLast }
    (x.pickPort (s.reqPorts o e)).map (fun port =>
      (s.setStream { x with out := x.out ++ [(p, o)], port := some port }).portQueue port (reqVc p o) p)
/-- Requests of another channel are outstanding. DESIGN CHOICE (log 39): a stream has requests of one channel on the way
at a time, so that they reach the target in SSEQ order (R56). -/
def Stream.mixed (x : Stream) (vc : Nat) : Bool := x.out.any (fun y => reqVc y.1 y.2 != vc)
/-- The entry of its core's transaction table a request holds (R51, R241), which an engine has none of. DESIGN CHOICE
(log 40): the lowest one free. -/
def State.freeTag (s : State) (score : BitVec 10) : BitVec 13 :=
  if 576 ≤ score.toNat then 0
  else
    let used := (s.streams.filter (fun x => x.sid.score == score)).flatMap (fun x => (x.out ++ x.queue).map (fun y => y.1.tag.toNat))
    BitVec.ofNat 13 (((upto (used.length + 1)).find? (fun n => !used.contains n)).getD 0)

/-- The identity a request goes under: the saved one of its group's stream while that has requests outstanding (R164). -/
def State.savedId (s : State) (p : Packet) : Option StreamId :=
  (s.aliases.find? (fun a => a.1 == p.sid && a.2.2.toNat == p.vdn)).bind (fun a =>
    let x := s.stream a.2.1 a.2.2
    if x.out.isEmpty && x.queue.isEmpty then none else some a.2.1)
/-- The identity of a request is another stream's saved one, still in use, or an earlier request waits for that (R164). -/
def State.idTaken (s : State) (p : Packet) : Bool :=
  s.heldIds.any (fun y => y.1.sid == p.sid && y.1.vdn == p.vdn) ||
  s.aliases.any (fun a => a.2.1 == p.sid && a.2.2.toNat == p.vdn && (s.stream a.2.1 a.2.2).queue.length + (s.stream a.2.1 a.2.2).out.length != 0)
def Packet.under (p : Packet) (i : StreamId) : Packet := { p with score := i.score, sgrp := i.sgrp, strm := i.strm, steam := i.steam }
/-- A request that leaves its core or engine by the VDN table (R50): refused without an entry or a port, held while the
entry is on HOLD or the stream stopped, or sent. It takes the next SSEQ of its stream (R55). -/
def State.sendNow (s : State) (p : Packet) (o : TxnOwner) : State :=
  let e := s.reqEntry o p.vdn
  let x := s.stream p.sid (BitVec.ofNat 16 p.vdn)
  if !vtValid e then s.finish o p stNoVdn []
  else
    let p := { p with sseq := x.next, tag := s.freeTag p.score }
    let x := { x with next := x.next + 1 }
    if vtHold e || x.stopped || decide (4096 ≤ x.out.length) || x.mixed (reqVc p o) then
      s.setStream { x with queue := x.queue ++ [(p, o)] }
    else match s.putReq x e p o with
      | none => s.finish o p stLink []
      | some t => t
/-- A request sent under the identity that R164 gives it; one whose identity is in use by a saved stream waits. -/
def State.sendReq (s : State) (p : Packet) (o : TxnOwner) : State :=
  match s.savedId p with
  | some i => s.sendNow (Packet.under p i) o
  | none => if s.idTaken p then { s with heldIds := s.heldIds ++ [(p, o)] } else s.sendNow p o
/-- Saved streams that have drained are done with: their groups' requests go under their own identities, from SSEQ 0, and
those that waited for one are sent (R164). -/
def State.freeIds (s : State) : State :=
  let idle (a : StreamId × StreamId × BitVec 16) : Bool :=
    let x := s.stream a.2.1 a.2.2
    x.out.isEmpty && x.queue.isEmpty
  let gone := s.aliases.filter idle
  if gone.isEmpty then s
  else
    let streams := s.streams.map (fun x => if gone.any (fun a => a.1 == x.sid && a.2.2 == x.vdn) && x.out.isEmpty && x.queue.isEmpty
      then { x with next := 0 } else x)
    let held := s.heldIds
    held.foldl (fun s y => s.sendReq y.1 y.2) { s with streams, aliases := s.aliases.filter (fun a => !idle a), heldIds := [] }
/-- The requests a stream holds, sent in order while nothing stops them (R50, R60, R67). -/
def State.sendHeld (s : State) (x : Stream) : Nat → State
  | 0 => s
  | n + 1 =>
    match x.queue with
    | [] => s.setStream x
    | (p, o) :: rest =>
      let e := s.reqEntry o x.vdn.toNat
      if x.freeze.isSome || vtHold e || decide (4096 ≤ x.out.length) || x.mixed (reqVc p o) then s.setStream x
      else if !vtValid e then ((s.setStream { x with queue := rest }).finish o p stNoVdn []).sendHeld { x with queue := rest } n
      else match s.putReq { x with queue := rest } e p o with
        | none => ((s.setStream { x with queue := rest }).finish o p stLink []).sendHeld { x with queue := rest } n
        | some t => t.sendHeld (t.stream x.sid x.vdn) n

/-- A response or message, routed by the entry of its VDN; a message waits on HOLD, one for a partition here comes back
to this device, and one that has no route is discarded (R50). -/
def State.sendMsg (s : State) (vc : Nat) (p : Packet) : State :=
  let e := tget 0 s.vdnTab p.vdn
  if vtHold e then { s with waitVdn := s.waitVdn ++ [p] }
  else if !vtValid e then s
  else if vtSelf e then { s with loop := s.loop ++ [p] }
  else match s.egress e with
    | [] => s
    | port :: _ => s.portQueue port vc p
/-- A response goes out where its requester's VDN leads, else by the port its request came in (R53). -/
def State.respond (s : State) (p : Packet) : State :=
  let e := tget 0 s.vdnTab p.vdn
  if vtValid e && vtSelf e then { s with loop := s.loop ++ [p] }
  else match (if vtValid e then s.egress e else []) with
  | port :: _ => s.portQueue port (opVc p.op) p
  | [] => s.portQueue s.inp.port (opVc p.op) p

/-! ## Event records (R44) -/

/-- A management event record as a packet of VC 7 (R52), for this device's PF0 or its Hasp: both lie behind the VDN of
PF0, so it does not leave the package (R47). -/
def State.recordPacket (s : State) (off bits : W32) : Packet :=
  let v := (s.func 0).vdn
  { svdn := v, daddr := v ++ (0 : BitVec 44), score := Config.haspScore, sclu := Config.haspScore, op := oEVREC, w3 := bits ++ off }
/-- A record of an event register's offset and its set bits, to PF0 and to Hasp (R44). -/
def State.record (s : State) (off bits : W32) : State :=
  (s.emit (.evrec .pf0 (s.recordPacket off bits))).emit (.evrec .hasp (s.recordPacket off bits))

def eLANEBAD : BitVec 5 := 1
def eWIDTHCHG : BitVec 5 := 2
def eLINKDOWN : BitVec 5 := 4
def eLINKFAIL : BitVec 5 := 8
def eWMARKBAD : BitVec 5 := 16
/-- Bits of EZL_EVENT set; where some are newly set, the bits that are set are recorded (R42, R44). -/
def State.portEvent (s : State) (p : Nat) (b : BitVec 5) : State :=
  let pt := s.port p
  let s' := s.setPort p { pt with event := pt.event ||| b }
  if b &&& ~~~pt.event == 0 then s' else s'.record (BitVec.ofNat 32 (0x100000 + p * 0x1000 + 8)) ((pt.event ||| b).setWidth 32)

/-! ## Messages to the host (R69, R102) -/

/-- An MSI-X message of a function: a bridge's goes to the host, a member's as a 4-byte HOSTWR to its bridge, under the
function's VDN. -/
def State.msix (s : State) (f vec : Nat) : State :=
  if s.boot.bridge then s.emit (.msix f vec)
  else
    let m := Config.msixMsg f vec
    s.sendReq { svdn := (s.func f).vdn, score := Config.haspScore, sclu := Config.haspScore, sfunc := BitVec.ofNat 6 f, op := oHOSTWR
                daddr := Config.bridgeVdn ++ (0 : BitVec 44), w3 := m.1, opx := 3, len := 1, data := leBytes 16 m.2.toNat } .host

/-! ## Requests of a group -/

/-- The header fields that name a group as the source (R51, R54). -/
def State.groupHdr (s : State) (c p : Nat) (strm : BitVec 2) (scope : Scope) : Packet :=
  let g := s.group c p
  let tm := s.team c g.team
  { steam := BitVec.ofNat 3 g.team, svdn := (s.func tm.func).vdn, score := BitVec.ofNat 10 c, sgrp := BitVec.ofNat 6 p
    strm, sfunc := BitVec.ofNat 6 tm.func, sclu := BitVec.ofNat 10 tm.origin, scope := scope.code }
/-- The header fields of a write-back of the core for a function. DESIGN CHOICE (log 40): the spec names no group for it;
SGRP, STEAM and STREAM are 0 and SCLU is the core. -/
def State.coreHdr (s : State) (c f : Nat) : Packet :=
  { svdn := (s.func f).vdn, score := BitVec.ofNat 10 c, sfunc := BitVec.ofNat 6 f, sclu := BitVec.ofNat 10 c }

/-- A READ of n bytes (R52). -/
def pkRead (h : Packet) (sfa n : Nat) : Packet :=
  { h with op := oREAD, daddr := BitVec.ofNat 60 sfa, opx := BitVec.ofNat 10 (n - 1) }
/-- A WRITE of bytes (R52). -/
def pkWrite (h : Packet) (sfa : Nat) (bs : List Byte) : Packet :=
  { h with op := oWRITE, daddr := BitVec.ofNat 60 sfa, opx := BitVec.ofNat 10 (bs.length - 1), data := bs
           len := BitVec.ofNat 5 (unitCount bs.length) }

/-- The core has write-backs without a response. -/
def State.evicting (s : State) (c : Nat) : Bool :=
  s.streams.any (fun x => (x.out ++ x.queue).any (fun y => match y.2 with | .evict c' => c' == c | _ => false))

end Sys2Proof.Machine
end

