-- ==== Sys2Proof/Machine/Cache.lean ====
section
/-! DEFINITION. Scratch words, the L1 and home-slice sectors with their write-backs, the cache actions of
fences (R254), the sync line records (R261 to R264) and the atomic operations (R426). -/

namespace Sys2Proof.Machine

/-! ## Scratch (R217, R218) -/

def Core.word (x : Core) (bank w : Nat) : SWord := tget {} x.scr (bank * 4096 + w)
def Core.setWord (x : Core) (bank w : Nat) (v : SWord) : Core := { x with scr := tput {} x.scr (bank * 4096 + w) v }
/-- The bank a window of a team names, when it is mapped. -/
def Team.bankOf (t : Team) (w : Nat) : Option Nat := (t.win.find? (fun e => e.1 == w)).map Prod.snd
/-- The bank a FIFO number of a team names, when it is mapped. -/
def Team.fifoOf (t : Team) (n : Nat) : Option Nat := (t.fifo.find? (fun e => e.1 == n)).map Prod.snd
def saDs (a : W32) : Bool := a.getLsbD 24
def saCidx (a : W32) : Nat := bits a.toNat 19 5
def saWin (a : W32) : Nat := bits a.toNat 14 5
def saOff (a : W32) : Nat := a.toNat % 2 ^ 14
/-- The core and place of the cluster peer with an index (R193). -/
def State.peer (s : State) (c t cidx : Nat) : Option (Nat × Nat) :=
  let tm := s.team c t
  (s.teamsOf (fun _ x => x.launch == tm.launch && x.placed == tm.placed && x.clu == cidx)).head?
/-- Where a scratch address of a team leads; none for the faults of R218. -/
def State.scratchLoc (s : State) (c t : Nat) (a : W32) : Option Loc :=
  let tm := s.team c t
  if bits a.toNat 25 7 != 0 then none
  else if saDs a then
    if saCidx a < tm.cx * tm.cy then
      match s.peer c t (saCidx a) with
      | some (c', t') => if ((s.team c' t').bankOf (saWin a)).isSome then some (.dist a) else none
      | none => none
    else none
  else if saCidx a != 0 then none
  else (tm.bankOf (saWin a)).map (fun b => .own b (saOff a))
/-- The core and bank a distributed address reaches now. -/
def State.distBank (s : State) (c t : Nat) (a : W32) : Option (Nat × Nat) :=
  match s.peer c t (saCidx a) with
  | some (c', t') => ((s.team c' t').bankOf (saWin a)).map (fun b => (c', b))
  | none => none
/-- The words an access of n bytes touches. -/
def wordsOf (off n : Nat) : List Nat := (upto ((off % 4 + n + 3) / 4)).map (fun i => off / 4 + i)
/-- n bytes of a bank from an offset as a number (R3). -/
def Core.scrNum (x : Core) (bank off n : Nat) : Nat :=
  let ws := wordsOf off n
  (ws.foldr (fun w acc => (x.word bank w).data.toNat + 2 ^ 32 * acc) 0) / 2 ^ (8 * (off % 4)) % 2 ^ (8 * n)
/-- Bytes written to a bank, tags unchanged (R224). -/
def Core.scrPut (x : Core) (bank off n v : Nat) : Core :=
  let ws := wordsOf off n
  let lo := 8 * (off % 4)
  let old := ws.foldr (fun w acc => (x.word bank w).data.toNat + 2 ^ 32 * acc) 0
  let new := old / 2 ^ (lo + 8 * n) * 2 ^ (lo + 8 * n) + v % 2 ^ (8 * n) * 2 ^ lo + old % 2 ^ lo
  ws.foldl (fun x w => x.setWord bank w { x.word bank w with data := BitVec.ofNat 32 (new / 2 ^ (32 * (w - off / 4))) }) x
/-- Some word of the range has S set (R224). -/
def Core.special (x : Core) (bank off n : Nat) : Bool := (wordsOf off n).any (fun w => (x.word bank w).sp)
/-- A pair is a latch word, or a barrier word (R223). -/
def Core.isLatch (x : Core) (bank w : Nat) : Bool := w % 2 == 0 && (x.word bank w).sp && (x.word bank (w + 1)).sp
def Core.isBar (x : Core) (bank w : Nat) : Bool := w % 2 == 0 && (x.word bank w).sp && !(x.word bank (w + 1)).sp

/-! ## L1 sectors (R239, R249) -/

/-- The sector a place lies in, as the caches number it: HBM by physical address, the rest by system
fabric address (R240). -/
def locKey : Loc → Option Nat
  | .home p => some (p / 32)
  | .pool a => some ((2 ^ 64 + a) / 32)
  | .far a _ => some ((2 ^ 64 + a) / 32)
  | _ => none
def keyFar (k : Nat) : Bool := 2 ^ 59 ≤ k
def keySfa (k : Nat) : Nat := k * 32 - 2 ^ 64
/-- The caching class a sector is kept with; 4 for a pool-placed page. -/
def locRcc : Loc → Nat
  | .pool _ => 4
  | .far _ r => r
  | _ => 0
/-- The bytes of a sector marked in a mask, as runs of offset and bytes. -/
def maskRuns (data : BitVec 256) (m : BitVec 32) : List (Nat × List Byte) :=
  ((upto 32).foldr (fun i (acc : List (Nat × List Byte)) =>
    if m.getLsbD i then
      let b : Byte := data.extractLsb' (8 * i) 8
      match acc with
      | (j, bs) :: rest => if j == i + 1 then (i, b :: bs) :: rest else (i, [b]) :: (j, bs) :: rest
      | [] => [(i, [b])]
    else acc) [])
def State.l1Get (s : State) (c k : Nat) : Option Sector := tget none (s.core c).l1 k
def State.l1Set (s : State) (c k : Nat) (x : Option Sector) : State :=
  s.setCore c { s.core c with l1 := tput none (s.core c).l1 k x }

/-- Runs of bytes sent to the source of a remote or pool sector (R52). -/
def State.sendRuns (s : State) (c func sfa : Nat) (runs : List (Nat × List Byte)) : State :=
  runs.foldl (fun s r => s.sendReq (pkWrite (s.coreHdr c func) (sfa + r.1) r.2) (.evict c)) s
/-- The marked bytes of an L1 sector written to its home (R249): HBM, the home slice's sector, or the source. -/
def State.sectorHome (s : State) (c k : Nat) (x : Sector) : State :=
  let runs := maskRuns x.data x.dirty
  if !keyFar k then runs.foldl (fun s r => s.homeWrite (k * 32 + r.1) r.2) s
  else
    let sfa := keySfa k
    let merge (s : State) (dirty : Bool) : State :=
      match tget none s.l2 (sfa / 32) with
      | some y => s.l2Put sfa (runs.foldl (fun y r => y.put r.1 r.2.length (leNat r.2) dirty) y)
      | none => s
    if x.rcc == 1 then (merge s false).sendRuns c x.func sfa runs
    else match tget none s.l2 (sfa / 32) with
      | some _ => merge s true
      | none => s.sendRuns c x.func sfa runs
/-- One L1 sector written back when dirty, and kept clean or removed. -/
def State.l1Back (s : State) (c k : Nat) (drop : Bool) : State :=
  match s.l1Get c k with
  | none => s
  | some x =>
    let s := if x.dirty == 0 then s else s.sectorHome c k x
    s.l1Set c k (if drop then none else some { x with dirty := 0 })
/-- The set of L1 a sector's line lies in, and the lines of the core's L1 in that set (R239). -/
def l1SetOf (k : Nat) : Nat := k / 4 % 128
def State.l1Lines (s : State) (c k : Nat) : List Nat :=
  distinct (((s.core c).l1.filter (fun e => l1SetOf e.1 == l1SetOf k)).map (fun e => e.1 / 4))
/-- The banks of a core that are cache ways no SHUT in progress takes: the others refuse lines and answer no hits (R221). -/
def Core.cacheWays (x : Core) : List Nat :=
  (upto 32).filter (fun b => x.shut.getD b .cache == .cache && !x.flips.any (fun e => e.begun && !e.giveUp && e.bank == b))
/-- The ways of a core's L1. -/
def Core.ways (x : Core) : Nat := x.cacheWays.length
/-- A line of L1 written back and removed. -/
def State.l1Evict (s : State) (c line : Nat) : State := (upto 4).foldl (fun s i => s.l1Back c (line * 4 + i) true) s
/-- A sector put into L1; where its set has no way left for its line, another line leaves, the choice of which is not
visible to programs. -/
def State.l1Add (s : State) (c k : Nat) (x : Sector) : State :=
  let ls := s.l1Lines c k
  let s := if ls.contains (k / 4) || decide (ls.length < (s.core c).ways) then s
    else match ls with
      | line :: _ => s.l1Evict c line
      | [] => s
  s.l1Set c k (some x)
/-- Lines that L1 has no way for leave it, once a bank is taken for scratch or a FIFO (R221). -/
def State.l1Trim (s : State) (c : Nat) : State :=
  (distinct ((s.core c).l1.map (fun e => e.1 / 4))).foldl (fun s line =>
    if (s.core c).ways < (s.l1Lines c (line * 4)).length then s.l1Evict c line else s) s
/-- Every L1 sector of a core written back, and kept clean or removed (R254). -/
def State.l1Flush (s : State) (c : Nat) (drop : Bool) : State :=
  (s.core c).l1.foldl (fun s e => s.l1Back c e.1 drop) s
/-- A home-slice sector written back when dirty, and kept clean or removed. -/
def State.l2Back (s : State) (c i : Nat) (drop : Bool) : State :=
  match tget none s.l2 i with
  | none => s
  | some x =>
    let s := if x.dirty == 0 then s else s.sendRuns c x.func (i * 32) (maskRuns x.data x.dirty)
    { s with l2 := tput none s.l2 i (if drop then none else some { x with dirty := 0 }) }
/-- The home slice of a line (R240): the XOR of the 8-bit slices of location address bits 59:7. -/
def xorSlices : Nat → Nat → Nat
  | 0, _ => 0
  | n + 1, x => (x % 256) ^^^ xorSlices n (x / 256)
def sliceOf (line : Nat) : Nat := xorSlices 7 (line % 2 ^ 53)
/-- Sectors of a home slice of 1 MiB (R1). -/
def sliceSectors : Nat := 32768
/-- Room for a sector a home slice does not hold: a full slice writes one back and drops it. -/
def State.l2Room (s : State) (i : Nat) : State :=
  if s.l2.length < sliceSectors || (tget none s.l2 i).isSome then s
  else
    let mine := s.l2.filter (fun e => sliceOf (e.1 / 4) == sliceOf (i / 4))
    if mine.length < sliceSectors then s
    else match mine with
      | e :: _ => s.l2Back 0 e.1 true
      | [] => s
/-- The home-slice sectors that satisfy p written back, and kept clean or removed. -/
def State.l2Flush (s : State) (c : Nat) (p : Nat → Sector → Bool) (drop : Bool) : State :=
  s.l2.foldl (fun s e => match e.2 with
    | some x => if p e.1 x then s.l2Back c e.1 drop else s
    | none => s) s

/-! ## Cache actions (R254) -/

/-- The remote lines of a context. -/
def ctxRemote (f ctx : Nat) (x : Sector) : Bool := x.func == f && x.ctx == ctx && (x.rcc == 1 || x.rcc == 2)
/-- The records of a team narrower than a scope are cleared (R261). -/
def State.syncClear (s : State) (c t : Nat) (below : Nat) : State :=
  { s with sync := s.sync.filter (fun e => match e.2 with
      | some r => r.remote || !(r.core == c && r.team == t && decide (r.scope.code.toNat < below))
      | none => false) }
/-- The cache actions and record clearing of a release fence. -/
def State.releaseActs (s : State) (c p : Nat) (scope : Scope) : State :=
  let g := s.group c p
  let tm := s.team c g.team
  let s := if 2 ≤ scope.code.toNat then s.l1Flush c false else s
  let s := if scope == .system then s.l2Flush c (fun _ x => ctxRemote tm.func tm.ctx x && x.rcc == 2) false else s
  s.syncClear c g.team scope.code.toNat
/-- The cache actions of an acquire fence. -/
def State.acquireActs (s : State) (c p : Nat) (scope : Scope) : State :=
  let tm := s.team c (s.group c p).team
  let s := if 2 ≤ scope.code.toNat then s.l1Flush c true else s
  if scope == .system then s.l2Flush c (fun _ x => ctxRemote tm.func tm.ctx x) true else s

/-! ## Sync line records (R261 to R264) -/

/-- The line of a place (R261). -/
def locLine (l : Loc) : Option Nat := (locKey l).map (· / 4)
/-- The instance of a's access includes b's party (R245, R263). -/
def SyncRec.includes (a b : SyncRec) : Bool :=
  match a.scope with
  | .plain => false
  | .team => a.remote == b.remote && a.core == b.core && a.team == b.team && (!a.remote || a.vdn == b.vdn)
  | .cluster => a.remote == b.remote && (if a.remote then a.vdn == b.vdn && a.sclu == b.sclu else a.cl == b.cl)
  | .device => a.remote == b.remote && (!a.remote || a.vdn == b.vdn)
  | .system => true
/-- An access mismatches the record of its line (R262). -/
def State.syncBad (s : State) (line : Nat) (r : SyncRec) : Bool :=
  match tget none s.sync line with
  | none => false
  | some o => !(r.includes o && o.includes r)
/-- The least recently updated record of a slice. -/
def oldestRec (t : Tbl (Option SyncRec)) (slice : Nat) : Option (Nat × Nat) :=
  t.foldl (fun acc e => match e.2 with
    | some r => if sliceOf e.1 == slice then
        (match acc with
          | some (_, st) => if r.stamp < st then some (e.1, r.stamp) else acc
          | none => some (e.1, r.stamp)) else acc
    | none => acc) none
/-- The record of an access that does not mismatch; a full slice drops its oldest (R264). -/
def State.syncSet (s : State) (line : Nat) (r : SyncRec) : State :=
  let have_ := (tget none s.sync line).isSome
  let full := decide (4096 ≤ (s.sync.filter (fun e => sliceOf e.1 == sliceOf line)).length)
  let s := if !have_ && full then
      match oldestRec s.sync (sliceOf line) with
      | some (k, _) => { s with sync := tput none s.sync k none, syncDrop := satInc s.syncDrop }
      | none => s
    else s
  { s with sync := tput none s.sync line (some { r with stamp := s.syncStamp }), syncStamp := s.syncStamp + 1 }
/-- The record of a group's own access. -/
def State.recOf (s : State) (c p : Nat) (scope : Scope) : SyncRec :=
  let g := s.group c p
  let tm := s.team c g.team
  { scope, vdn := (s.func tm.func).vdn, core := c, team := g.team, sclu := tm.origin, cl := tm.placed, remote := false, stamp := 0 }

/-! ## Atomics (R426) -/

/-- RED opcodes named as the ATOM that computes alike. -/
def aopOf (op : BitVec 8) : Nat :=
  let n := op.toNat
  if 0x58 ≤ n then n - 0x0E else if 0x50 ≤ n then n - 0x10 else n
/-- The new value of an atomic from the old one, b and the swap value. -/
def atomNew (op : BitVec 8) (bytes old b sw : Nat) : Nat :=
  let w := 8 * bytes
  let F := if bytes == 4 then f32 else f64
  match aopOf op with
  | 0x40 => (old + b) % 2 ^ w
  | 0x41 => if old = b then old else if (old < b) != ((old ^^^ b) / 2 ^ (w - 1) == 1) then old else b
  | 0x42 => if old = b then old else if (old < b) != ((old ^^^ b) / 2 ^ (w - 1) == 1) then b else old
  | 0x43 => min old b
  | 0x44 => max old b
  | 0x45 => old &&& b
  | 0x46 => old ||| b
  | 0x47 => old ^^^ b
  | 0x48 => b
  | 0x49 => if old = b then sw else old
  | 0x4A =>
    match fsum [F.val old, F.val b] with
    | (v, _) => (F.arith rmNear 0 0 v).bits
  | 0x4B => F.minmax false old b
  | 0x4C => F.minmax true old b
  | _ => if b ≤ old then 0 else old + 1

end Sys2Proof.Machine
end

