-- ==== Sys2Proof/Machine/Contain.lean ====
section
/-! DEFINITION. Sequencer messages (R75, R76), the start of a function reset (R106 to R108), and the
containment of uncorrectable errors (R143 to R147). -/

namespace Sys2Proof.Machine

/-! ## Sequencer messages -/

/-- The two body units of a sequencer message (R76). -/
def seqBody (m : SeqMsg) : List Byte :=
  leBytes 8 (m.term.toNat * 2 ^ 48 + m.comm.toNat * 2 ^ 32 + m.tag.toNat) ++
  leBytes 8 (m.num.toNat * 2 ^ 32 + m.prev.toNat) ++
  leBytes 8 (m.result.toNat * 2 ^ 56 + m.rank.toNat * 2 ^ 40 + (if m.first then 2 ^ 39 else 0)) ++ leBytes 8 0
/-- A sequencer message as a packet; SGRP is 1 from a sequencer (R75). -/
def seqPacket (op : Byte) (seqr : Bool) (m : SeqMsg) : Packet :=
  { op := op.setWidth 6, daddr := m.dvdn ++ (0 : BitVec 44), svdn := m.svdn, score := 576, sclu := 576
    sgrp := if seqr then 1 else 0, len := 2, data := seqBody m }
/-- The fields of a received body (R76). -/
def seqMsgOf (p : Packet) : SeqMsg :=
  let w (i : Nat) : Nat := leNat ((p.data.drop (8 * i)).take 8)
  { svdn := p.svdn, dvdn := BitVec.ofNat 16 p.vdn, term := BitVec.ofNat 16 (w 0 / 2 ^ 48), comm := BitVec.ofNat 16 (w 0 / 2 ^ 32)
    tag := BitVec.ofNat 32 (w 0), num := BitVec.ofNat 32 (w 1 / 2 ^ 32), prev := BitVec.ofNat 32 (w 1)
    result := BitVec.ofNat 8 (w 2 / 2 ^ 56), rank := BitVec.ofNat 16 (w 2 / 2 ^ 40), first := bitOf (w 2) 39 }
/-- A sequencer message of this device, from a function of it (R51). -/
def State.seqPkt (s : State) (op : Byte) (seqr : Bool) (m : SeqMsg) : Packet :=
  { seqPacket op seqr m with sfunc := BitVec.ofNat 6 ((s.partOf m.svdn.toNat).getD 0) }
/-- Messages that expect an answer are kept and sent again until it comes (R77). -/
def seqExpects (op : Byte) (m : SeqMsg) : Bool :=
  op == 0x10 || (op == 0x11 && m.result != 0x03) || op == 0x13 || op == 0x15 || op == 0x17 || op == 0x19
/-- A sequencer message sent, and kept while it expects an answer. -/
def State.seqSend (s : State) (op : Byte) (seqr : Bool) (m : SeqMsg) : State :=
  let s := s.sendMsg 5 (s.seqPkt op seqr m)
  if seqExpects op m && !s.unanswered.contains (op, m) then { s with unanswered := s.unanswered ++ [(op, m)] } else s
/-- The rank of a VDN in a communicator (R70). -/
def State.rankOf (s : State) (comm vdn : BitVec 16) : Option Nat :=
  let ms := tget [] s.comms comm.toNat
  if ms.contains vdn then some (ms.idxOf vdn) else none
/-- A message of this device's engine to the primary for a function's member. -/
def State.engineMsg (s : State) (f : Nat) (op : Byte) (comm : BitVec 16) (tag num : W32) (result : Byte) : State :=
  let me := (s.func f).vdn
  let ranked := op == 0x10 || op == 0x13 || op == 0x15 || op == 0x17
  let keyed := op == 0x10 || op == 0x15
  s.seqSend op false { svdn := me, dvdn := s.seq.cePrimary, term := s.ceTerm, comm := if keyed then comm else 0
                       tag := if keyed then tag else 0, num, result
                       rank := if ranked then BitVec.ofNat 16 ((s.rankOf comm me).getD 0) else 0 }

/-- Teams terminated whose cores are scrubbed once they end (R107, R144, R183). -/
def State.termScrub (s : State) (ts : List (Nat × Nat)) : State :=
  ts.foldl (fun s x => (s.termTeam x.1 x.2).setCore x.1 { (s.termTeam x.1 x.2).core x.1 with toScrub := true }) s

/-! ## Function reset (R106 to R108) -/

/-- The launches of a function end without a retirement, its saved teams and graphs with them; queue 64, which no
function has, stands for the command that is gone. -/
def State.dropLaunches (s : State) (f : Nat) : State :=
  let ids := (s.launches.filter (fun l => l.func == f)).map (·.id)
  { s with
    launches := s.launches.map (fun l => if l.func == f then { l with next := l.total, saved := [], owner := .queue f 64 0 } else l)
    savedTeams := s.savedTeams.filter (fun t => !ids.contains t.launch)
    graphs := s.graphs.filter (fun g => g.func != f) }
/-- Every CTE descriptor of a function's groups is abandoned (R107), and its group's cp falls. -/
def State.dropEngines (s : State) (f : Nat) : State :=
  s.cores.foldl (fun s e =>
    e.2.cte.foldl (fun s y => match y.2 with
      | some d =>
        let g := s.group e.1 d.gs
        if (s.team e.1 g.team).func == f then
          (s.setGroup e.1 d.gs { g with cp := g.cp - 1 }).setCore e.1 { s.core e.1 with cte := tput none (s.core e.1).cte y.1 none }
        else s
      | none => s) s) s
/-- The function's collectives: those not begun are cancelled, and each is taken part in without it (R108). -/
def State.orphanKeys (s : State) (f : Nat) : State :=
  let mine := s.keys.filter (fun k => k.func == f)
  let s := s.mapKey (fun k => k.func == f) (fun k => { k with orphan := true })
  mine.foldl (fun s k => if k.begun then s else s.engineMsg f 0x15 k.comm k.tag 0 0) s
/-- Steps 1 and 2 of a function reset (R107). -/
def State.flrStart (s : State) (f : Nat) : State :=
  let fn := s.func f
  let qs := fn.queues.map (fun e => (e.1, { e.2 with cmds := e.2.cmds.filter (fun c => c.started) }))
  let s := { s.setFunc f { fn with flr := true, fetchOff := true, queues := qs } with owed := s.owed.filter (fun o => o.func != f) }
  let s := s.termScrub (s.teamsOf (fun _ t => t.func == f))
  ((s.dropLaunches f).dropEngines f).orphanKeys f

/-! ## Containment -/

/-- Containment classes of R144. -/
inductive ErrClass where
  | team | context | partition | device
  deriving DecidableEq, Repr
/-- The class of data under a translation (R143). -/
def classOf (own : Nat) (priv : Bool) : ErrClass :=
  if own == 2 then .device else if own == 1 then .partition else if priv then .team else .context
/-- One class higher, for a lost dirty line (R145). -/
def ErrClass.up : ErrClass → ErrClass
  | .team => .context | .context => .partition | _ => .device
def ErrClass.code : ErrClass → Nat
  | .team => 0 | .context => 1 | .partition => 2 | .device => 3
/-- An uncorrectable error counted, and logged unless the log holds one (R147). -/
def State.mecError (s : State) (src : Nat) (whereAt : W32) (cls : ErrClass) (lost patrol : Bool) (f : Nat) : State :=
  let s := { s with mecUe := satInc s.mecUe }
  if s.mecLogB.getLsbD 31 then s
  else
    let b := 2 ^ 31 + src % 8 * 2 ^ 28 + cls.code * 2 ^ 26 + (if lost then 2 ^ 25 else 0) +
      (if patrol then 2 ^ 24 else 0) + f % 64 * 2 ^ 16
    { s with mecLogA := whereAt, mecLogB := BitVec.ofNat 32 b }.record 0x16000C 0x80000000
/-- The saved teams of a context are gone, with what their launches would have restored. -/
def State.dropSaved (s : State) (f ctx : Nat) : State :=
  let gone := s.savedTeams.filter (fun t => t.team.func == f && t.team.ctx == ctx)
  { s with
    savedTeams := s.savedTeams.filter (fun t => !(t.team.func == f && t.team.ctx == ctx))
    launches := s.launches.map (fun l => { l with saved := l.saved.filter (fun k => !gone.any (fun t => t.launch == l.id && t.set == k)) }) }
/-- The actions of R144 for an error consumed by a group or engine of a core, or by the firmware, which has no team. -/
def State.contain (s : State) (cls : ErrClass) (who : Option (Nat × Nat)) (f ctx : Nat) (va : W64) : State :=
  let rec_ (s : State) (kind : Nat) : State :=
    match who with
    | some (c, p) => s.ringWrite f ctx (.group c p) va.toNat (recWord1 kind false 0 0 ctx f c p) 0 0
    | none => s.ringWrite f ctx (.copy f 64 0) va.toNat (recWord1 kind false 0 0 ctx f Config.haspScore.toNat 0) 0 0
  match cls with
  | .team => rec_ (s.termScrub (match who with | some (c, p) => [(c, (s.group c p).team)] | none => [])) 0x10
  | .context =>
    let s := (s.termScrub (s.teamsOf (fun _ t => t.func == f && t.ctx == ctx))).dropSaved f ctx
    let fn := s.func f
    let qs := fn.queues.map (fun e => (e.1,
      if bits e.2.cfg.toNat 16 8 == ctx then { e.2 with cfg := e.2.cfg &&& 0x7FFFFFFF } else e.2))
    rec_ (s.setFunc f { fn with queues := qs }) 0x11
  | .partition => (s.flrStart f).record 0x16000C s.mecLogB
  | .device =>
    let s := (upto 64).foldl (fun s f => if (s.func f).part then s.flrStart f else s) s
    { s with boot := { s.boot with halt := .fatal } }.emit (.report 0x1440)

/-- The bytes of a sector of HBM cannot be corrected (R142). -/
def State.poisoned (s : State) (pa n : Nat) : Bool :=
  (upto (n / 32 + 2)).any (fun i => decide (pa / 32 + i ≤ (pa + n - 1) / 32) && (s.poison.contains (pa / 32 + i) || s.weak.contains (pa / 32 + i)))
/-- A group consumes an uncorrectable sector through a translation: logged and contained. -/
def State.consume (s : State) (c p pa own : Nat) (priv : Bool) (va : W64) : State :=
  let tm := s.team c (s.group c p).team
  let cls := classOf own priv
  (s.mecError 0 (BitVec.ofNat 32 (pa / 256)) cls false false tm.func).contain cls (some (c, p)) tm.func tm.ctx va
/-- The firmware, or the collective engine, consumes one. -/
def State.fwConsume (s : State) (f ctx pa own : Nat) (priv : Bool) (va : W64) : State :=
  let cls := classOf own priv
  (s.mecError 0 (BitVec.ofNat 32 (pa / 256)) cls false false f).contain cls none f ctx va
/-- An error that arises in storage (R141, R142): counted where it is correctable; data of a team are contained with the
team (R143), those of the firmware with the device. -/
def State.memErr (s : State) : MemErr → State
  | .corrected => { s with mecCe := satInc s.mecCe 1 }
  | .sector k => if decide (k < 2 ^ 35) && !s.poison.contains k && !s.weak.contains k then { s with weak := k :: s.weak } else s
  | .used src c p place =>
    let tm := s.team c (s.group c p).team
    if src == 5 then (s.mecError 5 place .device false false 0).contain .device none 0 0 0
    else if !(s.group c p).live || !(src == 2 || src == 3 || src == 4) then s
    else (s.mecError src.toNat (BitVec.ofNat 32 c) .team false false tm.func).contain .team (some (c, p)) tm.func tm.ctx 0

end Sys2Proof.Machine
end

