-- ==== Sys2Proof/Machine/Fetch.lean ====
section
/-! DEFINITION. Profiling counts (R302), translations as a word finds them at issue (R125, R126, R130, R131), and reading code
(R307, R317, R320 to R325). -/

namespace Sys2Proof.Machine

/-! ## Rights, and what is counted for a context (R290, R302) -/

def rHALT : Nat := 0
def rREAD : Nat := 1
def rEDIT : Nat := 2
def rTRACE : Nat := 3
def rPROF : Nat := 4
def rREPLAY : Nat := 5
/-- A context of a function holds a right (R290). -/
def State.right (s : State) (f ctx r : Nat) : Bool :=
  match (s.func f).probex.rights with
  | some (c, b) => c == ctx && b.getLsbD r
  | none => false
/-- The function holds a right for whatever context it was given. -/
def State.holds (s : State) (f r : Nat) : Bool :=
  match (s.func f).probex.rights with
  | some (_, b) => b.getLsbD r
  | none => false
def State.setProbex (s : State) (f : Nat) (x : Probex) : State := s.setFunc f { s.func f with probex := x }
/-- A profiling event counted for a context that holds PROF, saturating (R302). -/
def State.pcount (s : State) (f ctx event n : Nat) : State :=
  if n == 0 || !s.right f ctx rPROF then s
  else
    let x := (s.func f).probex
    let counts := (upto 4).foldl (fun t i =>
      if bits x.pcntSel.toNat (4 * i) 4 == event then
        tput 0 t i (BitVec.ofNat 64 (min ((tget 0 t i).toNat + n) (2 ^ 64 - 1)))
      else t) x.pcnt
    s.setProbex f { x with pcnt := counts }
/-- An event counted for a group's context. -/
def State.pcountG (s : State) (c p event n : Nat) : State :=
  let tm := s.team c (s.group c p).team
  s.pcount tm.func tm.ctx event n
/-! ## Translations at issue -/

/-- The translation of a page as the group of a core finds it. -/
def State.xlOf (s : State) (c p : Nat) (va : W64) (access : Nat) : Option TlbEntry :=
  let tm := s.team c (s.group c p).team
  s.tlbFind c tm.func tm.ctx (va.toNat / 65536) access
/-- A walk a group waits for: a pending walk of the page is joined, whatever its access (R126); va is the first sector of
the page it needs. -/
def State.askWalk (s : State) (c p : Nat) (va access : Nat) : State :=
  let tm := s.team c (s.group c p).team
  let page := va / 65536
  let w : Walk := { func := tm.func, ctx := tm.ctx, page, access }
  let d := coreDie c
  let ws := tget [] s.walks d
  let s := if ws.any (fun y => y.func == w.func && y.ctx == w.ctx && y.page == w.page) then s
    else ({ s with walks := tput [] s.walks d (ws ++ [w]) } : State).pcount tm.func tm.ctx 11 1
  let co := s.core c
  let q := (tm.func, tm.ctx, page)
  let s := if co.missq.contains q then s else s.setCore c { co with missq := co.missq ++ [q] }
  let g := s.group c p
  s.setGroup c p { g with miss := if g.miss.contains (va, access) then g.miss else g.miss ++ [(va, access)] }
/-- The first sectors, one for each page, of a list of addresses with no translation for the access. -/
def State.missing (s : State) (c p : Nat) (access : Nat) (vas : List W64) : List Nat :=
  vas.foldl (fun acc va =>
    if (s.xlOf c p va access).isSome || acc.any (fun a => a / 65536 == va.toNat / 65536) then acc
    else acc ++ [va.toNat / 32 * 32]) []
/-- The group waits for the walks of pages; one more page than its core's miss queue holds is not asked for (R126). -/
def State.awaitPages (s : State) (c p : Nat) (access : Nat) (vas : List Nat) : State :=
  let tm := s.team c (s.group c p).team
  vas.foldl (fun s va =>
    if 32 ≤ (s.core c).missq.length && !(s.core c).missq.contains (tm.func, tm.ctx, va / 65536) then s
    else s.askWalk c p va access) s
/-- The page, and the kind of fault, of a missing translation whose time is over (R131). -/
def State.expiredAt (s : State) (c p access : Nat) (vas : List Nat) : Option (Nat × Nat) :=
  match (s.group c p).park with
  | some k =>
    if k.expired && k.flt.access == access && vas.any (fun a => a / 65536 == k.flt.va.toNat / 65536) then
      some (k.flt.va.toNat / 65536, k.flt.kind.toNat)
    else none
  | none => none

/-! ## Code (R317, R323, R325) -/

/-- Eight bytes of code: read, to be waited for, not translated with a kind of fault, refused with a status, or lost to
an uncorrectable error. -/
inductive Code where
  | word (w : W64)
  | wait (s : State)
  | xfault (kind : Nat)
  | refused (status : Byte)
  | lost (s : State)

/-- The word of code at an address, through the translation for fetch. -/
def State.codeAt (s : State) (c p : Nat) (va : W64) : Code :=
  if va.toNat / 2 ^ 55 != 0 then .xfault kRange.toNat
  else match s.xlOf c p va 3 with
  | none =>
    let a := va.toNat / 32 * 32
    match s.expiredAt c p 3 [a] with
    | some (_, k) => .xfault k
    | none => .wait (s.awaitPages c p 3 [a])
  | some e =>
    match e.loc.add (va.toNat % 65536) with
    | .home pa =>
      if s.poisoned pa 8 then .lost (s.consume c p pa e.own e.priv va)
      else .word (BitVec.ofNat 64 (s.homeNum pa 8))
    | .pool a | .far a _ =>
      match s.l2Num a 8 with
      | some x => .word (BitVec.ofNat 64 x)
      | none =>
        let sfa := a / 32 * 32
        let busy := s.streams.any (fun x => (x.out ++ x.queue).any (fun y => match y.2 with
          | .fill .. => y.1.daddr.toNat == sfa
          | _ => false))
        if busy then .wait s
        else
          let ctx := (s.team c (s.group c p).team).ctx
          .wait (s.sendReq (pkRead (s.groupHdr c p 0 .plain) sfa 32) (.fill c p (2 ^ 40) 0 (locRcc e.loc) ctx))
    | .err st => .refused st
    | _ => .refused stAccess

/-- The word is a block header (R320). -/
def isHeader (w : W64) : Bool := wordF w == 0
def hdrLen (w : W64) : Nat := bits w.toNat 52 9
def hdrOrd (w : W64) : Nat := bits w.toNat 8 20
def hdrLvo (w : W64) : Nat := bits w.toNat 2 6
/-- The checks made on entering a block (R321). -/
def hdrOk (w : W64) : Bool := hdrLen w != 0 && decide (hdrLvo w ≤ 24) && bits w.toNat 0 2 == 0

/-- A word parks, is refused or traps because its target could not be read (R61, R317). -/
def State.noCode (s : State) : Code → Byte → Nat → W64 → Res
  | .wait s', _, _, _ => .hold 6 s'
  | .refused st, _, _, a => .hold 6 (s.setCg (s.cg.remoteFault st a.toNat))
  | .lost s', _, _, _ => .hold 6 s'
  | .xfault k, _, _, a => .trap cXlate k 0 a s
  | _, cause, info, a => .trap cause info 0 a s
/-- The check of a transfer's target: aligned, below 2^55 and holding a header, else the bad-branch-target
fault at the transferring word (R317, R323). -/
def State.target (s : State) (a : W64) (k : Res) : Res :=
  if a.toNat % 8 != 0 || a.toNat / 2 ^ 55 != 0 then .trap cBranch 0 0 a s
  else match s.codeAt s.cur.core s.cur.gs a with
  | .word w => if isHeader w then k else .trap cBranch 0 0 a s
  | other => s.noCode other cBranch 0 a

end Sys2Proof.Machine
end

