-- ==== Sys2Proof/Machine/Virtual.lean ====
section
/-! DEFINITION. Memory as the device's own agents reach it by virtual address (queues, records, engines),
and the Probex trace buffers (R295 to R298). -/

namespace Sys2Proof.Machine

/-! ## By virtual address -/

/-- What a read by virtual address gives: its bytes, with the state once they are used, a fault, a refusal, or a wait for
a sector. -/
inductive VaRes where
  | bytes (b : List Byte) (s : State)
  | fault (f : XlFault)
  | refused (status : Byte) (s : State)
  | wait (s : State)

/-- n bytes at a place, when this device holds them. -/
def State.locBytes (s : State) (l : Loc) (n : Nat) : Option (List Byte) :=
  match l with
  | .home pa => some (bytesAt s.mem pa n)
  | .pool a | .far a _ =>
    let parts := (upto n).map (fun i => s.l2Num (a + i) 1)
    if parts.all Option.isSome then some (parts.map (fun x => BitVec.ofNat 8 (x.getD 0))) else none
  | _ => none
/-- A fetch of a sector of the range has failed for the home slices: its status, told once (R146). -/
def State.lostFill (s : State) (l : Loc) (n : Nat) : Option (Byte × State) :=
  match l with
  | .pool a | .far a _ =>
    (s.fillLost.find? (fun e => decide (a / 32 ≤ e.1) && decide (e.1 ≤ (a + n - 1) / 32))).map (fun e =>
      (e.2, { s with fillLost := s.fillLost.filter (fun x => x.1 != e.1) }))
  | _ => none
/-- The sectors of a remote or pool range the home slices lack, asked of their source for a function. -/
def State.askSectors (s : State) (c f ctx : Nat) (l : Loc) (n : Nat) : State :=
  match l with
  | .pool a | .far a _ =>
    (upto (n / 32 + 2)).foldl (fun s i =>
      let k := a / 32 + i
      let busy := s.streams.any (fun x => (x.out ++ x.queue).any (fun y => match y.2 with
        | .fill .. | .evict _ => y.1.daddr.toNat / 32 == k
        | _ => false))
      if (a + n - 1) / 32 < k || (tget none s.l2 k).isSome || busy then s
      else s.sendReq (pkRead (s.coreHdr c f) (k * 32) 32) (.fill c 64 (2 ^ 40) 0 (locRcc l) ctx)) s
  | _ => s
/-- The sectors of a range. -/
def sectorsOf (a n : Nat) : List Nat := ((upto (n / 32 + 2)).map (fun i => a / 32 + i)).filter (fun k => decide (k ≤ (a + n - 1) / 32))
/-- A system-scope read of remote memory by the firmware (R105, R171, R247): a sector held from before is written back
and dropped, and each is asked of its source for this read. -/
def State.fwAsk (s : State) (f ctx : Nat) (a rcc n : Nat) : State :=
  (sectorsOf a n).foldl (fun s k =>
    let busy := s.streams.any (fun x => (x.out ++ x.queue).any (fun y => match y.2 with
      | .fill .. | .evict _ => y.1.daddr.toNat / 32 == k
      | _ => false))
    let mine := match tget none s.l2 k with | some x => x.fw | none => false
    let dirty := match tget none s.l2 k with | some x => x.dirty != 0 | none => false
    if mine || busy then s
    else if dirty then s.l2Back 0 k true
    else ({ s with l2 := tput none s.l2 k none }).sendReq (pkRead (s.coreHdr 0 f) (k * 32) 32) (.fill 0 65 (2 ^ 40) 0 rcc ctx)) s
/-- Every sector of a range has been fetched for the firmware's read; and they are used. -/
def State.fwHas (s : State) (a n : Nat) : Bool :=
  (sectorsOf a n).all (fun k => match tget none s.l2 k with | some x => x.fw | none => false)
def State.fwUsed (s : State) (l : Loc) (n : Nat) : State :=
  match l with
  | .far a _ => (sectorsOf a n).foldl (fun s k => s.l2Back 0 k true) s
  | _ => s
/-- What a run of bytes inside one 64 KiB page gives, and where it lies. -/
def State.pageRead (s : State) (f ctx : Nat) (va : W64) (n : Nat) : VaRes × Loc :=
  match (s.translate 0 f ctx va 0).1 with
  | .error (.fault x) => (.fault x, .err 0)
  | .error (.need sfa) => (.wait (s.askSectors 0 f ctx (.pool sfa) 8), .err 0)
  | .error .transit => (.wait s, .err 0)
  | .ok e =>
    if e.windowed 0 then (.fault { stage2 := true, level := 3, kind := kPerm, va, gpa := 0, access := 0 }, .err 0) else
    let l := e.loc.add (va.toNat % 65536)
    match l with
    | .err st => (.refused st s, l)
    | .far a rcc =>
      if s.fwHas a n then (.bytes ((s.locBytes l n).getD []) s, l)
      else (match s.lostFill l n with
        | some (st, t) => .refused st t
        | none => .wait (s.fwAsk f ctx a rcc n), l)
    | .pool _ => (match s.locBytes l n with
      | some b => .bytes b s
      | none => match s.lostFill l n with
        | some (st, t) => .refused st t
        | none => .wait (s.askSectors 0 f ctx l n), l)
    | .home pa =>
      if s.poisoned pa n then (.refused stUncorr (s.fwConsume f ctx pa e.own e.priv va), l) else (.bytes (bytesAt s.mem pa n) s, l)
    | _ => (.refused stAccess s, l)
/-- n bytes by virtual address, page after page; what they came from is used only once all are there. -/
def State.pagesRead (s : State) (f ctx : Nat) (va : W64) (n : Nat) : Nat → VaRes
  | 0 => .bytes [] s
  | fuel + 1 =>
    let m := min n (65536 - va.toNat % 65536)
    match s.pageRead f ctx va m with
    | (.bytes b _, l) =>
      if n ≤ m then .bytes b (s.fwUsed l m)
      else (match s.pagesRead f ctx (va + BitVec.ofNat 64 m) (n - m) fuel with
        | .bytes bs t => .bytes (b ++ bs) (t.fwUsed l m)
        | other => other)
    | (other, _) => other
/-- n bytes by virtual address of a context, read by the firmware at system scope (R105, R117, R171). -/
def State.vaRead (s : State) (f ctx : Nat) (va : W64) (n : Nat) : VaRes := s.pagesRead f ctx va n (n / 65536 + 2)

/-- A range of bytes in runs inside one sector, as offset from its start and bytes. -/
def sectorRuns (a : Nat) (bs : List Byte) : List (Nat × List Byte) :=
  (upto ((a % 32 + bs.length + 31) / 32)).map (fun i =>
    let lo := 32 * i - a % 32
    (lo, (bs.drop lo).take (32 * (i + 1) - a % 32 - lo)))
/-- Bytes written at a place at its home; a remote place by requests. -/
def State.locWrite (s : State) (c f : Nat) (l : Loc) (bs : List Byte) : State :=
  match l with
  | .home pa => s.homeWrite pa bs
  | .pool a | .far a _ =>
    let s := (upto bs.length).foldl (fun s i => match tget none s.l2 ((a + i) / 32) with
      | some x => s.l2Put (a + i) (x.put ((a + i) % 32) 1 (bs.getD i 0).toNat false)
      | none => s) s
    s.sendRuns c f a (sectorRuns a bs)
  | _ => s
/-- How a write by virtual address ends: made, faulting, or possible later, once a window is over (R136) or a sector of
a table has come (R123). -/
inductive VaPut where
  | done (s : State)
  | fault (x : XlFault)
  | later (s : State)
/-- A run of bytes written inside one 64 KiB page. -/
def State.pageWrite (s : State) (f ctx : Nat) (va : W64) (bs : List Byte) : VaPut :=
  match (s.translate 0 f ctx va 1).1 with
  | .ok e => if e.windowed 1 then .later s else .done (s.locWrite 0 f (e.loc.add (va.toNat % 65536)) bs)
  | .error (.need a) => .later (s.askSectors 0 f ctx (.pool a) 8)
  | .error .transit => .later s
  | .error (.fault x) => .fault x
/-- Bytes, at most two pages, written by virtual address of a context; nothing is written unless all can be. -/
def State.vaPut (s : State) (f ctx : Nat) (va : W64) (bs : List Byte) : VaPut :=
  let m := min bs.length (65536 - va.toNat % 65536)
  if bs.isEmpty then .done s
  else if m == bs.length then s.pageWrite f ctx va bs
  else match s.pageWrite f ctx (va + BitVec.ofNat 64 m) (bs.drop m) with
    | .done t => (match s.pageWrite f ctx va (bs.take m) with
      | .done _ => t.pageWrite f ctx va (bs.take m)
      | other => other)
    | other => other
/-- Bytes of the device's own written by virtual address: at once, or owed where that must wait; what faults is not
written (R291). -/
def State.devPut (s : State) (f ctx : Nat) (va : W64) (bs : List Byte) : State :=
  match s.vaPut f ctx va bs with
  | .done t => t
  | .fault _ => s
  | .later t => { t with owed := t.owed ++ [.put f ctx va bs none] }
/-- A stage-2 fault reported to Hasp once. -/
def State.toHasp (s : State) (t : XlTarget) (x : XlFault) : State :=
  if s.haspFaults.any (fun e => e.1 == t) then s else { s with haspFaults := s.haspFaults ++ [(t, x)] }
/-- Bytes of a command's or a graph's, written by virtual address: where they cannot be yet, or Hasp has to mend the
mapping (R133), they are owed; a stage-1 fault drops them. -/
def State.cmdPut (s : State) (who : XlTarget) (f ctx : Nat) (va : W64) (bs : List Byte) : State :=
  match s.vaPut f ctx va bs with
  | .done t => t
  | .fault x => if x.stage2 then { s.toHasp who x with owed := s.owed ++ [.put f ctx va bs (some who)] } else s
  | .later t => { t with owed := t.owed ++ [.put f ctx va bs (some who)] }

/-! ## What is owed (R102, R132, R136) -/

/-- A write of the device's own to remote memory is unanswered for a function. -/
def State.devWrites (s : State) (f : Nat) : Bool :=
  s.streams.any (fun x => (x.out ++ x.queue).any (fun y => match y.2 with
    | .evict 0 => y.1.sfunc.toNat == f
    | _ => false))
/-- One thing owed done, or still waiting. -/
def State.payOne (s : State) : Owed → Except State State
  | .ring f ctx who w0 w1 w2 w3 => match s.ringPut f ctx w0 w1 w2 w3 with
    | .wrote t => .ok t
    | .lost => .ok (s.ringLost f ctx who w0)
    | .later (some a) => .error (s.askSectors 0 f ctx (.pool a) 32)
    | .later none => .error s
  | .put f ctx va bs who => match s.vaPut f ctx va bs with
    | .done t => .ok t
    | .fault x => (match who with
      | some w => if x.stage2 then .error (s.toHasp w x) else .ok s
      | none => .ok s)
    | .later t => .error t
  | .msix f vec => if (s.func f).flr then .ok s else if s.devWrites f then .error s else .ok (s.msix f vec)
/-- What is owed is done as far as it can be, each function's in order. -/
def State.pay (s : State) : State :=
  (s.owed.foldl (fun (acc : State × List Nat) o =>
    let wait (t : State) : State × List Nat := ({ t with owed := t.owed ++ [o] }, o.func :: acc.2)
    if acc.2.contains o.func then wait acc.1
    else match acc.1.payOne o with
      | .ok t => (t, acc.2)
      | .error t => wait t) ({ s with owed := [] }, [])).1

/-! ## Walks (R125, R302) -/

/-- A die's caches of a walk, bounded by their sizes (R125). -/
def State.keepWalk (s : State) (d f : Nat) (reads : List (Nat × Nat)) (e : Option TlbEntry) : State :=
  let held := tget [] s.nwc d
  let new := (reads.filter (fun r => !held.any (fun x => x.1 == f && x.2.1 == r.1))).map (fun r => (f, r.1, BitVec.ofNat 64 r.2))
  let s := { s with nwc := tput [] s.nwc d ((new ++ held).take 512) }
  match e with
  | none => s
  | some e => match s.partOf (e.sfa / 2 ^ 44) with
    | some pf =>
      let page := e.sfa % 2 ^ 44 / 65536
      let held := tget [] s.pcache d
      if held.any (fun x => x.1 == pf && x.2.1 == page) then s
      else { s with pcache := tput [] s.pcache d (((pf, page, tget 0 (s.func pf).place page) :: held).take 1024) }
    | none => s
/-- A translation put into a die's L2 TLB (R125). -/
def State.l2tlbPut (s : State) (d : Nat) (e : TlbEntry) : State :=
  { s with l2tlb := tput [] s.l2tlb d (tlbPut e ((tget [] s.l2tlb d).filter (· != e))) }
/-- The translation of an engine's address: from the TLBs of a core and its die, or by a walk, which is counted for the
context (R125, R302). -/
def State.engXl (s : State) (c f ctx : Nat) (va : W64) (access : Nat) : Except XlStop TlbEntry × State :=
  match s.tlbFind c f ctx (va.toNat / 65536) access with
  | some e => (.ok e, s)
  | none =>
    let d := coreDie c
    let r := s.translate d f ctx va access
    match r.1 with
    | .ok e =>
      let t := (s.keepWalk d f r.2 (some e)).pcount f ctx 11 1
      (.ok e, if e.windowed access then t else t.l2tlbPut d e)
    | .error (.fault k) => (.error (.fault k), if !k.stage2 && k.level == 0 then s else (s.keepWalk d f r.2 none).pcount f ctx 11 1)
    | .error k => (.error k, s.keepWalk d f r.2 none)

/-! ## Trace buffers (R295 to R298) -/

/-- The team index of R296. -/
def State.teamIndex (s : State) (t : Team) : Nat :=
  match s.launches.find? (fun l => l.id == t.launch) with
  | some l => t.x + l.lrec.gx * (t.y + l.lrec.gy * t.z)
  | none => t.x

def tbEn (x : Probex) (b : Nat) : Bool := (tget 0 x.tbCtrl b).getLsbD 31
def tbStop (x : Probex) (b : Nat) : Bool := (tget 0 x.tbCtrl b).getLsbD 30
/-- Units of a buffer; a SIZE of 0 acts as 1. -/
def tbUnits (x : Probex) (b : Nat) : Nat := 128 * max 1 (tget 1 x.tbSize b)
def tbOff (x : Probex) (b : Nat) : Nat := (tget 0 x.tbWptr b).toNat % 2 ^ 30 / 32
/-- The write pointer moved, the ring closing at its end in wrap mode (R297). -/
def tbAdvance (x : Probex) (b n : Nat) : Probex :=
  let wrap_ := (tget 0 x.tbWptr b).getLsbD 31
  let o := tbOff x b + n
  let overAll := !tbStop x b && decide (tbUnits x b ≤ o)
  let v := (if overAll then o - tbUnits x b else o) * 32 + (if wrap_ != overAll then 2 ^ 31 else 0)
  { x with tbWptr := tput 0 x.tbWptr b (BitVec.ofNat 32 v) }
def tbLose (x : Probex) (b : Nat) : Probex := { x with tbLost := tput 0 x.tbLost b (satInc (tget 0 x.tbLost b)) }
/-- The bytes of a record: its header (R295) and a payload whose layout Config gives. -/
def recBytes (seq : W32) (type units : Nat) (fields : List Nat) : List Byte :=
  leBytes 8 (seq.toNat * 2 ^ 32 + (units - 1) * 2 ^ 24 + type * 2 ^ 16 + 0xC35A) ++
  (upto (units * 32 - 8)).map (fun i => if type == 0 then 0 else Config.recByte type fields i)
/-- A record placed at the write pointer, its space and number claimed first (R291, R297, R298). -/
def State.tbPlace (s : State) (f ctx b type units : Nat) (fields : List Nat) : State :=
  let x := (s.func f).probex
  let seq := tget 0 x.tbSeq b
  let va := tget 0 x.tbBase b + BitVec.ofNat 64 (32 * tbOff x b)
  let x' := tbAdvance { x with tbSeq := tput 0 x.tbSeq b (seq + 1) } b units
  match s.vaPut f ctx va (recBytes seq type units fields) with
  | .fault _ => s.setProbex f (tbLose { x' with tbCtrl := tput 0 x'.tbCtrl b (tget 0 x'.tbCtrl b ||| 0x20000000) } b)
  | _ => (s.devPut f ctx va (recBytes seq type units fields)).setProbex f x'
/-- One record of a type for a buffer (R296, R297); always says whether TYPES is not asked. -/
def State.tbRecord (s : State) (f ctx b type units : Nat) (fields : List Nat) (always_ : Bool) : State :=
  let x := (s.func f).probex
  if !tbEn x b || (!always_ && !(tget 0 x.tbCtrl b).getLsbD type) then s
  else if tbStop x b then
    let last := tbUnits x b - 1
    let o := tbOff x b
    if always_ then (if o ≤ last then s.tbPlace f ctx b type units fields else s.setProbex f (tbLose x b))
    else if tget false x.tbFull b then s.setProbex f (tbLose x b)
    else if o + units ≤ last then s.tbPlace f ctx b type units fields
    else
      let s := if o < last then s.tbPlace f ctx b 0 (last - o) [] else s
      let x := (s.func f).probex
      s.setProbex f (tbLose { x with tbFull := tput false x.tbFull b true } b)
  else
    let tail := tbUnits x b - tbOff x b
    let s := if tail < units then s.tbPlace f ctx b 0 tail [] else s
    s.tbPlace f ctx b type units fields
/-- A group's sample: ordinal, core, %grp, team index, %clk (R296). -/
def State.sampleOf (s : State) (c p ord : Nat) : List Nat :=
  let g := s.group c p
  [ord, c, g.grp, s.teamIndex (s.team c g.team), (s.core c).clk.toNat]
/-- The ordinal of the group's next word (R288). -/
def Group.ordinal (g : Group) : Nat := g.ord + g.nsp
/-- A group halts at its position (R292). -/
def State.halt (s : State) (c p : Nat) : State := s.setGroup c p { s.group c p with halted := true, held := none }
/-- A breakpoint, or BKPT as one, halts a group, and the halt is recorded (R291, R296). -/
def State.haltGroup (s : State) (c p : Nat) (bp : List Nat) (ord : Nat) : State :=
  let tm := s.team c (s.group c p).team
  (s.halt c p).tbRecord tm.func tm.ctx 0 2 1 (s.sampleOf c p ord ++ bp) false

end Sys2Proof.Machine
end

