-- ==== Sys2Proof/Machine/Control.lean ====
section
/-! DEFINITION. Control flow and system words: branches, structured divergence, exit and restart, SPAWN, WAIT,
hints, special registers and traps (R395 to R414, R203 to R207). -/

namespace Sys2Proof.Machine

/-- A word that traps as illegal while TM is 1 (R412). -/
def State.notInHandler (s : State) (k : Res) : Res := if s.cg.tm then .trap cIllegal 0 0 0 s else k

/-! ## Branches, calls and returns (R397, R398) -/

/-- The target of the OFS field. -/
def State.ofsTarget (s : State) (f : CForm) : W64 := s.cg.addr + f.ofs.signExtend 64 * 8
/-- A word whose OFS is checked, then goes to it or on (R317). -/
def State.branch (s : State) (f : CForm) (taken : Bool) : Res :=
  let a := s.ofsTarget f
  s.target a (if taken then .jump a s else .done s)
def opBra (f : CForm) (act : Lanes) (s : State) : Res := s.branch f (s.cg.uniGuard f.mask act)
/-- The active lanes whose test bit is 1. -/
def Group.tested (g : Group) (f : CForm) (act : Lanes) : Lanes := act &&& g.guardMask f.mask
def opBany (f : CForm) (act : Lanes) (s : State) : Res := s.branch f (s.cg.tested f act != 0)
def opBall (f : CForm) (act : Lanes) (s : State) : Res := s.branch f (s.cg.tested f act == act)
def opBnone (f : CForm) (act : Lanes) (s : State) : Res := s.branch f (s.cg.tested f act == 0)
/-- A transfer to the address in a scalar register. -/
def State.jumpReg (s : State) (f : CForm) (act : Lanes) : Res :=
  s.gate [(f.a, 2)] (s.cg.uniGuard f.mask act) (s.target (s.cg.sfld f.a) (.jump (s.cg.sfld f.a) s))
def opBrx (f : CForm) (act : Lanes) (s : State) : Res := s.jumpReg f act
def opRet (f : CForm) (act : Lanes) (s : State) : Res := s.jumpReg f act
def opCall (f : CForm) (act : Lanes) (s : State) : Res :=
  if s.cg.loadBusy [(f.a, 2)] then .hold 6 s
  else
    let a := s.ofsTarget f
    s.target a (if s.cg.uniGuard f.mask act then .jump a (s.setCg (s.cg.sput (sNum f.a) (s.cg.addr + 8))) else .done s)

/-! ## Structured divergence (R199, R400) -/

/-- A counter for each live lane; others keep theirs (R199). -/
def Group.setCtr (g : Group) (h : Nat → Nat) : Group :=
  { g with ctr := (laneList g.liveLanes).foldl (fun t l => tput 0 t l (h l)) g.ctr }
/-- The highest counter of a live lane under a change. -/
def Group.topCtr (g : Group) (h : Nat → Nat) : Nat := (laneList g.liveLanes).foldl (fun m l => max m (h l)) 0
/-- The highest counter of a launch is kept as MAXNEST (R199). -/
def State.noteNest (s : State) (n : Nat) : State :=
  let id := s.ct.launch
  { s with launches := s.launches.map (fun l => if l.id == id then { l with maxnest := max l.maxnest n } else l) }
/-- The counters changed by h, or the nesting-overflow trap; then what follows. -/
def State.nest (s : State) (h : Nat → Nat) (k : State → Res) : Res :=
  let top := s.cg.topCtr h
  if 255 ≤ top then .trap cNest 0 0 0 s else k ((s.setCg (s.cg.setCtr h)).noteNest top)
/-- A structured word with a skip: to its target when no lane is active (R400). -/
def State.nestSkip (s : State) (f : CForm) (h : Nat → Nat) : Res :=
  let a := s.ofsTarget f
  s.target a (s.nest h (fun s => if s.cg.liveLanes &&& s.cg.ctrZero == 0 then .jump a s else .done s))
def opIf (f : CForm) (s : State) : Res := s.notInHandler (
  let g := s.cg
  s.nestSkip f (fun l => if 0 < g.cget l then g.cget l + 1 else if lin (g.guardMask f.mask) l then 0 else 1))
def opElse (f : CForm) (s : State) : Res := s.notInHandler (
  let g := s.cg
  s.nestSkip f (fun l => if g.cget l = 0 then 1 else if g.cget l = 1 then 0 else g.cget l))
def opEndif (s : State) : Res := s.notInHandler (
  let g := s.cg
  s.nest (fun l => g.cget l - 1) .done)
def opLoop (f : CForm) (s : State) : Res := s.notInHandler (
  let g := s.cg
  s.nestSkip f (fun l => if 0 < g.cget l then g.cget l + 2 else 0))
def opBreak (f : CForm) (s : State) : Res := s.notInHandler (
  let g := s.cg
  s.nestSkip f (fun l => if g.cget l = 0 ∧ lin (g.guardMask f.mask) l then 2 else g.cget l))
def opCont (f : CForm) (s : State) : Res := s.notInHandler (
  let g := s.cg
  s.nest (fun l => if g.cget l = 0 ∧ lin (g.guardMask f.mask) l then 1 else g.cget l) .done)
/-- The counters ENDLOOP leaves: a continued lane is active again, and once none is, two levels are taken off. -/
def endloopCtr (again : Bool) (c : Nat) : Nat := if c ≤ 1 then 0 else if again then c else c - 2
def opEndloop (f : CForm) (s : State) : Res := s.notInHandler (
  let g := s.cg
  let again := (laneList g.liveLanes).any (fun l => decide (g.cget l ≤ 1))
  let a := s.ofsTarget f
  s.target a (s.nest (fun l => endloopCtr again (g.cget l)) (fun s => if again then .jump a s else .done s)))

/-! ## Exit and restart (R200, R203, R402) -/

def opExit (f : CForm) (act : Lanes) (s : State) : Res := s.notInHandler (
  .done (s.setCg { s.cg with exited := s.cg.exited ||| s.cg.execSet f.mask act }))

/-- The members a gang list names (R408). -/
def gangList (x : W64) : List Nat := (upto (x.toNat % 8)).map (fun i => bits x.toNat (8 + 5 * i) 5)
/-- The gang fault in every member waiting at a core's latch, which empties (R207, R443). -/
def State.gangFault (s : State) (c : Nat) : State :=
  let co := s.core c
  let s := s.setCore c { co with latch := {} }
  co.latch.arrivals.foldl (fun s a =>
    let g := s.group c a.gs
    let s := s.setGroup c a.gs { g with wait := none, tl := g.tl - 1 }
    s.takeTrap c a.gs cGang 0 false 0 0 g.pos) s
/-- A listed group that has not arrived ends or restarts: the waiting members fault (R207). -/
def State.gangLeave (s : State) (c p : Nat) : State :=
  let g := s.group c p
  let l := (s.core c).latch
  if !l.arrivals.isEmpty && l.team == g.team && (gangList l.list).contains g.grp && !l.arrivals.any (fun a => a.gs == p)
  then s.gangFault c else s

/-- The octets of the allotment whose keep bit is clear are zeroed (R203). -/
def Group.keepOctets (g : Group) (keep : Nat) : Group :=
  { g with v := g.v.filter (fun e => bitOf keep (e.1 / 256)) }
/-- The restart of R203, once the counters are zero. -/
def Group.restart (g : Group) (keep : Nat) : Group :=
  { g.keepOctets keep with exited := 0, ctr := [], xfm := 0, xfc := 0, vx := {} }
/-- The counters a group waits for, as a stall class (R294). -/
def Group.waitClass (g : Group) : Nat := if g.ld != 0 || g.st != 0 then 4 else 5
def opExits (f : CForm) (act : Lanes) (s : State) : Res := s.notInHandler (
  let a := s.ofsTarget f
  let g := s.cg
  s.target a (
    if !g.uniGuard f.mask act then .done s
    else if g.ld + g.st + g.cp + g.tl != 0 then .hold g.waitClass s
    else
      let keep := f.a.toNat * 65536 + f.b.toNat * 256 + f.imm.toNat
      .jump a ((s.setCg (g.restart keep)).gangLeave s.cur.core s.cur.gs)))

/-! ## SPAWN (R204, R205, R403) -/

/-- The live groups of a core, with their places. -/
def State.liveAt (s : State) (c : Nat) : List (Nat × Group) :=
  (s.placesOf c).map (fun p => (p, s.group c p))
/-- Live groups of a slot, and the registers they hold (R174). -/
def slotGroups (gs : List (Nat × Group)) (slot : Nat) : Nat := (gs.filter (fun e => e.1 / 16 == slot)).length
def slotRegs (gs : List (Nat × Group)) (slot : Nat) : Nat :=
  ((gs.filter (fun e => e.1 / 16 == slot)).map (fun e => e.2.nreg)).sum
/-- The slot a child goes to, when there is room (R204). -/
def State.roomFor (s : State) (c t nreg : Nat) : Option Nat :=
  let gs := s.liveAt c
  if 32 ≤ (gs.filter (fun e => e.2.team == t)).length || 64 ≤ gs.length then none
  else
    let ok := (upto 4).filter (fun x => decide (slotGroups gs x < 16) && decide (slotRegs gs x + nreg ≤ 1024))
    ok.foldl (fun best x => match best with
      | none => some x
      | some b => if slotGroups gs x < slotGroups gs b then some x else some b) none
/-- The lowest free place of a slot. -/
def State.freePlace (s : State) (c slot : Nat) : Option Nat :=
  ((upto 16).map (fun i => slot * 16 + i)).find? (fun p => !(s.group c p).live)
/-- The lowest %grp no live group of the team holds (R205). -/
def State.freeGrp (s : State) (c t : Nat) : Nat :=
  let used := ((s.liveAt c).filter (fun e => e.2.team == t)).map (fun e => e.2.grp)
  ((upto 32).find? (fun n => !used.contains n)).getD 0
/-- A group at its creation (R173, R205, R368). -/
def State.newGroup (s : State) (c p t role grp : Nat) (s0 s1 mode : W64) : State :=
  let tm := s.team c t
  let r := tm.roles.getD role {}
  let co := s.core c
  let g : Group :=
    { live := true, team := t, role, nreg := r.nreg, grp, age := co.nextAge, bornClk := co.clk, mode
      bhdr := tm.code + BitVec.ofNat 64 (8 * r.entry.toNat) }
  let g := ((g.sput 0 s0).sput 1 s1).seed (BitVec.ofNat 64 (s.teamIndex tm * 64 + grp))
  (((s.setCore c { co with nextAge := co.nextAge + 1 }).setGroup c p g).pcount tm.func tm.ctx 15 1)
/-- One child of the group in issue. -/
def State.child (s : State) (role nreg l g : Nat) (arg : W32) : Option State :=
  let c := s.cur.core
  let t := s.cg.team
  match s.roomFor c t nreg with
  | none => none
  | some slot => match s.freePlace c slot with
    | none => none
    | some p => some (s.newGroup c p t role (s.freeGrp c t) (s.cg.sget 0)
        (BitVec.ofNat 64 (role % 4 * 2 ^ 48 + g % 256 * 2 ^ 40 + l * 2 ^ 32 + arg.toNat)) s.cg.mode)
/-- Children of one lane, at most n (32 live groups bound them): how many were granted. -/
def State.children (s : State) (role nreg l : Nat) (arg : W32) (want : Nat) : (fuel g : Nat) → Nat × State
  | 0, g => (g, s)
  | n + 1, g =>
    if want ≤ g then (g, s)
    else match s.child role nreg l g arg with
      | none => (g, s)
      | some s' => s'.children role nreg l arg want n (g + 1)
/-- The lanes served in ascending order: the granted counts (R204). -/
def State.spawnLanes (s : State) (f : VForm) (role nreg : Nat) (g0 : Group) : List Nat → List (Nat × Nat) → State × List (Nat × Nat)
  | [], acc => (s, acc)
  | l :: rest, acc =>
    let r := s.children role nreg l (lo32 (g0.opnd .w32 f.b l)) (g0.opnd .w32 f.a l).toNat 32 0
    r.2.spawnLanes f role nreg g0 rest (acc ++ [(l, r.1)])
def opSpawn (f : VForm) (act : Lanes) (s : State) : Res := s.notInHandler (
  let ex := s.cg.execSet f.g act
  s.gate (useRegs f.d .w32 ++ useRegs f.a .w32 ++ useRegs f.b .w32) (ex != 0) (
    let role := f.c.toNat % 4
    let nreg := (s.ct.roles.getD role {}).nreg
    if nreg = 0 then .trap cIllegal 0 0 0 s
    -- the parent's release at team scope (R205, R246, R252)
    else if !s.cg.acc.isEmpty then .hold 6 s
    else
      let r := s.spawnLanes f role nreg s.cg (laneList ex) []
      .done (r.1.setCg (r.2.foldl (fun g e => g.vput f.d.toNat e.1 (BitVec.ofNat 32 e.2)) r.1.cg))))

/-! ## Waiting and hints (R404, R405) -/

def opWait (f : IForm) (act : Lanes) (s : State) : Res :=
  let g := s.cg
  let i := f.imm.toNat
  if !g.uniGuard f.g act then .done s
  else if g.ld ≤ bits i 0 6 && g.st ≤ bits i 6 6 && g.cp ≤ bits i 12 6 && g.tl ≤ bits i 18 6 then .done s
  else .hold g.waitClass s
def opNop (s : State) : Res := .done s
/-- The delay is counted from the clock after the issue. -/
def opYield (f : XForm) (act : Lanes) (s : State) : Res :=
  if s.cg.uniGuard f.g act then .done (s.setCg { s.cg with yieldClk := max 1 f.imm.toNat + 2 }) else .done s
def opProg (f : XForm) (act : Lanes) (s : State) : Res :=
  let tm := s.ct
  let x := (s.func tm.func).probex
  if !s.cg.uniGuard f.g act || !s.right tm.func tm.ctx rPROF then .done s
  else
    let s := s.pcount tm.func tm.ctx 14 1
    let x' := (s.func tm.func).probex
    if x.trial then .done (s.setProbex tm.func { x' with prog := tput 0 x'.prog (f.imm.toNat % 8) (tget 0 x'.prog (f.imm.toNat % 8) + 1) })
    else .done s
/-- BKPT halts before the next word where its context holds HALT, and traps elsewhere. -/
def opBkpt (f : XForm) (act : Lanes) (s : State) : Res := s.notInHandler (
  if !s.cg.uniGuard f.g act then .done s
  else if s.right s.ct.func s.ct.ctx rHALT then
    .done (s.haltGroup s.cur.core s.cur.gs [] (s.cg.ordinal))
  else .trap cBkpt 0 0 0 s)
def opTrap (f : XForm) (act : Lanes) (s : State) : Res := s.notInHandler (
  if !s.cg.uniGuard f.g act then .done s else .trapNext cTrap (f.imm.toNat % 2 ^ 15) 0 0 s)

/-! ## Special registers (R406 to R409) -/

/-- The wait counters as %wcnt (R407). -/
def Group.wcnt (g : Group) : W32 := BitVec.ofNat 32 (g.ld % 64 + g.st % 64 * 2 ^ 6 + g.cp % 64 * 2 ^ 12 + g.tl % 64 * 2 ^ 18)
/-- A special register as a lane reads it. -/
def State.readSr (s : State) (r : Sr) (lane : Nat) : W64 :=
  let g := s.cg
  let t := s.ct
  match r with
  | .width => BitVec.ofNat 64 Sys2Proof.width
  | .lw => BitVec.ofNat 64 logWidth
  | .lane => BitVec.ofNat 64 lane
  | .grp => BitVec.ofNat 64 g.grp
  | .teamx => BitVec.ofNat 64 t.x
  | .teamy => BitVec.ofNat 64 t.y
  | .teamz => BitVec.ofNat 64 t.z
  | .core => BitVec.ofNat 64 s.cur.core
  | .clu => BitVec.ofNat 64 t.clu
  | .vdn => (s.func t.func).vdn.setWidth 64
  | .mode => g.mode
  | .gang => g.gang
  | .xfm => g.xfm.setWidth 64
  | .xfc => g.xfc.setWidth 64
  | .wcnt => g.wcnt.setWidth 64
  | .fst => g.fst.setWidth 64
  | .tvec => g.tvec
  | .tpos => g.tpos
  | .taddr => g.taddr
  | .tcause => g.tcause.setWidth 64
  | .tstat => if g.tm then 1 else 0
  | .clk => s.cc.clk
  | .rngseed => g.rngseed
def opMfsr (f : XForm) (act : Lanes) (s : State) : Res :=
  match Sr.ofNum f.sreg with
  | none => .trap cIllegal 0 0 0 s
  | some r =>
    let wide := r.is64
    let rs : Regs := [(f.d, if wide then 2 else 1)]
    if isS f.d then s.gate rs (s.cg.uniGuard f.g act) (.done (s.setCg (s.cg.writeS true f.d (s.readSr r 0))))
    else
      let ex := s.cg.execSet f.g act
      s.gate rs (ex != 0) (.done (s.setCg (s.cg.writeV wide f.d ex (s.readSr r))))

/-- Bits of %mode that are not reserved (R276). -/
def modeMask : W64 := 0x00000000807FFFFF
/-- A legal value of %gang (R408). -/
def gangOk (x : W64) : Bool :=
  let n := x.toNat % 8
  let l := gangList x
  bits x.toNat 3 5 == 0 && bits x.toNat 38 26 == 0 && n != 1 && n != 7 && l.Nodup &&
  bits x.toNat (8 + 5 * n) (30 - 5 * n) == 0
/-- A legal value of %xfc (R392). -/
def xfcOk (x : W32) : Bool := bits x.toNat 17 15 == 0 && !bitOf x.toNat 15 && decide (x.toNat % 256 ≤ 0x0A)
/-- A value written to a special register; none where R406 gives the illegal-instruction trap. -/
def Group.writeSr (g : Group) (r : Sr) (x : W64) : Option Group :=
  match r with
  | .mode => if x &&& ~~~modeMask == 0 then some { g with mode := x } else none
  | .gang => if gangOk x then some { g with gang := x } else none
  | .xfm => some { g with xfm := lo32 x }
  | .xfc => if xfcOk (lo32 x) then some { g with xfc := lo32 x } else none
  | .fst => if bits (lo32 x).toNat 5 27 == 0 then some { g with fst := lo32 x } else none
  | .tvec => if x &&& 0xFF80000000000007 == 0 then some { g with tvec := x } else none
  | .tpos => if x &&& 7 == 0 then some { g with tpos := x } else none
  | .taddr => some { g with taddr := x }
  | .tcause => some { g with tcause := lo32 x }
  | .rngseed => some (g.seed x)
  | _ => none
def opMtsr (f : XForm) (act : Lanes) (s : State) : Res :=
  s.gate [(f.a, 2)] (s.cg.uniGuard f.g act) (
    match (Sr.ofNum f.sreg).bind (fun r => s.cg.writeSr r (s.cg.sfld f.a)) with
    | some g => .done (s.setCg g)
    | none => .trap cIllegal 0 0 0 s)

/-! ## The words -/

/-- TRAP.RET outside a handler is illegal; in one it continues at %tpos (R413). -/
def State.trapRet (s : State) : State :=
  if s.cg.tm then s.setCg s.cg.trapReturn else Res.retire false (.trap cIllegal 0 0 0 s)

def execBra (f : CForm) (s : State) : Host.Outcome State Fault Refusal :=
  .next (Res.retire f.sp (opBra f s.cg.active s))
def execBany (f : CForm) (s : State) : Host.Outcome State Fault Refusal :=
  .next (Res.retire f.sp (opBany f s.cg.active s))
def execBall (f : CForm) (s : State) : Host.Outcome State Fault Refusal :=
  .next (Res.retire f.sp (opBall f s.cg.active s))
def execBnone (f : CForm) (s : State) : Host.Outcome State Fault Refusal :=
  .next (Res.retire f.sp (opBnone f s.cg.active s))
def execBrx (f : CForm) (s : State) : Host.Outcome State Fault Refusal :=
  .next (Res.retire f.sp (opBrx f s.cg.active s))
def execCall (f : CForm) (s : State) : Host.Outcome State Fault Refusal :=
  .next (Res.retire f.sp (opCall f s.cg.active s))
def execRet (f : CForm) (s : State) : Host.Outcome State Fault Refusal :=
  .next (Res.retire f.sp (opRet f s.cg.active s))
def execIfW (f : CForm) (s : State) : Host.Outcome State Fault Refusal :=
  .next (Res.retire f.sp (opIf f s))
def execElseW (f : CForm) (s : State) : Host.Outcome State Fault Refusal :=
  .next (Res.retire f.sp (opElse f s))
def execLoopW (f : CForm) (s : State) : Host.Outcome State Fault Refusal :=
  .next (Res.retire f.sp (opLoop f s))
def execBreakW (f : CForm) (s : State) : Host.Outcome State Fault Refusal :=
  .next (Res.retire f.sp (opBreak f s))
def execContW (f : CForm) (s : State) : Host.Outcome State Fault Refusal :=
  .next (Res.retire f.sp (opCont f s))
def execEndloopW (f : CForm) (s : State) : Host.Outcome State Fault Refusal :=
  .next (Res.retire f.sp (opEndloop f s))
def execExitW (f : CForm) (s : State) : Host.Outcome State Fault Refusal :=
  .next (Res.retire f.sp (opExit f s.cg.active s))
def execExits (f : CForm) (s : State) : Host.Outcome State Fault Refusal :=
  .next (Res.retire f.sp (opExits f s.cg.active s))
def execEndifW (f : CForm) (s : State) : Host.Outcome State Fault Refusal :=
  .next (Res.retire f.sp (opEndif s))
def execSpawn (f : VForm) (s : State) : Host.Outcome State Fault Refusal :=
  .next (Res.retire f.sp (opSpawn f s.cg.active s))
def execWait (f : IForm) (s : State) : Host.Outcome State Fault Refusal :=
  .next (Res.retire f.sp (opWait f s.cg.active s))
def execNop (f : XForm) (s : State) : Host.Outcome State Fault Refusal :=
  .next (Res.retire f.sp (opNop s))
def execYield (f : XForm) (s : State) : Host.Outcome State Fault Refusal :=
  .next (Res.retire f.sp (opYield f s.cg.active s))
def execMfsr (f : XForm) (s : State) : Host.Outcome State Fault Refusal :=
  .next (Res.retire f.sp (opMfsr f s.cg.active s))
def execMtsr (f : XForm) (s : State) : Host.Outcome State Fault Refusal :=
  .next (Res.retire f.sp (opMtsr f s.cg.active s))
def execTrap (f : XForm) (s : State) : Host.Outcome State Fault Refusal :=
  .next (Res.retire f.sp (opTrap f s.cg.active s))
def execBkpt (f : XForm) (s : State) : Host.Outcome State Fault Refusal :=
  .next (Res.retire f.sp (opBkpt f s.cg.active s))
def execProg (f : XForm) (s : State) : Host.Outcome State Fault Refusal :=
  .next (Res.retire f.sp (opProg f s.cg.active s))
def execTrapRet (_ : XForm) (s : State) : Host.Outcome State Fault Refusal :=
  .next s.trapRet

end Sys2Proof.Machine
end

