-- ==== Sys2Proof/Machine/Memory.lean ====
section
/-! DEFINITION. Memory words at issue: addresses, the checks of R418, outstanding accesses, the requests that
leave the device, fences, prefetch and invalidation (R415 to R422, R426, R430, R433, R434). -/

namespace Sys2Proof

/-- The word executes once on the scalar datapath (R416). -/
def MForm.scalar (f : MForm) : Bool := isS f.base && isS f.idx

namespace Machine

/-! ## Addresses (R415) -/

/-- The lanes a memory word acts in. -/
def Group.memLanes (g : Group) (uni : Bool) (gd : Guard) (act : Lanes) : List Nat :=
  if uni then (if g.uniGuard gd act then [0] else []) else laneList (g.execSet gd act)
/-- A lane's global address; an atomic has no index. -/
def Group.gAddr (g : Group) (f : MForm) (useIdx : Bool) (l : Nat) : W64 :=
  let idx : W64 := if !useIdx || f.idx == 0xFF then 0
    else if isS f.idx then g.sfld f.idx else (g.vget f.idx.toNat l).signExtend 64
  g.read true f.base l + idx + f.ofs.signExtend 64
/-- A lane's scratch address. -/
def Group.sAddr (g : Group) (f : MForm) (l : Nat) : W32 :=
  let idx : W32 := if f.idx == 0xFF then 0 else lo32 (g.read false f.idx l)
  lo32 (g.read false f.base l) + idx + f.ofs.signExtend 32
/-- What a lane's address names. -/
inductive Tgt where
  | scr (a : W32)
  | glob (va : W64)
  deriving DecidableEq, Repr
/-- A lane of a memory word: its address as the trap registers show it, and what it names. -/
structure LaneAt where
  lane : Nat
  addr : W64
  tgt : Tgt
  deriving DecidableEq, Repr
/-- The scratch aperture (R415). -/
def globTgt (va : W64) : Tgt := if hi32 va == 0xFFFFFFFF then .scr (lo32 va) else .glob va
def Group.gLanes (g : Group) (f : MForm) (useIdx : Bool) (ls : List Nat) : List LaneAt :=
  ls.map (fun l => let a := g.gAddr f useIdx l; { lane := l, addr := a, tgt := globTgt a })
def Group.sLanes (g : Group) (f : MForm) (ls : List Nat) : List LaneAt :=
  ls.map (fun l => let a := g.sAddr f l; { lane := l, addr := a.setWidth 64, tgt := .scr a })
end Machine

/-- The registers an address uses. -/
def MForm.gRegs (f : MForm) (useIdx : Bool) : Machine.Regs :=
  (f.base, 2) :: (if useIdx && f.idx != 0xFF then [(f.idx, if isS f.idx then 2 else 1)] else [])
def MForm.sRegs (f : MForm) : Machine.Regs :=
  (f.base, 1) :: (if f.idx != 0xFF then [(f.idx, 1)] else [])

namespace Machine

/-- The data registers of a field for an access size (R416). -/
def dRegs (d : BitVec 8) (sz : Size) : Regs := [(d, if isS d then 2 else sz.regs)]
/-- The data of a lane's store (R416). -/
def Group.memData (g : Group) (d : BitVec 8) (sz : Size) (l : Nat) : BitVec 256 :=
  if isS d then (g.sfld d).setWidth 256
  else BitVec.ofNat 256 ((upto sz.regs).foldl (fun acc i => acc + (g.vget (d.toNat + i) l).toNat * 2 ^ (32 * i)) 0)

/-! ## The checks of R418 -/

/-- Some word of a scratch range has S set. -/
def State.scrSpecial (s : State) (c t : Nat) (l : Loc) (n : Nat) : Bool :=
  match l with
  | .own b o => (s.core c).special b o n
  | .dist a => match s.distBank c t a with
    | some (c', b) => (s.core c').special b (saOff a) n
    | none => false
  | _ => false
/-- The first lane that fails a check traps. -/
def firstTrap (s : State) (cause : Byte) (info : Nat) (bad : LaneAt → Bool) (ls : List LaneAt) (k : Res) : Res :=
  match ls.find? bad with
  | some l => .trap cause info l.lane l.addr s
  | none => k
/-- A synchronising access that is checked at this device's home slice (R263). -/
def sliceChecks (l : Loc) (scope : Scope) (atomic : Bool) : Bool :=
  match l with
  | .far _ _ => scope != .system && !atomic
  | .home _ | .pool _ => true
  | _ => false
/-- The access class of R132. -/
def accClass (op : AccOp) : Nat :=
  match op with
  | .load | .frag .. => 0
  | .store | .barr => 1
  | _ => 2
/-- The checks on a word's lanes in their order; k takes the lanes with their places (R130, R418). -/
def State.memCheck (s : State) (op : AccOp) (scope : Scope) (bytes : Nat) (ls : List LaneAt)
    (k : List LanePart → Res) : Res :=
  let c := s.cur.core
  let p := s.cur.gs
  let t := s.cg.team
  let acc := accClass op
  let locOf (x : LaneAt) : Option Loc := match x.tgt with
    | .scr a => s.scratchLoc c t a
    | .glob va => (s.xlOf c p va acc).map (fun e => e.loc.add (va.toNat % 65536))
  firstTrap s cAlign 0 (fun x => x.addr.toNat % bytes != 0) ls <|
  firstTrap s cScratch 0 (fun x => match x.tgt with | .scr _ => (locOf x).isNone | _ => false) ls <|
  firstTrap s cTag 0 (fun x => acc != 0 && match x.tgt, locOf x with
    | .scr _, some l => s.scrSpecial c t l bytes
    | _, _ => false) ls <|
  firstTrap s cXlate kRange.toNat (fun x => match x.tgt with | .glob va => va.toNat / 2 ^ 55 != 0 | _ => false) ls <|
  let vas := ls.filterMap (fun x => match x.tgt with | .glob va => some va | _ => none)
  match s.missing c p acc vas with
  | a :: as => match s.expiredAt c p acc (a :: as) with
    | some (page, kind) =>
      firstTrap s cXlate kind (fun x => match x.tgt with | .glob va => va.toNat / 65536 == page | _ => false) ls (.hold 6 s)
    | none => .hold 6 (s.awaitPages c p acc (a :: as))
  | [] =>
    firstTrap s cScope 0 (fun x => match x.tgt, locOf x with
      | .glob _, some l => scope != .plain && sliceChecks l scope (acc == 2) &&
          (match locLine l with
            | some ln => s.syncBad ln (s.recOf c p scope)
            | none => false)
      | _, _ => false) ls <|
    k (ls.map (fun x =>
      let e := match x.tgt with | .glob va => s.xlOf c p va acc | _ => none
      { lane := x.lane, va := x.addr, loc := (locOf x).getD (.err stRange)
        xl := e.map (fun e => (e.page, e.gpage, e.sfa / 65536)), own := (e.map (·.own)).getD 0, priv := (e.map (·.priv)).getD false }))

/-! ## Same-location order (R248, R251) -/

/-- A place as a number space and an address in it, so that two names of one byte agree. -/
def State.spot (s : State) (c t : Nat) (l : Loc) : Option (Nat × Nat) :=
  match l with
  | .own b o => some (0, (c * 32 + b) * 16384 + o)
  | .dist a => (s.distBank c t a).map (fun x => (0, (x.1 * 32 + x.2) * 16384 + saOff a))
  | .home p => some (1, p)
  | .pool a | .far a _ => some (2, a)
  | .window o => some (3, o)
  | .err _ => none
/-- Two ranges share a byte. -/
def State.meets (s : State) (c t : Nat) (l : Loc) (n : Nat) (l' : Loc) (n' : Nat) : Bool :=
  match s.spot c t l, s.spot c t l' with
  | some (k, a), some (k', a') => k == k' && decide (a < a' + n') && decide (a' < a + n)
  | _, _ => false
/-- A lane waits for the earlier accesses of its group to its location, a store's lane for the lower lanes of the
store, and an ST.REL's for its release (R244, R251, R423). -/
def State.laneFree (s : State) (c p : Nat) (a : Access) (x : LanePart) : Bool :=
  let g := s.group c p
  let before := g.acc.takeWhile (fun b => b.id != a.id)
  !a.late && !before.any (fun b => b.parts.any (fun y => s.meets c g.team x.loc a.bytes y.loc b.bytes)) &&
  !(a.op == .store && a.parts.any (fun y => decide (y.lane < x.lane) && s.meets c g.team x.loc a.bytes y.loc a.bytes))
/-- Some outstanding access of the group touches a range of its own scratch. -/
def State.accTouches (s : State) (c p : Nat) (bank off n : Nat) : Bool :=
  let g := s.group c p
  g.acc.any (fun b => b.parts.any (fun y => s.meets c g.team (.own bank off) n y.loc b.bytes))

/-! ## Requests that leave the device (R53, R63, R247) -/

/-- The access goes to its target itself, past the caches. -/
def directRoute (op : AccOp) (scope : Scope) (strm : BitVec 2) (l : Loc) : Bool :=
  match l with
  | .far _ rcc =>
    accClass op == 2 || scope == .system || rcc == 0 ||
    (rcc == 1 && op == .store && (decide (2 ≤ scope.code.toNat) || strm == 2))
  | _ => false
/-- A request for a sector is under way to its source, by kind of owner. -/
def State.sectorReq (s : State) (sfa : Nat) (p : TxnOwner → Bool) : Bool :=
  s.streams.any (fun x => (x.out ++ x.queue).any (fun y => p y.2 && y.1.daddr.toNat / 32 == sfa / 32))
def State.evictUnder (s : State) (sfa : Nat) : Bool := s.sectorReq sfa (fun o => match o with | .evict _ => true | _ => false)
def State.fillUnder (s : State) (sfa : Nat) : Bool := s.sectorReq sfa (fun o => match o with | .fill .. => true | _ => false)
/-- A request of a lane to its target is under way for the sector. -/
def State.laneUnder (s : State) (sfa : Nat) : Bool := s.sectorReq sfa (fun o => match o with | .lane .. => true | _ => false)
/-- An ATOMIC request (R54). -/
def pkAtomic (h : Packet) (sfa : Nat) (op : BitVec 8) (bytes : Nat) (d : BitVec 256) : Packet :=
  let p := { h with op := oATOMIC, daddr := BitVec.ofNat 60 sfa, opx := (if bytes == 8 then 3#2 else 2#2) ++ op
                    w3 := d.extractLsb' 0 64 }
  if op == 0x49 then { p with len := 1, data := leBytes 16 (d.toNat / 2 ^ 64 % 2 ^ 64) } else p
/-- The request of one lane. -/
def State.lanePacket (s : State) (c p : Nat) (a : Access) (x : LanePart) (sfa : Nat) : Packet :=
  let h := s.groupHdr c p a.strm a.scope
  match a.op with
  | .load | .barr | .frag .. => pkRead h sfa a.bytes
  | .store => pkWrite h sfa (leBytes a.bytes x.data.toNat)
  | .atom op | .red op => pkAtomic h sfa op a.bytes x.data
/-- A lane marked as having a request under way. -/
def State.markSent (s : State) (c p id lane : Nat) : State :=
  let g := s.group c p
  s.setGroup c p { g with acc := g.acc.map (fun a => if a.id == id then
    { a with parts := a.parts.map (fun x => if x.lane == lane then { x with sent := true } else x) } else a) }
/-- A lane that goes to its target sent, once cached copies of its sector have been written back (R63). -/
def State.sendLane (s : State) (c p : Nat) (a : Access) (x : LanePart) : State :=
  match x.loc with
  | .far sfa _ =>
    if x.sent || !directRoute a.op a.scope a.strm x.loc || !s.laneFree c p a x then s
    else
      let s := match locKey x.loc with | some k => s.l1Back c k true | none => s
      let s := s.l2Back c (sfa / 32) true
      if s.evictUnder sfa || s.fillUnder sfa then s
      else
        let tm := s.team c (s.group c p).team
        ((s.markSent c p a.id x.lane).pcount tm.func tm.ctx 10 1).sendReq
          (s.lanePacket c p a x sfa) (.lane c p a.id x.lane)
  | _ => s

/-! ## Issue (R241, R404, R417) -/

/-- The counter of the operation stands at 63. -/
def Group.counterFull (g : Group) (op : AccOp) : Bool :=
  match op with
  | .load | .atom _ | .frag .. => decide (63 ≤ g.ld)
  | .store | .red _ | .barr => decide (63 ≤ g.st)
def Group.countUp (g : Group) (op : AccOp) : Group :=
  match op with
  | .load | .atom _ | .frag .. => { g with ld := g.ld + 1 }
  | .store | .red _ | .barr => { g with st := g.st + 1 }
/-- The records of a synchronising word's lines (R262). -/
def State.setRecords (s : State) (c p : Nat) (op : AccOp) (scope : Scope) (ps : List LanePart) : State :=
  if scope == .plain then s
  else ps.foldl (fun s x =>
    if x.xl.isSome && sliceChecks x.loc scope (accClass op == 2) then
      match locLine x.loc with
      | some ln => s.syncSet ln (s.recOf c p scope)
      | none => s
    else s) s
/-- The clocks after the first that an access to words of the own scratch takes: the most distinct words in one
window and sub-bank (R219). -/
def extraClocks (ws : List (Nat × Nat)) : Nat :=
  let ks := distinct (ws.map (fun w => w.1 * 4096 + w.2))
  let most (n : Nat) (k : Nat) : Nat := max n (ks.filter (fun j => j / 4096 == k / 4096 && j % 32 == k % 32)).length
  ks.foldl most 1 - 1
/-- The own words the lanes of an access touch. -/
def ownWords (bytes : Nat) (ps : List LanePart) : List (Nat × Nat) :=
  ps.flatMap (fun x => match x.loc with | .own b o => (wordsOf o bytes).map (fun w => (b, w)) | _ => [])
/-- Extra clocks counted for a word that goes on (R302). -/
def Res.clocks (ws : List (Nat × Nat)) : Res → Res
  | .done s => .done (s.pcountG s.cur.core s.cur.gs 9 (extraClocks ws))
  | r => r
/-- The access of a word entered among its group's outstanding ones, or held for want of a count or of
transaction table entries. -/
def State.issueAcc (s : State) (op : AccOp) (scope : Scope) (strm : BitVec 2) (bytes : Nat) (dest : BitVec 8)
    (ps : List LanePart) (late : Bool := false) : Res :=
  let c := s.cur.core
  let p := s.cur.gs
  let g := s.cg
  let n := entriesOf ps
  if g.counterFull op || decide (8192 < s.cc.txUsed + n) then .hold 6 s
  else
    let a : Access := { id := g.nextId, op, scope, strm, bytes, dest, parts := ps, entries := n, late }
    let s := s.setRecords c p op scope ps
    let s := s.setCg ({ g with acc := g.acc ++ [a], nextId := g.nextId + 1 }.countUp op)
    let s := s.setCc { s.cc with txUsed := s.cc.txUsed + n }
    let s := s.pcountG c p (match op with | .load => 4 | _ => 5) (match op with | .load | .store => n | _ => 0)
    let s := match op with
      | .frag .. => s
      | _ => s.pcountG c p 9 (extraClocks (ownWords bytes ps))
    .done (ps.foldl (fun s x => s.sendLane c p a x) s)

/-! ## Loads, stores, atomics and reductions -/

/-- A load or store word over its lanes. -/
def State.loadWord (s : State) (f : MForm) (uni : Bool) (act : Lanes) (rs : Regs) (ats : Group → List Nat → List LaneAt) : Res :=
  let ls := s.cg.memLanes uni f.g act
  s.gate (dRegs f.d f.size ++ rs) (!ls.isEmpty) (
    s.memCheck .load f.scope f.size.bytes (ats s.cg ls) (fun ps => s.issueAcc .load f.scope f.strm f.size.bytes f.d ps))
def State.storeWord (s : State) (f : MForm) (uni : Bool) (act : Lanes) (rs : Regs) (ats : Group → List Nat → List LaneAt)
    (pre : (List LanePart → Res) → List LanePart → Res) : Res :=
  let ls := s.cg.memLanes uni f.g act
  let g := s.cg
  s.gate (dRegs f.d f.size ++ rs) (!ls.isEmpty) (
    s.memCheck .store f.scope f.size.bytes (ats g ls) (pre (fun ps =>
      s.issueAcc .store f.scope f.strm f.size.bytes 0 (ps.map (fun x => { x with data := g.memData f.d f.size x.lane })))))
end Machine

def MForm.uniD (f : MForm) : Bool := isS f.d && f.scalar

namespace Machine

def opLd (f : MForm) (act : Lanes) (s : State) : Res :=
  s.loadWord f f.uniD act (f.gRegs true) (fun g ls => g.gLanes f true ls)
def opSt (f : MForm) (act : Lanes) (s : State) : Res :=
  s.storeWord f f.uniD act (f.gRegs true) (fun g ls => g.gLanes f true ls) (fun k ps => k ps)
def opLds (f : MForm) (act : Lanes) (s : State) : Res :=
  s.loadWord f f.uniD act f.sRegs (fun g ls => g.sLanes f ls)
def opSts (f : MForm) (act : Lanes) (s : State) : Res :=
  s.storeWord f f.uniD act f.sRegs (fun g ls => g.sLanes f ls) (fun k ps => k ps)

/-- The operand of an atomic in a field: b, and for CAS the swap value above it (R426). -/
def Group.atomData (g : Group) (r : BitVec 8) (sz : Size) (cas : Bool) (l : Nat) : BitVec 256 :=
  let one (r : BitVec 8) : Nat := (g.memData r sz l).toNat % 2 ^ (8 * sz.bytes)
  let next : BitVec 8 := if isS r then r + 1 else r + BitVec.ofNat 8 sz.regs
  BitVec.ofNat 256 (one r + (if cas then one next * 2 ^ 64 else 0))
/-- The registers of an atomic's operand. -/
def atomRegs (r : BitVec 8) (sz : Size) (cas : Bool) : Regs :=
  if isS r then (if cas then [(r, 2), (r + 1, 2)] else [(r, 2)]) else [(r, sz.regs * (if cas then 2 else 1))]
/-- ATOM with an M-form opcode. -/
def State.atomWord (s : State) (op : BitVec 8) (f : MForm) (act : Lanes) : Res :=
  let ls := s.cg.memLanes f.uniD f.g act
  let g := s.cg
  let cas := op == 0x49
  s.gate (dRegs f.d f.size ++ f.gRegs false ++ atomRegs f.idx f.size cas) (!ls.isEmpty) (
    s.memCheck (.atom op) f.scope f.size.bytes (g.gLanes f false ls) (fun ps =>
      s.issueAcc (.atom op) f.scope f.strm f.size.bytes f.d
        (ps.map (fun x => { x with data := g.atomData f.idx f.size cas x.lane }))))
/-- RED with an M-form opcode. -/
def State.redWord (s : State) (op : BitVec 8) (f : MForm) (act : Lanes) : Res :=
  let ls := s.cg.memLanes f.uniD f.g act
  let g := s.cg
  s.gate (dRegs f.d f.size ++ f.gRegs true) (!ls.isEmpty) (
    s.memCheck (.red op) f.scope f.size.bytes (g.gLanes f true ls) (fun ps =>
      s.issueAcc (.red op) f.scope f.strm f.size.bytes 0
        (ps.map (fun x => { x with data := g.atomData f.d f.size false x.lane }))))

/-! ## Fences (R422, R423, R430, R252 to R254) -/

/-- The accesses a fence waits for are done: every one for a release, but its own ST.REL's, and every load for an
acquire. -/
def Group.fenceReady (g : Group) (f : PendFence) : Bool :=
  match f.kind with
  | .acq => !g.acc.any (fun a => a.op.returns)
  | _ => g.acc.all (fun a => a.late)
/-- The store of an ST.REL may be performed. -/
def State.goLate (s : State) (c p : Nat) : State :=
  let g := s.group c p
  (g.acc.filter (fun a => a.late)).foldl (fun s a => a.parts.foldl (fun s x => s.sendLane c p { a with late := false } x) s)
    (s.setGroup c p { g with acc := g.acc.map (fun a => { a with late := false }) })
/-- A pending fence of a group carried as far as it goes now: it waits for accesses; then come the cache actions; then
their write-backs. -/
def State.tryFence (s : State) (c p : Nat) : State :=
  let g := s.group c p
  match g.pend with
  | none => s
  | some f =>
    if !g.fenceReady f then s
    else
      let s := match f.kind with
        | .acq => s
        | _ => s.releaseActs c p f.scope
      let s := match f.kind with
        | .rel => s
        | _ => s.acquireActs c p f.scope
      if s.evicting c then s
      else (s.setGroup c p { s.group c p with pend := none, held := none }).goLate c p
/-- The group is held at a fence from its next word on. -/
def State.fenceAt (s : State) (kind : FenceKind) (scope : Scope) : State :=
  s.setCg { s.cg with pend := some { kind, scope } }
def opFence (kind : FenceKind) (f : MForm) (act : Lanes) (s : State) : Res :=
  if s.cg.uniGuard f.g act then .done ((s.fenceAt kind f.scope).tryFence s.cur.core s.cur.gs) else .done s
def opLdAcq (f : MForm) (act : Lanes) (s : State) : Res :=
  let ls := s.cg.memLanes f.uniD f.g act
  match opLd f act s with
  | .done s' => if ls.isEmpty then .done s' else .done ((s'.fenceAt .acq f.scope).tryFence s.cur.core s.cur.gs)
  | r => r
/-- The hold for a release: every earlier access performed, then the cache actions and their write-backs (R252). -/
def State.releaseFirst (s : State) (scope : Scope) (cls : Nat) (k : State → Res) : Res :=
  if !s.cg.acc.isEmpty then .hold cls s
  else
    let s := s.releaseActs s.cur.core s.cur.gs scope
    if s.evicting s.cur.core then .hold cls s else k s
/-- ST.REL: its store is issued, and performed once its release is done; the group is held until then. -/
def opStRel (f : MForm) (act : Lanes) (s : State) : Res :=
  let ls := s.cg.memLanes f.uniD f.g act
  let g := s.cg
  s.gate (dRegs f.d f.size ++ f.gRegs true) (!ls.isEmpty) (
    s.memCheck .store f.scope f.size.bytes (g.gLanes f true ls) (fun ps =>
      match s.issueAcc .store f.scope f.strm f.size.bytes 0 (ps.map (fun x => { x with data := g.memData f.d f.size x.lane })) true with
      | .done s => .done ((s.fenceAt .rel f.scope).tryFence s.cur.core s.cur.gs)
      | r => r))

/-! ## Prefetch and invalidation (R433, R434) -/

/-- One sector brought into L1, from HBM or the home slice; a remote one the slice lacks is asked for. -/
def State.fetchSector (s : State) (c p : Nat) (l : Loc) (own : Nat) (priv noL1 : Bool) : State :=
  let tm := s.team c (s.group c p).team
  match locKey l with
  | none => s
  | some k =>
    if (s.l1Get c k).isSome then s
    else match l with
    | .home pa =>
      if noL1 || s.poisoned (pa / 32 * 32) 32 then s
      else s.l1Add c k { data := BitVec.ofNat 256 (s.homeNum (pa / 32 * 32) 32), func := tm.func, ctx := tm.ctx, own, priv }
    | .pool a | .far a _ =>
      let rcc := locRcc l
      if rcc == 0 || s.evictUnder a || s.laneUnder a then s
      else match tget none s.l2 (a / 32) with
        | some x => if noL1 then s else s.l1Add c k { data := x.data, func := tm.func, ctx := tm.ctx, rcc, own, priv }
        | none => s.askSectors c tm.func tm.ctx (match l with | .pool _ => .pool (a / 32 * 32) | _ => .far (a / 32 * 32) rcc) 32
    | _ => s
/-- The line of a lane requested; a lane that does not translate or finds no entry is dropped. -/
def State.prefLane (s : State) (c p : Nat) (strm : BitVec 2) (x : LaneAt) : State :=
  match x.tgt with
  | .scr _ => s
  | .glob va =>
    match s.xlOf c p va 0 with
    | none => s
    | some e =>
      if 8192 ≤ (s.core c).txUsed then s
      else (upto 4).foldl (fun s i => s.fetchSector c p (e.loc.add (va.toNat % 65536 / 128 * 128 + 32 * i)) e.own e.priv (strm == 2)) s
def opPref (f : MForm) (act : Lanes) (s : State) : Res :=
  let ls := s.cg.memLanes f.scalar f.g act
  s.gate (f.gRegs true) (!ls.isEmpty) (
    .done ((s.cg.gLanes f true ls).foldl (fun s x => s.prefLane s.cur.core s.cur.gs f.strm x) s))

/-- A RANGE address of a lane traps. -/
def rangeTrap (s : State) (ls : List LaneAt) (k : Res) : Res :=
  firstTrap s cXlate kRange.toNat (fun x => match x.tgt with | .glob va => va.toNat / 2 ^ 55 != 0 | _ => false) ls k
/-- The place of a page for CINV.L1, translated for a read or else for a write, in the TLBs or by a walk; none where it
does not translate; or the state that waits for the walk (R434). -/
def State.cinvPage (s : State) (c p : Nat) (va : W64) : Except State (Option Loc) :=
  let tm := s.team c (s.group c p).team
  let walk (access : Nat) (k : Except State (Option Loc)) : Except State (Option Loc) :=
    match (s.translate (coreDie c) tm.func tm.ctx va access).1 with
    | .ok e => .ok (some e.loc)
    | .error (.need a) => .error (s.askSectors c tm.func tm.ctx (.pool a) 8)
    | .error .transit => .error s
    | .error (.fault _) => k
  match s.xlOf c p va 0, s.xlOf c p va 1 with
  | some e, _ | none, some e => .ok (some e.loc)
  | none, none => walk 0 (walk 1 (.ok none))
/-- The lines of the lanes that translate, or the state that waits. -/
def State.cinvLines (s : State) (c p : Nat) : List LaneAt → Except State (List Loc)
  | [] => .ok []
  | x :: xs => match x.tgt with
    | .scr _ => s.cinvLines c p xs
    | .glob va => match s.cinvPage c p va, s.cinvLines c p xs with
      | .error t, _ | _, .error t => .error t
      | .ok none, .ok ls => .ok ls
      | .ok (some l), .ok ls => .ok (l.add (va.toNat % 65536 / 128 * 128) :: ls)
/-- A line written back and invalidated. -/
def State.cinvLine (s : State) (c : Nat) (l : Loc) : State :=
  (upto 4).foldl (fun s i => match locKey (l.add (32 * i)) with
    | some k => s.l1Back c k true
    | none => s) s
/-- Some earlier store of the group to the line of a lane is outstanding. -/
def State.storeUnder (s : State) (c p : Nat) (x : LaneAt) : Bool :=
  (s.group c p).acc.any (fun a => accClass a.op != 0 && a.parts.any (fun y => y.xl.isSome && y.va.toNat / 128 == x.addr.toNat / 128))
/-- A CINV waits, counted in cp until it is complete. -/
def Group.addCinv (g : Group) (w : CinvWait) : Group := { g with cp := g.cp + 1, cinv := g.cinv ++ [w] }
/-- A place of a tile operation, translated for a context in some pages, is still to be read or written. -/
def State.tilesUse (s : State) (p : (func ctx : Nat) → (vpage gpage fpage : Nat) → Bool) : Bool :=
  s.cores.any (fun e => e.2.tq.any (fun o =>
    let tm := s.team e.1 (s.group e.1 o.gs).team
    o.parts.any (fun x => !x.got && (match x.xl with
      | some (v, g, a) => p tm.func tm.ctx v g a
      | none => false))))
/-- Requests of the engines on the fabric, by their packets. -/
def State.engineReqs (s : State) (p : TxnOwner → Packet → Bool) : List TxnOwner :=
  s.streams.flatMap (fun x => ((x.out ++ x.queue).filter (fun y => (match y.2 with
    | .unit .. | .sig .. | .tile .. | .desc .. | .coll .. | .begun .. => true
    | _ => false) && p y.2 y.1)).map Prod.snd)
/-- Some of those are still under way. -/
def State.engineLive (s : State) (os : List TxnOwner) : Bool :=
  !os.isEmpty && s.streams.any (fun x => (x.out ++ x.queue).any (fun y => os.contains y.2))
/-- What a CINV waits for is still there. -/
def State.cinvOpen (s : State) (w : CinvWait) : Bool :=
  w.users.any (fun x => (s.group (x.1 / 64) (x.1 % 64)).acc.any (fun a => a.id == x.2)) || s.engineLive w.engines ||
  (match w.tiles with
    | some (f, ctx, pages) => s.tilesUse (fun f' x v _ _ => f' == f && x == ctx && (match pages with | some l => l.contains v | none => true))
    | none => false)
/-- The CINVs of a group that are complete, with the core's write-backs answered, lower cp. -/
def State.settleCinv (s : State) (c p : Nat) : State :=
  let g := s.group c p
  let rest := g.cinv.filter (fun w => s.evicting c || s.cinvOpen w)
  s.setGroup c p { g with cinv := rest, cp := g.cp - (g.cinv.length - rest.length) }
/-- The global addresses of lanes. -/
def globOf (ats : List LaneAt) : List W64 := ats.filterMap (fun x => match x.tgt with | .glob va => some va | _ => none)
def opCinvL1 (f : MForm) (act : Lanes) (s : State) : Res :=
  let ls := s.cg.memLanes false f.g act
  let c := s.cur.core
  let p := s.cur.gs
  let ats := s.cg.gLanes f true ls
  s.gate (f.gRegs true) (!ls.isEmpty) (rangeTrap s ats (
    if 63 ≤ s.cg.cp || ats.any (s.storeUnder c p) then .hold 6 s
    else match s.cinvLines c p ats with
      | .error t => .hold 6 t
      | .ok ls =>
        let s := s.pcountG c p 11 (s.missing c p 1 ((s.missing c p 0 (globOf ats)).map (BitVec.ofNat 64))).length
        let s := ls.foldl (fun s l => s.cinvLine c l) s
        .done ((s.setCg (s.cg.addCinv {})).settleCinv c p)))
/-- The accesses of every group whose lanes were translated by an entry that p holds of. -/
def State.usersOf (s : State) (p : (func ctx : Nat) → (vpage gpage fpage : Nat) → Bool) : List (Nat × Nat) :=
  (s.groups.filter (fun e => e.2.live)).flatMap (fun e =>
    let tm := s.team (e.1 / 64) e.2.team
    (e.2.acc.filter (fun a => a.parts.any (fun x => match x.xl with
      | some (v, g, a) => p tm.func tm.ctx v g a
      | none => false))).map (fun a => (e.1, a.id)))
/-- Every cached combined translation that p holds of removed, with the walker's cached descriptors. -/
def State.dropXl (s : State) (p : TlbEntry → Bool) : State :=
  { s with
    cores := s.cores.map (fun e => (e.1, { e.2 with tlb := e.2.tlb.filter (fun x => !p x) }))
    l2tlb := s.l2tlb.map (fun e => (e.1, e.2.filter (fun x => !p x)))
    nwc := [] }
/-- Pages a list of lanes names. -/
def pagesOf (ls : List LaneAt) : List Nat :=
  ls.filterMap (fun x => match x.tgt with | .glob va => some (va.toNat / 65536) | _ => none)
/-- Parked groups that an invalidation covers try again (R131). -/
def State.replayParked (s : State) (p : (func ctx : Nat) → XlFault → Bool) : State :=
  s.mapGroups (fun c _ g => match g.park with
    | some k => p (s.team c g.team).func (s.team c g.team).ctx k.flt
    | none => false) (fun g => { g with park := g.park.map (fun k => { k with active := false }) })
/-- CINV of stage-1 translations of the group's context: it begins when every earlier access is done and the bytes the
core's L1 holds dirty are at their home, since nothing marks which of them the group stored (R127). -/
def State.cinvXl (s : State) (pages : Option (List Nat)) : Res :=
  let c := s.cur.core
  let p := s.cur.gs
  let tm := s.ct
  let hit (f x page : Nat) : Bool := f == tm.func && x == tm.ctx && (match pages with | some l => l.contains page | none => true)
  if 63 ≤ s.cg.cp then .hold 6 s
  else s.releaseFirst .device 6 (fun s =>
    let users := s.usersOf (fun f x v _ _ => hit f x v)
    let s := s.dropXl (fun e => hit e.func e.ctx e.page)
    let s := s.setCg (s.cg.addCinv { users, engines := s.engineReqs (fun _ q => q.sfunc.toNat == tm.func), tiles := some (tm.func, tm.ctx, pages) })
    .done ((s.replayParked (fun f x k => hit f x (k.va.toNat / 65536))).settleCinv c p))
def opCinvTlb (f : MForm) (act : Lanes) (s : State) : Res :=
  let ls := s.cg.memLanes false f.g act
  let ats := s.cg.gLanes f true ls
  s.gate (f.gRegs true) (!ls.isEmpty) (rangeTrap s ats (s.cinvXl (some (pagesOf ats))))
def opCinvCtx (f : MForm) (act : Lanes) (s : State) : Res :=
  if s.cg.uniGuard f.g act then s.cinvXl none else .done s

/-! ## The words -/

def execLd (f : MForm) (s : State) : Host.Outcome State Fault Refusal :=
  .next (Res.retire f.sp (opLd f s.cg.active s))
def execSt (f : MForm) (s : State) : Host.Outcome State Fault Refusal :=
  .next (Res.retire f.sp (opSt f s.cg.active s))
def execLds (f : MForm) (s : State) : Host.Outcome State Fault Refusal :=
  .next (Res.retire f.sp (opLds f s.cg.active s))
def execSts (f : MForm) (s : State) : Host.Outcome State Fault Refusal :=
  .next (Res.retire f.sp (opSts f s.cg.active s))
def execLdAcq (f : MForm) (s : State) : Host.Outcome State Fault Refusal :=
  .next (Res.retire f.sp (opLdAcq f s.cg.active s))
def execStRel (f : MForm) (s : State) : Host.Outcome State Fault Refusal :=
  .next (Res.retire f.sp (opStRel f s.cg.active s))
def execPref (f : MForm) (s : State) : Host.Outcome State Fault Refusal :=
  .next (Res.retire f.sp (opPref f s.cg.active s))
def execCinvL1 (f : MForm) (s : State) : Host.Outcome State Fault Refusal :=
  .next (Res.retire f.sp (opCinvL1 f s.cg.active s))
def execCinvTlb (f : MForm) (s : State) : Host.Outcome State Fault Refusal :=
  .next (Res.retire f.sp (opCinvTlb f s.cg.active s))
def execCinvCtx (f : MForm) (s : State) : Host.Outcome State Fault Refusal :=
  .next (Res.retire f.sp (opCinvCtx f s.cg.active s))
def execFenceAcq (f : MForm) (s : State) : Host.Outcome State Fault Refusal :=
  .next (Res.retire f.sp (opFence .acq f s.cg.active s))
def execFenceRel (f : MForm) (s : State) : Host.Outcome State Fault Refusal :=
  .next (Res.retire f.sp (opFence .rel f s.cg.active s))
def execFenceFull (f : MForm) (s : State) : Host.Outcome State Fault Refusal :=
  .next (Res.retire f.sp (opFence .full f s.cg.active s))
def execAtomAdd (f : MForm) (s : State) : Host.Outcome State Fault Refusal :=
  .next (Res.retire f.sp (s.atomWord 0x40 f s.cg.active))
def execAtomMin (f : MForm) (s : State) : Host.Outcome State Fault Refusal :=
  .next (Res.retire f.sp (s.atomWord 0x41 f s.cg.active))
def execAtomMax (f : MForm) (s : State) : Host.Outcome State Fault Refusal :=
  .next (Res.retire f.sp (s.atomWord 0x42 f s.cg.active))
def execAtomMinN (f : MForm) (s : State) : Host.Outcome State Fault Refusal :=
  .next (Res.retire f.sp (s.atomWord 0x43 f s.cg.active))
def execAtomMaxN (f : MForm) (s : State) : Host.Outcome State Fault Refusal :=
  .next (Res.retire f.sp (s.atomWord 0x44 f s.cg.active))
def execAtomAnd (f : MForm) (s : State) : Host.Outcome State Fault Refusal :=
  .next (Res.retire f.sp (s.atomWord 0x45 f s.cg.active))
def execAtomOr (f : MForm) (s : State) : Host.Outcome State Fault Refusal :=
  .next (Res.retire f.sp (s.atomWord 0x46 f s.cg.active))
def execAtomXor (f : MForm) (s : State) : Host.Outcome State Fault Refusal :=
  .next (Res.retire f.sp (s.atomWord 0x47 f s.cg.active))
def execAtomExch (f : MForm) (s : State) : Host.Outcome State Fault Refusal :=
  .next (Res.retire f.sp (s.atomWord 0x48 f s.cg.active))
def execAtomCas (f : MForm) (s : State) : Host.Outcome State Fault Refusal :=
  .next (Res.retire f.sp (s.atomWord 0x49 f s.cg.active))
def execAtomFadd (f : MForm) (s : State) : Host.Outcome State Fault Refusal :=
  .next (Res.retire f.sp (s.atomWord 0x4A f s.cg.active))
def execAtomFmin (f : MForm) (s : State) : Host.Outcome State Fault Refusal :=
  .next (Res.retire f.sp (s.atomWord 0x4B f s.cg.active))
def execAtomFmax (f : MForm) (s : State) : Host.Outcome State Fault Refusal :=
  .next (Res.retire f.sp (s.atomWord 0x4C f s.cg.active))
def execAtomIncwrap (f : MForm) (s : State) : Host.Outcome State Fault Refusal :=
  .next (Res.retire f.sp (s.atomWord 0x4D f s.cg.active))
def execRedAdd (f : MForm) (s : State) : Host.Outcome State Fault Refusal :=
  .next (Res.retire f.sp (s.redWord 0x50 f s.cg.active))
def execRedMin (f : MForm) (s : State) : Host.Outcome State Fault Refusal :=
  .next (Res.retire f.sp (s.redWord 0x51 f s.cg.active))
def execRedMax (f : MForm) (s : State) : Host.Outcome State Fault Refusal :=
  .next (Res.retire f.sp (s.redWord 0x52 f s.cg.active))
def execRedMinN (f : MForm) (s : State) : Host.Outcome State Fault Refusal :=
  .next (Res.retire f.sp (s.redWord 0x53 f s.cg.active))
def execRedMaxN (f : MForm) (s : State) : Host.Outcome State Fault Refusal :=
  .next (Res.retire f.sp (s.redWord 0x54 f s.cg.active))
def execRedAnd (f : MForm) (s : State) : Host.Outcome State Fault Refusal :=
  .next (Res.retire f.sp (s.redWord 0x55 f s.cg.active))
def execRedOr (f : MForm) (s : State) : Host.Outcome State Fault Refusal :=
  .next (Res.retire f.sp (s.redWord 0x56 f s.cg.active))
def execRedXor (f : MForm) (s : State) : Host.Outcome State Fault Refusal :=
  .next (Res.retire f.sp (s.redWord 0x57 f s.cg.active))
def execRedFadd (f : MForm) (s : State) : Host.Outcome State Fault Refusal :=
  .next (Res.retire f.sp (s.redWord 0x58 f s.cg.active))
def execRedFmin (f : MForm) (s : State) : Host.Outcome State Fault Refusal :=
  .next (Res.retire f.sp (s.redWord 0x59 f s.cg.active))
def execRedFmax (f : MForm) (s : State) : Host.Outcome State Fault Refusal :=
  .next (Res.retire f.sp (s.redWord 0x5A f s.cg.active))
def execRedIncwrap (f : MForm) (s : State) : Host.Outcome State Fault Refusal :=
  .next (Res.retire f.sp (s.redWord 0x5B f s.cg.active))

end Machine

end Sys2Proof
end

