-- ==== Sys2Proof/Machine/Sync.lean ====
section
/-! DEFINITION. Tagged words, latch and barrier words, FIFO banks and shutters (R220 to R237, R424, R425,
R428, R429, R431, R432). -/

namespace Sys2Proof.Machine

/-! ## Words of the issuing team's own scratch -/

/-- The bank and offset of an own-scratch address of a team. -/
def State.ownSpot (s : State) (c t : Nat) (a : W32) : Option (Nat × Nat) :=
  match s.scratchLoc c t a with
  | some (.own b o) => some (b, o)
  | _ => none
/-- The checks of an own-scratch word: alignment, then an address that is mapped and has DS = 0. -/
def State.ownCheck (s : State) (bytes : Nat) (ls : List LaneAt) (k : Res) : Res :=
  firstTrap s cAlign 0 (fun x => x.addr.toNat % bytes != 0) ls <|
  firstTrap s cScratch 0 (fun x => (s.ownSpot s.cur.core s.cg.team (lo32 x.addr)).isNone) ls k
/-- The word a wait record names, as bank and word; none for a FIFO or the gang latch. -/
def State.waitWord (s : State) (c : Nat) (g : Group) : Option (Nat × Nat) :=
  match g.wait with
  | some r => match r.kind with
    | .ldw | .ldwE | .stwE | .bwait => (s.ownSpot c g.team r.addr).map (fun x => (x.1, x.2 / 4))
    | _ => none
  | none => none
/-- The bank a wait record names. -/
def State.waitBank (s : State) (c : Nat) (g : Group) : Option Nat :=
  match g.wait with
  | some r => match r.kind with
    | .qpush | .qpop => (s.team c g.team).fifoOf r.addr.toNat
    | _ => (s.waitWord c g).map Prod.fst
  | none => none
/-- A BWAIT wait record of the core names the pair of a word. -/
def State.bwaitOn (s : State) (c bank w : Nat) : Bool :=
  (s.liveAt c).any (fun e => match e.2.wait with
    | some r => r.kind == .bwait && (match s.waitWord c e.2 with
      | some (b, v) => b == bank && v / 2 == w / 2
      | none => false)
    | none => false)

/-! ## Serving waits (R225, R227, R233, R236) -/

/-- A group's own acquire after a word that acts as one (R253). -/
def State.acquireAfter (s : State) (c p : Nat) (scope : Scope) : State :=
  (s.setGroup c p { s.group c p with pend := some { kind := .acq, scope } }).tryFence c p
/-- The lanes of a tagged word that can be served now, in ascending order; the rest are returned. -/
def State.serveTagged (s : State) (c p : Nat) (f : MForm) (kind : WaitKind) : List Nat → State × List Nat
  | [] => (s, [])
  | l :: ls =>
    let g := s.group c p
    match s.ownSpot c g.team (g.sAddr f l) with
    | none => let r := s.serveTagged c p f kind ls; (r.1, l :: r.2)
    | some (b, o) =>
      let co := s.core c
      let w := co.word b (o / 4)
      if (kind == .stwE) == w.f then let r := s.serveTagged c p f kind ls; (r.1, l :: r.2)
      else
        let s := if kind == .stwE then
            s.setCore c (co.setWord b (o / 4) { w with data := lo32 (g.read false f.d l), f := true })
          else
            (s.setCore c (if kind == .ldwE then co.setWord b (o / 4) { w with f := false } else co)).setGroup c p
              (g.vput f.d.toNat l w.data)
        s.serveTagged c p f kind ls
/-- PHASE, AGENT and ARRIVED of a barrier's high word, and EXPECTED of its low word (R232). -/
def barPhase (hi : W32) : Bool := hi.getLsbD 31
def barAgent (hi : W32) : Bool := hi.getLsbD 30
/-- One arrival at a barrier word: PHASE before it, and the words after it (R233). -/
def Core.arrive (x : Core) (bank w : Nat) (agent : Bool) : Bool × Core :=
  let lo := x.word bank w
  let hi := x.word bank (w + 1)
  let ph := barPhase hi.data
  let n := hi.data.toNat % 65536 + 1
  let full := decide (max 1 (lo.data.toNat % 65536) ≤ n)
  let v := (if full then 0 else n) + (if barAgent hi.data || agent then 2 ^ 30 else 0) + (if ph != full then 2 ^ 31 else 0)
  (ph, x.setWord bank (w + 1) { hi with data := BitVec.ofNat 32 v })
/-- Entries in a FIFO bank (R235). -/
def Fifo.count (q : Fifo) : Nat := (q.tail + 256 - q.head) % 256
def Core.fifo (x : Core) (bank : Nat) : Fifo := tget {} x.fifos bank
def Core.setFifo (x : Core) (bank : Nat) (q : Fifo) : Core := { x with fifos := tput {} x.fifos bank q }
/-- An entry pushed: the lanes of the set, and zero in the others. -/
def Fifo.push (q : Fifo) (ex : Lanes) (v : Nat → W32) : Fifo :=
  { q with
    data := lanes.foldl (fun t l => tput 0 t (q.tail % 128 * 32 + l) (if lin ex l then v l else 0)) q.data
    tail := (q.tail + 1) % 256 }
def Fifo.headWord (q : Fifo) (l : Nat) : W32 := tget 0 q.data (q.head % 128 * 32 + l)
def Fifo.pop (q : Fifo) : Fifo := { q with head := (q.head + 1) % 256 }

/-- A waiting word of a group is done: the record goes and the group stands after the word. -/
def State.waitDone (s : State) (c p : Nat) (f : MForm) : State :=
  s.setGroup c p ({ s.group c p with wait := none }.advance f.sp)
/-- A FIFO word of a group carried out if it can be now. -/
def State.fifoTry (s : State) (c p : Nat) (f : MForm) (bank : Nat) (ex : Lanes) (push : Bool) : Option State :=
  let g := s.group c p
  let co := s.core c
  let q := co.fifo bank
  if push then
    if 128 ≤ q.count then none
    else some (s.setCore c (co.setFifo bank (q.push ex (fun l => lo32 (g.read false f.d l)))))
  else if q.count = 0 then none
  else some ((s.setCore c (co.setFifo bank q.pop)).setGroup c p
    ((laneList ex).foldl (fun g l => g.vput f.d.toNat l (q.headWord l)) g))
/-- One test of a group's wait record: the state when it makes progress. -/
def State.tryWait (s : State) (c p : Nat) : Option State :=
  let g := s.group c p
  match g.wait with
  | none => none
  | some r => match r.word with
    | none => none
    | some f =>
      match r.kind with
      | .ldw | .ldwE | .stwE =>
        let ls := laneList r.lanes
        let q := s.serveTagged c p f r.kind ls
        if q.2.length = ls.length then none
        else match q.2 with
          | [] =>
            let s := q.1.waitDone c p f
            some (if r.kind == .stwE then s else s.acquireAfter c p .team)
          | l :: _ => some (q.1.setGroup c p { q.1.group c p with
              wait := some { r with lanes := laneSet (fun i => q.2.contains i), addr := (q.1.group c p).sAddr f l } })
      | .bwait =>
        match s.ownSpot c g.team r.addr with
        | some (b, o) =>
          let hi := (s.core c).word b (o / 4 + 1)
          if barPhase hi.data == r.phase then none
          else some ((s.waitDone c p f).acquireAfter c p (if barAgent hi.data then .cluster else .team))
        | none => none
      | .qpush | .qpop =>
        match (s.team c g.team).fifoOf r.addr.toNat with
        | none => none
        | some b => match s.fifoTry c p f b r.lanes (r.kind == .qpush) with
          | none => none
          | some s =>
            let s := s.waitDone c p f
            some (if r.kind == .qpush then s else s.acquireAfter c p .team)
      | .gang => none
/-- The waiting groups of a core in age order. -/
def State.waiters (s : State) (c : Nat) : List Nat :=
  let ws := (s.liveAt c).filter (fun e => e.2.wait.isSome)
  (sortBy (fun e => e.2.age) ws).map Prod.fst
/-- The first waiter that makes progress. -/
def State.wakeOne (s : State) (c : Nat) : List Nat → Option State
  | [] => none
  | p :: ps => match s.tryWait c p with
    | some s' => some s'
    | none => s.wakeOne c ps
/-- The wake tests of a core until nothing changes (R227). -/
def State.wakeN (s : State) (c : Nat) : Nat → State
  | 0 => s
  | n + 1 => match s.wakeOne c (s.waiters c) with
    | some s' => s'.wakeN c n
    | none => s
def State.wake (s : State) (c : Nat) : State := s.wakeN c 4096

/-! ## Tagged words (R424, R425) -/

/-- LDW.F, LDW.F.E and STW.E. -/
def State.taggedWord (s : State) (f : MForm) (kind : WaitKind) (act : Lanes) : Res :=
  let c := s.cur.core
  let p := s.cur.gs
  let g := s.cg
  let ls := g.memLanes false f.g act
  let ats := g.sLanes f ls
  let spot (x : LaneAt) : Nat × Nat := (s.ownSpot c g.team (lo32 x.addr)).getD (0, 0)
  s.gate ((f.d, 1) :: f.sRegs) (!ls.isEmpty) (s.ownCheck 4 ats <|
    firstTrap s cTag 0 (fun x =>
      let (b, o) := spot x
      (s.cc.word b (o / 4)).sp && !(kind != .stwE && s.cc.isLatch b (o / 4))) ats <|
    if (kind == .stwE && !g.acc.isEmpty) || ats.any (fun x => s.accTouches c p (spot x).1 (spot x).2 4) then .hold 6 s
    else
      let r := s.serveTagged c p f kind ls
      let ex := extraClocks (ats.map (fun x => ((spot x).1, (spot x).2 / 4)))
      let r := (r.1.pcountG c p 9 ex, r.2)
      match r.2 with
      | [] => .done (if kind == .stwE then r.1.wake c else (r.1.acquireAfter c p .team).wake c)
      | l :: _ =>
        let s := r.1
        .hold 2 ((s.setCg { s.cg with wait := some { kind, addr := s.cg.sAddr f l, lanes := laneSet (fun i => r.2.contains i), word := some f } }).wake c))
/-- A word with the tag bits of a mask set or cleared. -/
def SWord.tag (w : SWord) (m : BitVec 8) (on : Bool) : SWord :=
  { w with f := if m.getLsbD 0 then on else w.f, sp := if m.getLsbD 1 then on else w.sp }
/-- One word's tags changed; a barrier word whose low S falls leaves the directory (R224). -/
def State.tagWord (s : State) (c bank w : Nat) (m : BitVec 8) (on : Bool) : State :=
  let co := s.core c
  let co := if !on && m.getLsbD 1 then { co with bars := co.bars.filter (fun e => e.1 != bank * 4096 + w) } else co
  s.setCore c (co.setWord bank w ((co.word bank w).tag m on))
/-- TAGSET and TAGCLR. -/
def State.tagOp (s : State) (f : MForm) (on : Bool) (act : Lanes) : Res :=
  let c := s.cur.core
  let p := s.cur.gs
  let g := s.cg
  let ls := g.memLanes false f.g act
  let ats := g.sLanes f ls
  let spot (x : LaneAt) : Nat × Nat := (s.ownSpot c g.team (lo32 x.addr)).getD (0, 0)
  let words (x : LaneAt) : List (Nat × Nat) := (wordsOf (spot x).2 f.size.bytes).map (fun w => ((spot x).1, w))
  s.gate f.sRegs (!ls.isEmpty) (s.ownCheck f.size.bytes ats <|
    firstTrap s cTag 0 (fun x => (words x).any (fun w =>
      s.bwaitOn c w.1 w.2 && (s.cc.word w.1 w.2).tag f.d on != s.cc.word w.1 w.2)) ats <|
    if 63 ≤ g.st || ats.any (fun x => s.accTouches c p (spot x).1 (spot x).2 f.size.bytes) then .hold 6 s
    else .done ((ats.foldl (fun s x => (words x).foldl (fun s w => s.tagWord c w.1 w.2 f.d on) s) s).wake c))

/-! ## Latch and barrier words (R228 to R233, R428, R429) -/

/-- The scalar address of a uniform word, as its one lane. -/
def Group.oneLane (g : Group) (f : MForm) : List LaneAt := g.sLanes f [0]
/-- LARM's pair (R229). -/
def Core.larm (x : Core) (bank w : Nat) (target : Nat) : Core :=
  let ph := barPhase (x.word bank (w + 1)).data
  let z := target == 0
  let x := { x with bars := x.bars.filter (fun e => e.1 != bank * 4096 + w) }
  (x.setWord bank w { data := BitVec.ofNat 32 target, f := z, sp := true }).setWord bank (w + 1)
    { data := if ph != z then 0x80000000 else 0, f := false, sp := true }
/-- BARINIT's pair (R232). -/
def Core.barinit (x : Core) (t bank w : Nat) (expected : Nat) : Core :=
  let k := bank * 4096 + w
  let x := { x with bars := if x.bars.any (fun e => e.1 == k) then x.bars else x.bars ++ [(k, t)] }
  (x.setWord bank w { data := BitVec.ofNat 32 expected, f := false, sp := true }).setWord bank (w + 1) {}
/-- LARM and BARINIT: one step at the bank once the group's scratch accesses are performed. -/
def State.pairWord (s : State) (f : MForm) (act : Lanes) (k : (bank w : Nat) → Res) : Res :=
  let c := s.cur.core
  let g := s.cg
  let ats := g.oneLane f
  s.gate ((f.d, 2) :: f.sRegs) (g.uniGuard f.g act) (s.ownCheck 8 ats <|
    let (b, o) := (s.ownSpot c g.team (g.sAddr f 0)).getD (0, 0)
    if 63 ≤ g.st || g.acc.any (fun a => a.parts.any (fun x => match x.loc with
        | .own _ _ | .dist _ => true
        | _ => false)) then .hold 6 s
    else firstTrap s cTag 0 (fun _ => s.bwaitOn c b (o / 4)) ats (k b (o / 4)))
def opLarm (f : MForm) (act : Lanes) (s : State) : Res :=
  s.pairWord f act (fun b w =>
    .done ((s.setCc (s.cc.larm b w ((s.cg.sfld f.d).toNat % 2 ^ 30))).wake s.cur.core))
def opBarinit (f : MForm) (act : Lanes) (s : State) : Res :=
  s.pairWord f act (fun b w =>
    let known := s.cc.bars.any (fun e => e.1 == b * 4096 + w)
    let mine := (s.cc.bars.filter (fun e => e.2 == s.cg.team)).length
    if !known && (decide (s.ct.nbar ≤ mine) || decide (64 ≤ s.cc.bars.length)) then .trap cBar 0 0 0 s
    else .done ((s.setCc (s.cc.barinit s.cg.team b w ((s.cg.sfld f.d).toNat % 65536))).wake s.cur.core))

/-- A pair of a team or a cluster peer is a barrier word. -/
def State.barAt (s : State) (c t : Nat) (l : Loc) : Bool :=
  match l with
  | .own b o => (s.core c).isBar b (o / 4)
  | .dist a => match s.distBank c t a with
    | some (c', b) => (s.core c').isBar b (saOff a / 4)
    | none => false
  | _ => false
/-- BARR (R429): an arrival at the bank, or through the cluster agent, after its release. -/
def opBarr (f : MForm) (act : Lanes) (s : State) : Res :=
  let c := s.cur.core
  let g := s.cg
  let ats := g.oneLane f
  s.gate ((f.d, 2) :: f.sRegs) (g.uniGuard f.g act) (
    s.memCheck .load .plain 8 ats (fun ps => match ps with
      | [] => .done s
      | x :: _ =>
        firstTrap s cTag 0 (fun _ => !s.barAt c g.team x.loc) ats <|
        match x.loc with
        | .own b o =>
          s.releaseFirst .team 6 (fun s =>
            let r := s.cc.arrive b (o / 4) false
            .done (((s.setCc r.2).setCg (s.cg.sput (sNum f.d) (if r.1 then 1 else 0))).wake c))
        | _ => s.releaseFirst .cluster 6 (fun s => s.issueAcc .barr .plain 0 8 f.d [x])))
/-- BWAIT waits while PHASE equals bit 0 of its operand. -/
def opBwait (f : MForm) (act : Lanes) (s : State) : Res :=
  let c := s.cur.core
  let g := s.cg
  let ats := g.oneLane f
  s.gate ((f.d, 2) :: f.sRegs) (g.uniGuard f.g act) (s.ownCheck 8 ats <|
    let (b, o) := (s.ownSpot c g.team (g.sAddr f 0)).getD (0, 0)
    firstTrap s cTag 0 (fun _ => !s.cc.isBar b (o / 4)) ats <|
    let hi := (s.cc.word b (o / 4 + 1)).data
    let ph := (g.sfld f.d).getLsbD 0
    if barPhase hi == ph then .hold 2 (s.setCg { g with wait := some { kind := .bwait, addr := g.sAddr f 0, phase := ph, word := some f } })
    else .done (s.acquireAfter c s.cur.gs (if barAgent hi then .cluster else .team)))
/-- ARRW arrives and waits in one step. -/
def opArrw (f : MForm) (act : Lanes) (s : State) : Res :=
  let c := s.cur.core
  let g := s.cg
  let ats := g.oneLane f
  s.gate ((f.d, 2) :: f.sRegs) (g.uniGuard f.g act) (s.ownCheck 8 ats <|
    let (b, o) := (s.ownSpot c g.team (g.sAddr f 0)).getD (0, 0)
    firstTrap s cTag 0 (fun _ => !s.cc.isBar b (o / 4)) ats <|
    s.releaseFirst .team 6 (fun s =>
      let a := s.cg.sAddr f 0
      let r := s.cc.arrive b (o / 4) false
      let hi := (r.2.word b (o / 4 + 1)).data
      let s := (s.setCc r.2).setCg (s.cg.sput (sNum f.d) (if r.1 then 1 else 0))
      if barPhase hi == r.1 then .hold 2 ((s.setCg { s.cg with wait := some { kind := .bwait, addr := a, phase := r.1, word := some f } }).wake c)
      else .done ((s.acquireAfter c s.cur.gs (if barAgent hi then .cluster else .team)).wake c)))

/-! ## FIFOs (R236, R432) -/

/-- QPUSH and QPOP. -/
def State.fifoWord (s : State) (f : MForm) (push : Bool) (act : Lanes) : Res :=
  let c := s.cur.core
  let p := s.cur.gs
  let n := f.ofs.toNat % 32
  let ex := s.cg.execSet f.g act
  s.gate [(f.d, 1)] (ex != 0) (
    match s.ct.fifoOf n with
    | none => .trap cFifo n 0 0 s
    | some b =>
      if push && !s.cg.acc.isEmpty then .hold 6 s
      else match s.fifoTry c p f b ex push with
        | some s => .done (if push then s.wake c else (s.acquireAfter c p .team).wake c)
        | none => .hold 2 (s.setCg { s.cg with wait := some {
            kind := if push then .qpush else .qpop, addr := BitVec.ofNat 32 n, lanes := ex, word := some f } }))

/-! ## Shutters (R220 to R222, R431) -/

/-- The cache ways left once every accepted SHUT that takes one has its bank. -/
def Core.waysLeft (x : Core) : Nat := x.cacheWays.length - (x.flips.filter (fun e => !e.begun)).length
/-- A SHUT that takes a cache way for a window or FIFO number. It begins, and chooses its bank, once no earlier SHUT of
its team is in flight (R431). -/
def State.shutTake (s : State) (f : MForm) (fifo : Bool) (act : Lanes) : Res :=
  let n := f.ofs.toNat % 32
  let t := s.cg.team
  let mapped := if fifo then (s.ct.fifoOf n).isSome else (s.ct.bankOf n).isSome
  let taking := s.cc.flips.filter (fun e => e.team == t && !e.giveUp)
  if !s.cg.uniGuard f.g act then .done s
  else if mapped || taking.any (fun e => e.fifo == fifo && e.num == n) || decide (s.cc.waysLeft ≤ 1) ||
      decide (31 ≤ s.ct.win.length + s.ct.fifo.length + taking.length) then .trap cShut 0 0 0 s
  else if 63 ≤ s.cg.cp then .hold 6 s
  else
    let begun := !s.cc.flips.any (fun e => e.team == t)
    let e : Flip := { team := t, gs := s.cur.gs, fifo, num := n, bank := if begun then s.cc.cacheWays.headD 0 else 0
                      giveUp := false, begun, before := [] }
    .done (((s.setCc { s.cc with flips := s.cc.flips ++ [e] }).l1Trim s.cur.core).setCg { s.cg with cp := s.cg.cp + 1 })
/-- The accesses accepted into a bank of a core. -/
def State.accIn (s : State) (c bank : Nat) : List (Nat × Nat) :=
  (s.liveAt c).flatMap (fun e => (e.2.acc.filter (fun a => a.parts.any (fun x => match x.loc with
    | .own b _ => b == bank
    | _ => false))).map (fun a => (e.1, a.id)))
/-- A SHUT that gives up the bank of a window or FIFO number. -/
def State.shutGive (s : State) (f : MForm) (fifo : Bool) (act : Lanes) : Res :=
  let c := s.cur.core
  let n := f.ofs.toNat % 32
  let t := s.cg.team
  if !s.cg.uniGuard f.g act then .done s
  else match (if fifo then s.ct.fifoOf n else s.ct.bankOf n) with
    | none => .trap cShut 0 0 0 s
    | some b =>
      if (s.liveAt c).any (fun e => s.waitBank c e.2 == some b) || s.cc.bars.any (fun e => e.1 / 4096 == b) then
        .trap cShut 0 0 0 s
      else if 63 ≤ s.cg.cp then .hold 6 s
      else
        let e : Flip := { team := t, gs := s.cur.gs, fifo, num := n, bank := b, giveUp := true, before := s.accIn c b }
        let tm := s.ct
        let s := s.setTeam c t (if fifo then { tm with fifo := tm.fifo.filter (fun x => x.1 != n) }
          else { tm with win := tm.win.filter (fun x => x.1 != n) })
        .done ((s.setCc { s.cc with flips := s.cc.flips ++ [e] }).setCg { s.cg with cp := s.cg.cp + 1 })

/-! ## The words -/

def execLdwF (f : MForm) (s : State) : Host.Outcome State Fault Refusal :=
  .next (Res.retire f.sp (s.taggedWord f .ldw s.cg.active))
def execLdwFE (f : MForm) (s : State) : Host.Outcome State Fault Refusal :=
  .next (Res.retire f.sp (s.taggedWord f .ldwE s.cg.active))
def execStwE (f : MForm) (s : State) : Host.Outcome State Fault Refusal :=
  .next (Res.retire f.sp (s.taggedWord f .stwE s.cg.active))
def execTagset (f : MForm) (s : State) : Host.Outcome State Fault Refusal :=
  .next (Res.retire f.sp (s.tagOp f true s.cg.active))
def execTagclr (f : MForm) (s : State) : Host.Outcome State Fault Refusal :=
  .next (Res.retire f.sp (s.tagOp f false s.cg.active))
def execLarm (f : MForm) (s : State) : Host.Outcome State Fault Refusal :=
  .next (Res.retire f.sp (opLarm f s.cg.active s))
def execBarinit (f : MForm) (s : State) : Host.Outcome State Fault Refusal :=
  .next (Res.retire f.sp (opBarinit f s.cg.active s))
def execBarr (f : MForm) (s : State) : Host.Outcome State Fault Refusal :=
  .next (Res.retire f.sp (opBarr f s.cg.active s))
def execBwait (f : MForm) (s : State) : Host.Outcome State Fault Refusal :=
  .next (Res.retire f.sp (opBwait f s.cg.active s))
def execArrw (f : MForm) (s : State) : Host.Outcome State Fault Refusal :=
  .next (Res.retire f.sp (opArrw f s.cg.active s))
def execShutS (f : MForm) (s : State) : Host.Outcome State Fault Refusal :=
  .next (Res.retire f.sp (s.shutTake f false s.cg.active))
def execShutQ (f : MForm) (s : State) : Host.Outcome State Fault Refusal :=
  .next (Res.retire f.sp (s.shutTake f true s.cg.active))
def execShutC (f : MForm) (s : State) : Host.Outcome State Fault Refusal :=
  .next (Res.retire f.sp (s.shutGive f false s.cg.active))
def execShutCq (f : MForm) (s : State) : Host.Outcome State Fault Refusal :=
  .next (Res.retire f.sp (s.shutGive f true s.cg.active))
def execQpush (f : MForm) (s : State) : Host.Outcome State Fault Refusal :=
  .next (Res.retire f.sp (s.fifoWord f true s.cg.active))
def execQpop (f : MForm) (s : State) : Host.Outcome State Fault Refusal :=
  .next (Res.retire f.sp (s.fifoWord f false s.cg.active))

end Sys2Proof.Machine
end

