-- ==== Sys2Proof/Machine/Matrix.lean ====
section
/-! DEFINITION. The matrix unit: operand records and plane tiles (R270 to R275), the matrix sum (R281 to R283),
drain conversion and histograms (R285 to R287), and the words that queue tile operations (R436 to R448). -/

namespace Sys2Proof.Machine

/-! ## Operand formats (R271) -/

/-- How a matrix operand's planes are read. -/
inductive MKind where
  | float (F : Fmt)
  | int (w : Nat)
  | lc2
  deriving DecidableEq, Repr
/-- A matrix operand format: planes of a plane tile, significand planes. -/
structure MFmt where
  planes : Nat
  sig : Nat
  kind : MKind
  deriving DecidableEq, Repr
def mfmt (code : Nat) : Option MFmt :=
  match code with
  | 0x01 => some ⟨5, 2, .float e2m1⟩
  | 0x02 => some ⟨9, 4, .float e4m3⟩
  | 0x03 => some ⟨9, 3, .float e5m2⟩
  | 0x04 => some ⟨17, 8, .float bf16⟩
  | 0x05 => some ⟨17, 11, .float f16⟩
  | 0x06 => some ⟨8, 8, .int 8⟩
  | 0x07 => some ⟨4, 4, .int 4⟩
  | 0x08 => some ⟨3, 2, .lc2⟩
  | _ => none
def MFmt.isInt (m : MFmt) : Bool := match m.kind with | .int _ => true | _ => false

/-- Fields of a data record (R272). -/
def recFmt (d : W64) : Nat := bits d.toNat 24 8
def recNpl (d : W64) : Nat := bits d.toNat 32 5
def recAddr (d : W64) : Nat := bits d.toNat 0 19
/-- The planes an operand uses: those declared, or the format's own (R275). -/
def effNpl (d : W64) (m : MFmt) : Nat := if recNpl d == 0 then m.sig else recNpl d
/-- The conditions on one operand under which no operand fault arises (R273). -/
def recordOk (d sc : W64) : Option MFmt :=
  match mfmt (recFmt d) with
  | none => none
  | some m =>
    if recNpl d ≤ m.sig && bits d.toNat 37 27 == 0 && bits d.toNat 19 5 == 0 && recAddr d % 512 == 0 &&
       bits sc.toNat 19 45 == 0 && bits sc.toNat 0 7 == 0 && (sc == 0 || !m.isInt) then some m else none
/-- Scratch addresses of the planes and, when it is named, the scale tile. -/
def recAddrs (m : MFmt) (d sc : W64) : List W32 :=
  (upto m.planes).map (fun p => BitVec.ofNat 32 (recAddr d + 512 * p)) ++ (if sc == 0 then [] else [lo32 sc])
/-- The register pair a field names. -/
def Group.pairAt (g : Group) (f : BitVec 8) : W64 × W64 := (g.sfld f, g.sfld (f + 1))
def pairRegs (f : BitVec 8) : Regs := [(f, 2), (f + 1, 2)]

/-! ## Elements (R274, R275) -/

/-- Row n of a plane as a 64-bit number. -/
def Core.planeRow (x : Core) (l : Loc) (n : Nat) : Nat :=
  match l with
  | .own b o => x.scrNum b (o + 8 * n) 8
  | _ => 0
/-- Column k of plane rows, first row lowest. -/
def colBits (rows : List Nat) (k : Nat) : Nat := rows.foldr (fun r acc => (if bitOf r k then 1 else 0) + 2 * acc) 0
/-- The low bits under the planes used are read as zero. -/
def topBits (sig npl x : Nat) : Nat := x / 2 ^ (sig - npl) * 2 ^ (sig - npl)
/-- An element from its bits in plane order. -/
def MFmt.elem (m : MFmt) (npl x : Nat) : FVal :=
  match m.kind with
  | .int w => let v := sInt w (topBits w npl x); .fin (decide (v < 0)) v.natAbs 0
  | .lc2 =>
    let mag := topBits 2 npl (x / 2)
    .fin (bitOf x 0 && mag != 0) mag (-1)
  | .float F =>
    let neg := bitOf x 0
    let ex := bits x 1 F.e
    let sg := bits x (1 + F.e) (F.m + 1)
    let top := 2 ^ F.e - 1
    let fr := sg % 2 ^ F.m
    if F.top == .ieee && ex == top then (if fr == 0 then .inf neg else .nan)
    else if F.top == .e4m3 && ex == top && fr == 2 ^ F.m - 1 then .nan
    else .fin neg (topBits (F.m + 1) npl sg) ((max ex 1 : Nat) - (F.bias : Int) - F.m)
/-- The 64 elements of a row of an operand. -/
def Core.operRow (x : Core) (m : MFmt) (npl : Nat) (planes : List Loc) (n : Nat) : List FVal :=
  let rows := (planes.take m.planes).map (fun l => x.planeRow l n)
  (upto 64).map (fun k => m.elem npl (colBits rows k))
/-- The scales of a row's two blocks; 127 without a scale tile (R272). -/
def Core.operScale (x : Core) (m : MFmt) (planes : List Loc) (n q : Nat) : Nat :=
  match planes[m.planes]? with
  | some (.own b o) => x.scrNum b (o + 2 * n + q) 1
  | _ => 127

/-! ## The matrix sum (R281 to R283) -/

/-- x rounded toward zero to a multiple of 2^q. -/
def FVal.window (v : FVal) (q : Int) : FVal :=
  match v with
  | .fin n m e => .fin n (splitAt m e q).1 q
  | x => x
def FVal.scale (v : FVal) (k : Int) : FVal :=
  match v with
  | .fin n m e => .fin n m (e + k)
  | x => x
def FVal.log (v : FVal) : Option Int :=
  match v with
  | .fin _ m e => if m == 0 then none else some (magLog m e)
  | _ => none
/-- One element of the sum over a row of A and a row of B with their scales (R281, R282). -/
def matSum (a b : List FVal) (sa sb : Nat × Nat) (acc : W32) : W32 :=
  let c := f32.val acc.toNat
  let prods := List.zipWith FVal.mul a b
  let vals := c :: prods.map Prod.fst
  let nan := (a ++ b ++ [c]).any FVal.isNan || [sa.1, sa.2, sb.1, sb.2].contains 0xFF || prods.any Prod.snd ||
    (vals.contains (.inf true) && vals.contains (.inf false))
  if nan then 0x7FC00000
  else if vals.contains (.inf false) then 0x7F800000
  else if vals.contains (.inf true) then 0xFF800000
  else
    let blk (q : Nat) (x y : Nat) : FVal :=
      let ps := (((prods.drop (32 * q)).take 32).map Prod.fst).filter (fun v => !v.isZero)
      (fsum (.fin false 0 0 :: ps)).1.scale ((x : Int) + y - 254)
    let ts := [blk 0 sa.1 sb.1, blk 1 sa.2 sb.2, c]
    match ts.filterMap FVal.log with
    | [] => 0
    | e :: es =>
      let top := es.foldl max e
      match (fsum (ts.map (fun v => v.window (top - 48)))).1 with
      | .fin n m x => if m == 0 then 0 else BitVec.ofNat 32 (f32.round rmNear 0 n m x).bits
      | _ => 0
/-- One element of an integer sum (R283). -/
def intSum (a b : List FVal) (acc : W32) : W32 :=
  let t := (List.zipWith (fun x y => x.at 0 * y.at 0) a b).foldl (· + ·) (0 : Int)
  acc + BitVec.ofInt 32 t

/-! ## Accumulator tiles -/

def Core.accAt (x : Core) (t i j : Nat) : W32 := tget 0 x.acc (t * 4096 + i * 64 + j)
/-- A whole tile written, row-major. -/
def Core.setTile (x : Core) (t : Nat) (h : Nat → W32) : Core :=
  let mine := (upto 4096).filterMap (fun i => if h i = 0 then none else some (t * 4096 + i, h i))
  { x with acc := x.acc.filter (fun e => decide (e.1 < t * 4096)) ++ mine ++
                  x.acc.filter (fun e => decide (t * 4096 + 4096 ≤ e.1)) }
/-- One slab into its physical tile (R281, R283, R442): its A with the operand B. -/
def Core.slab (x : Core) (arec : W64) (apl : List Loc) (brec : W64) (bpl : List Loc) (t : Nat) (z : Bool) : Core :=
  match mfmt (recFmt arec), mfmt (recFmt brec) with
  | some ma, some mb =>
    let rows := (upto 64).map (fun i => (x.operRow ma (effNpl arec ma) apl i, x.operScale ma apl i 0, x.operScale ma apl i 1))
    let cols := (upto 64).map (fun j => (x.operRow mb (effNpl brec mb) bpl j, x.operScale mb bpl j 0, x.operScale mb bpl j 1))
    let out := rows.zipIdx.flatMap (fun r => cols.zipIdx.map (fun c =>
      let old := if z then 0 else x.accAt t r.2 c.2
      if ma.isInt then intSum r.1.1 c.1.1 old else matSum r.1.1 c.1.1 r.1.2 c.1.2 old))
    x.setTile t (fun i => out.getD i 0)
  | _, _ => x

/-! ## Drains and histograms (R285 to R287, R446) -/

def drainFmtOf (code : Nat) : Fmt := match code with
  | 0x02 => e4m3 | 0x03 => e5m2 | 0x04 => bf16 | _ => f16
/-- Bytes of a drained element. -/
def drainBytes (code : Nat) : Nat := match code with
  | 0x10 => 4 | 0x04 | 0x05 => 2 | _ => 1
/-- An accumulator element as INT8. -/
def satInt8 (x : W32) : Nat :=
  let v := sInt 32 x.toNat
  wrap 8 (if v < -128 then -128 else if 127 < v then 127 else v)
/-- The rounding of a drain: the override, or the %mode field (R446). -/
def drainRm (fn : BitVec 16) (mode : W64) : Rm :=
  let F := drainFmtOf (fn.toNat % 256)
  if fn.getLsbD 8 then { rnd := bits fn.toNat 9 2, sat := fn.getLsbD 11 } else modeRm mode F.modeLo
/-- The converted elements of a tile in row-major order, with the group's random states after them. -/
def drainElems (fn : BitVec 16) (mode : W64) (g : Group) (xs : List W32) : List Nat × Group :=
  let code := fn.toNat % 256
  if code == 0x10 then (xs.map (·.toNat), g)
  else if code == 0x06 then (xs.map satInt8, g)
  else
    let F := drainFmtOf code
    let rm := drainRm fn mode
    let r := xs.zipIdx.foldl (fun (acc : List Nat × Group) x =>
      let lane := x.2 % 64 % Sys2Proof.width
      let d := rm.draw (acc.2.rget lane)
      ((F.convert rm d.2 (f32.val x.1.toNat)).bits :: acc.1, acc.2.rput lane d.1)) ([], g)
    (r.1.reverse, if rm.rnd = 2 then r.2 else g)
/-- The bin of an element (R286). -/
def histBin (e0 : Int) (x : W32) : Nat :=
  let ex := bits x.toNat 23 8
  let g : Int := (ex : Int) - 127
  if ex == 255 then 31 else if ex == 0 then 0
  else if g < e0 then 1 else if e0 + 27 < g then 30 else (g - e0).toNat + 2
/-- The counts of a drain added as one update (R286, R287). -/
def Core.histAdd (x : Core) (h : Nat) (e0 : Int) (xs : List W32) : Core :=
  { x with hist := xs.foldl (fun t v =>
      let k := h * 32 + histBin e0 v
      tput 0 t k (satInc (tget 0 t k))) x.hist }

/-! ## Common checks (R438) -/

/-- The physical tile of a tile number of the team in issue. -/
def State.tileOf (s : State) (td : BitVec 8) : Option Nat := s.ct.tiles[td.toNat]?
/-- Uniform T-form words: registers free, guard, and nothing past it when it fails. -/
def State.tWord (s : State) (f : TForm) (rs : Regs) (act : Lanes) (k : Res) : Res :=
  s.gate rs (s.cg.uniGuard f.g act) k
/-- The register-range trap of a tile number. -/
def State.tileCheck (s : State) (td : BitVec 8) (k : Nat → Res) : Res :=
  match s.tileOf td with
  | some t => k t
  | none => .trap cRange 0 0 0 s
/-- Scratch addresses of an operand as places; the scratch-unmapped trap names the first one outside. -/
def State.operPlaces (s : State) (as : List W32) (k : List Loc → Res) : Res :=
  let locs := as.map (fun a => (a, s.scratchLoc s.cur.core s.cg.team a))
  match locs.find? (fun x => match x.2 with | some (.own _ _) => false | _ => true) with
  | some x => .trap cScratch 0 0 (x.1.setWidth 64) s
  | none => k (locs.filterMap Prod.snd)
/-- The accesses of a group outstanding now. -/
def State.accBefore (s : State) (c p : Nat) : List (Nat × Nat) := (s.group c p).acc.map (fun a => (p, a.id))
/-- The queue holds 16 operations (R439). -/
def State.queueFull (s : State) : Bool := decide (16 ≤ s.cc.tq.length)
/-- A tile operation of the group in issue enters the queue and counts in tl (R404, R439). -/
def State.enqueue (s : State) (o : TileOp) : Res :=
  if 63 ≤ s.cg.tl then .hold 6 s
  else if s.queueFull then .hold 3 s
  else
    let s := s.setCc { s.cc with tq := s.cc.tq ++ [o] }
    .done (s.setCg { s.cg with tl := s.cg.tl + 1 })

/-! ## TMMA and TMMAG (R440 to R443) -/

/-- The operands of a TMMA: operand faults, then unmapped windows; useB says whether B is read. -/
def State.mmaCheck (s : State) (f : TForm) (useB : Bool) (k : (al bl : List Loc) → Res) : Res :=
  let g := s.cg
  let a := g.pairAt f.ra
  let b := g.pairAt f.rb
  match recordOk a.1 a.2, recordOk b.1 b.2 with
  | none, _ => .trap cOperand 0 0 0 s
  | some ma, mb =>
    if !useB then s.operPlaces (recAddrs ma a.1 a.2) (fun al => k al [])
    else match mb with
    | none => .trap cOperand 0 0 0 s
    | some mb =>
      if ma.isInt != mb.isInt then .trap cOperand 0 0 0 s
      else s.operPlaces (recAddrs ma a.1 a.2) (fun al => s.operPlaces (recAddrs mb b.1 b.2) (fun bl => k al bl))
def zBit (f : TForm) : Bool := f.fn.getLsbD 0
/-- The arrival a TMMA word makes. -/
def State.arrivalOf (s : State) (f : TForm) (idx t : Nat) (al bl : List Loc) : Arrival :=
  let g := s.cg
  let a := g.pairAt f.ra
  let b := g.pairAt f.rb
  { idx, gs := s.cur.gs, arec := a, brec := if bl.isEmpty then (0, 0) else b, tile := t, z := zBit f
    fmt := BitVec.ofNat 8 (recFmt a.1)
    npl := BitVec.ofNat 8 (match mfmt (recFmt a.1) with | some m => effNpl a.1 m | none => 0)
    sp := f.sp, apl := al, bpl := bl }
def opTmma (f : TForm) (act : Lanes) (s : State) : Res :=
  s.tWord f (pairRegs f.ra ++ pairRegs f.rb) act (
    s.tileCheck f.td (fun t => s.mmaCheck f true (fun al bl =>
      s.enqueue { gs := s.cur.gs, tile := t, kind := .mma [s.arrivalOf f 0 t al bl]
                  before := s.accBefore s.cur.core s.cur.gs, mode := s.cg.mode })))
/-- Every member of a full latch goes on after its word, and the operation enters the queue (R442). -/
def State.fireGang (s : State) (a : Arrival) : Res :=
  let c := s.cur.core
  let l := s.cc.latch
  let slabs := sortBy (fun (x : Arrival) => x.idx) (l.arrivals ++ [a])
  let o : TileOp := { gs := a.gs, tile := a.tile, kind := .mma slabs
                      before := slabs.flatMap (fun x => s.accBefore c x.gs), mode := s.cg.mode }
  let s := s.setCc { s.cc with tq := s.cc.tq ++ [o], latch := {} }
  let s := l.arrivals.foldl (fun s x => s.setGroup c x.gs ({ s.group c x.gs with wait := none }.advance x.sp)) s
  .done (s.setCg { s.cg with tl := s.cg.tl + 1 })
/-- One member arrives at the gang latch (R441, R443). -/
def State.gangArrive (s : State) (a : Arrival) (fn : BitVec 16) : Res :=
  let g := s.cg
  let l := s.cc.latch
  let list := gangList g.gang
  let live := (s.liveAt s.cur.core).filter (fun e => e.2.team == g.team)
  if !list.all (fun m => live.any (fun e => e.2.grp == m)) then .trap cGang 0 0 0 (s.gangFault s.cur.core)
  else if 63 ≤ g.tl then .hold 6 s
  else if l.arrivals.length + 1 == list.length then (if s.queueFull then .hold 3 s else s.fireGang a)
  else
    let s := s.setCc { s.cc with latch := { list := g.gang, team := g.team, fn, arrivals := l.arrivals ++ [a] } }
    .hold 3 (s.setCg { g with wait := some { kind := .gang }, tl := g.tl + 1 })
def opTmmag (f : TForm) (act : Lanes) (s : State) : Res :=
  let g := s.cg
  let list := gangList g.gang
  let m0 := list.head? == some g.grp
  s.tWord f (pairRegs f.ra ++ (if m0 then pairRegs f.rb else [])) act (
    s.tileCheck f.td (fun t => s.mmaCheck f m0 (fun al bl =>
      if !list.contains g.grp then .trap cGang 0 0 0 s
      else
        let a := s.arrivalOf f (list.idxOf g.grp) t al bl
        let l := s.cc.latch
        match l.arrivals with
        | [] => s.gangArrive a f.fn
        | x :: _ =>
          if l.team != g.team || !(gangList l.list).contains g.grp then .hold 3 s
          else if l.list != g.gang || l.fn != f.fn || x.fmt != a.fmt || x.npl != a.npl then
            .trap cGang 0 0 0 (s.gangFault s.cur.core)
          else s.gangArrive a f.fn)))

/-! ## TZERO, TLOADA, TDRAIN, HREAD, CBOOK (R444 to R448) -/

def opTzero (f : TForm) (act : Lanes) (s : State) : Res :=
  let n := f.fn.toNat % 16 + 1
  s.tWord f [] act (
    let ts := (upto n).map (fun i => s.ct.tiles[f.td.toNat + i]?)
    if ts.any Option.isNone then .trap cRange 0 0 0 s
    else s.enqueue { gs := s.cur.gs, tile := 0, kind := .zero (ts.filterMap id)
                     before := s.accBefore s.cur.core s.cur.gs, mode := s.cg.mode })
/-- The 16-byte places of a tile in memory, row by row: e bytes an element. -/
def tilePlaces (addr : W64) (stride e : Nat) : List LaneAt :=
  (upto 64).flatMap (fun i => (upto (4 * e)).map (fun j =>
    let a := addr + BitVec.ofNat 64 (i * stride + 16 * j)
    { lane := 0, addr := a, tgt := globTgt a }))
/-- n consecutive places of a size. -/
def runPlaces (addr : W64) (n size : Nat) : List LaneAt :=
  (upto n).map (fun i => let a := addr + BitVec.ofNat 64 (i * size); { lane := 0, addr := a, tgt := globTgt a })
/-- Places numbered in order. -/
def numbered (ps : List LanePart) : List LanePart := ps.zipIdx.map (fun x => { x.1 with lane := x.2 })
/-- The checks on the memory side of a tile word, then its entry in the queue. -/
def State.tileMem (s : State) (op : AccOp) (size : Nat) (ats : List LaneAt) (o : TileOp) : Res :=
  s.memCheck op .plain size ats (fun ps => s.enqueue { o with parts := numbered ps })
/-- Address and stride of TLOADA and TDRAIN: multiples of 16, the stride at least a row (R445). -/
def State.strideCheck (s : State) (a : W64 × W64) (e : Nat) (k : Nat → Res) : Res :=
  let stride := (lo32 a.2).toNat
  if a.1.toNat % 16 != 0 || stride % 16 != 0 || decide (stride < 64 * e) then .trap cAlign 0 0 a.1 s else k stride
def opTloada (f : TForm) (act : Lanes) (s : State) : Res :=
  s.tWord f (pairRegs f.ra) act (s.tileCheck f.td (fun t =>
    let a := s.cg.pairAt f.ra
    let e := if f.fn.toNat % 4 == 0 then 4 else 2
    s.strideCheck a e (fun stride => s.tileMem .load 16 (tilePlaces a.1 stride e)
      { gs := s.cur.gs, tile := t, kind := .loada (f.fn.toNat % 4), before := s.accBefore s.cur.core s.cur.gs
        mode := s.cg.mode })))
def opTdrain (f : TForm) (act : Lanes) (s : State) : Res :=
  let hen := f.fn.getLsbD 12
  s.tWord f (pairRegs f.ra ++ (if hen then [(f.aux, 2)] else [])) act (s.tileCheck f.td (fun t =>
    let a := s.cg.pairAt f.ra
    let e := drainBytes (f.fn.toNat % 256)
    let e0 : Byte := if hen then (s.cg.sfld f.aux).setWidth 8 else 0
    s.strideCheck a e (fun stride => s.tileMem .store 16 (tilePlaces a.1 stride e)
      { gs := s.cur.gs, tile := t, kind := .drain f.fn e0, before := s.accBefore s.cur.core s.cur.gs
        mode := s.cg.mode })))
def opHread (f : TForm) (act : Lanes) (s : State) : Res :=
  s.tWord f [(f.ra, 2)] act (
    s.tileMem .store 16 (runPlaces (s.cg.sfld f.ra) 8 16)
      { gs := s.cur.gs, tile := 0, kind := .hread (f.fn.toNat % 8) (f.fn.getLsbD 3)
        before := s.accBefore s.cur.core s.cur.gs, mode := s.cg.mode })
/-- A CBOOK in the queue is numbered by the core's count (R448). -/
def countBook (r : Res) : Res :=
  match r with
  | .done s' => .done (s'.setCc { s'.cc with booksIssued := s'.cc.booksIssued + 1 })
  | r' => r'
def opCbook (f : TForm) (act : Lanes) (s : State) : Res :=
  let a := s.cg.sfld f.ra
  s.tWord f [(f.ra, 2)] act (
    countBook (s.tileMem .load 8 (runPlaces a 64 8)
      { gs := s.cur.gs, tile := 0, kind := .cbook a false, before := s.accBefore s.cur.core s.cur.gs, mode := s.cg.mode }))
def opCbookDef (f : TForm) (act : Lanes) (s : State) : Res :=
  s.tWord f [] act (
    countBook (s.enqueue { gs := s.cur.gs, tile := 0, kind := .cbook 0 true
                           before := s.accBefore s.cur.core s.cur.gs, mode := s.cg.mode }))

/-! ## The words -/

def execTmma (f : TForm) (s : State) : Host.Outcome State Fault Refusal :=
  .next (Res.retire f.sp (opTmma f s.cg.active s))
def execTmmag (f : TForm) (s : State) : Host.Outcome State Fault Refusal :=
  .next (Res.retire f.sp (opTmmag f s.cg.active s))
def execTzero (f : TForm) (s : State) : Host.Outcome State Fault Refusal :=
  .next (Res.retire f.sp (opTzero f s.cg.active s))
def execTloada (f : TForm) (s : State) : Host.Outcome State Fault Refusal :=
  .next (Res.retire f.sp (opTloada f s.cg.active s))
def execTdrain (f : TForm) (s : State) : Host.Outcome State Fault Refusal :=
  .next (Res.retire f.sp (opTdrain f s.cg.active s))
def execHread (f : TForm) (s : State) : Host.Outcome State Fault Refusal :=
  .next (Res.retire f.sp (opHread f s.cg.active s))
def execCbook (f : TForm) (s : State) : Host.Outcome State Fault Refusal :=
  .next (Res.retire f.sp (opCbook f s.cg.active s))
def execCbookDef (f : TForm) (s : State) : Host.Outcome State Fault Refusal :=
  .next (Res.retire f.sp (opCbookDef f s.cg.active s))

end Sys2Proof.Machine
end

