-- ==== Sys2Proof/Machine/Cte.lean ====
section
/-! DEFINITION. Latch arrivals (R230, R231) and the words of the core transfer engine at issue (R449 to R456). -/

namespace Sys2Proof.Machine

/-! ## Latch words (R228, R230) -/

/-- TARGET − ARRIVED of a latch word. -/
def latchLeft (lo hi : SWord) : Nat := lo.data.toNat - hi.data.toNat % 2 ^ 30
/-- One engine arrival of n bytes: the words of the pair after it. -/
def latchStep (lo hi : SWord) (n : Nat) : SWord × SWord :=
  let a := hi.data.toNat % 2 ^ 30 + n
  let ph := barPhase hi.data
  let ov := hi.data.getLsbD 30
  let put (ph ov : Bool) (a : Nat) : SWord :=
    { hi with data := BitVec.ofNat 32 (a + (if ov then 2 ^ 30 else 0) + (if ph then 2 ^ 31 else 0)) }
  if lo.data.toNat ≤ a then ({ lo with f := true }, put (!ph) (ov || decide (lo.data.toNat < a) || lo.f) 0)
  else (lo, put ph ov a)
/-- The pair of a latch address of a team, when it is a latch word (R231). -/
def State.latchSpot (s : State) (c t : Nat) (a : W32) : Option (Nat × Nat) :=
  match s.ownSpot c t a with
  | some (b, o) => if o % 8 == 0 && (s.core c).isLatch b (o / 4) then some (b, o / 4) else none
  | none => none
/-- An arrival at a latch of a team, with the wake tests of the bank; none where the address is no latch word.
An arrival that completes the phase counts what is left. -/
def State.arriveLatch (s : State) (c t : Nat) (a : W32) (n : Option Nat) : Option State :=
  match s.latchSpot c t a with
  | none => none
  | some (b, w) =>
    let co := s.core c
    let lo := co.word b w
    let hi := co.word b (w + 1)
    let r := latchStep lo hi (n.getD (latchLeft lo hi))
    some ((s.setCore c ((co.setWord b w r.1).setWord b (w + 1) r.2)).wake c)

/-- No latch (R450). -/
def noLatch (l : W64) : Bool := l == 0xFFFFFFFF
/-- The operand fault of a latch operand (R450). -/
def latchBad (l : W64) : Bool := hi32 l != 0

/-! ## Issue (R258, R449) -/

/-- The widest scope an address reaches for an engine's release (R258). -/
def State.reachOf (s : State) (va : W64) : Scope :=
  match globTgt va with
  | .scr _ => .team
  | .glob va => match (s.translate (coreDie s.cur.core) s.ct.func s.ct.ctx va 0).1 with
    | .ok e => (match e.loc with | .far _ _ => .system | _ => .device)
    | .error _ => .device
/-- The wider of two scopes. -/
def widest (a b : Scope) : Scope := if a.code.toNat < b.code.toNat then b else a
/-- The lowest free descriptor of a core. -/
def Core.freeDesc (x : Core) (busy : Nat → Bool) : Option Nat := (upto 16).find? (fun d => (tget none x.cte d).isNone && !busy d)
/-- A request of a descriptor that was abandoned has no response yet. -/
def State.descBusy (s : State) (c d : Nat) : Bool :=
  s.streams.any (fun x => (x.out ++ x.queue).any (fun y => match y.2 with
    | .unit c' d' _ => c' == c && d' == d
    | .sig c' d' => c' == c && d' == d
    | _ => false))
/-- An engine word past its checks: the release, then a descriptor and a count in cp. -/
def State.startCte (s : State) (scope : Scope) (kind : CteKind) (latch : W64) : Res :=
  if 63 ≤ s.cg.cp then .hold 6 s
  else s.releaseFirst scope 4 (fun s =>
    match s.cc.freeDesc (s.descBusy s.cur.core) with
    | none => .hold 6 s
    | some d =>
      let x : CteDesc := { gs := s.cur.gs, kind, latch, mode := s.cg.mode, book := s.cc.booksIssued }
      let s := s.setCc { s.cc with cte := tput none s.cc.cte d (some x) }
      .done (s.setCg { s.cg with cp := s.cg.cp + 1 }))
/-- An operand fault where a condition holds. -/
def operandIf (s : State) (bad : Bool) (k : Res) : Res := if bad then .trap cOperand 0 0 0 s else k

/-! ## TSPLIT (R452, R453) -/

/-- The pairs of formats a TSPLIT takes (R453). -/
def splitOk (sfmt fmt : Nat) : Bool :=
  (sfmt == fmt && decide (1 ≤ fmt) && decide (fmt ≤ 8)) ||
  ((sfmt == 0x10 || sfmt == 0x04 || sfmt == 0x05) && decide (1 ≤ fmt) && decide (fmt ≤ 7))
def opTsplit (f : TForm) (act : Lanes) (s : State) : Res :=
  let ss := f.fn.getLsbD 8
  let sfmt := f.fn.toNat % 256
  s.tWord f (pairRegs f.ra ++ pairRegs f.rb ++ [(f.aux, 2)] ++ (if ss then [(f.td, 2)] else [])) act (
    let a := s.cg.pairAt f.ra
    let b := s.cg.pairAt f.rb
    let latch := s.cg.sfld f.aux
    let scl := s.cg.sfld f.td
    let stride := (lo32 a.2).toNat
    match recordOk b.1 b.2 with
    | none => .trap cOperand 0 0 0 s
    | some _ =>
      operandIf s (latchBad latch || recNpl b.1 != 0 || !splitOk sfmt (recFmt b.1)) (
        if a.1.toNat % 16 != 0 || stride % 16 != 0 then .trap cAlign 0 0 a.1 s
        else if ss && scl.toNat % 16 != 0 then .trap cAlign 0 0 scl s
        else
          let scope := widest (s.reachOf a.1) (if ss then s.reachOf scl else .team)
          s.startCte scope (.tsplit a.1 stride b.1 b.2 sfmt (if ss then some scl else none)) latch))

/-! ## Copies (R454) -/

/-- The operands of CPY, CPY2 and CPY3. -/
structure CopyArgs where
  len : Nat
  rows : Nat := 1
  planes : Nat := 1
  srs : Nat := 0
  drs : Nat := 0
  sps : Nat := 0
  dps : Nat := 0
  deriving DecidableEq, Repr
/-- The limits on lengths and counts. -/
def CopyArgs.ok (x : CopyArgs) (most : Nat) : Bool :=
  decide (1 ≤ x.len) && decide (x.len ≤ most) && decide (1 ≤ x.rows) && decide (x.rows ≤ 2 ^ 31) &&
  decide (1 ≤ x.planes) && decide (x.planes ≤ 2 ^ 31)
/-- A copy word with its operands read. -/
def State.copyWord (s : State) (f : TForm) (most : Nat) (useB : Bool) (act : Lanes) (args : Group → CopyArgs) : Res :=
  s.tWord f (pairRegs f.ra ++ (if useB then pairRegs f.rb else [(f.rb, 2)]) ++ [(f.aux, 2)] ++
      (if f.td == 0 then [] else pairRegs f.td)) act (
    let g := s.cg
    let latch := g.sfld f.aux
    let x := args g
    operandIf s (latchBad latch || !x.ok most) (
      s.startCte (widest (s.reachOf (g.sfld f.ra)) (s.reachOf (g.sfld f.rb)))
        (.copy (g.sfld f.ra) (g.sfld f.rb) x.len x.rows x.planes x.srs x.drs x.sps x.dps) latch))
def Group.cpyLen (g : Group) (f : TForm) : Nat := bits (g.pairAt f.ra).2.toNat 0 40
def opCpy (f : TForm) (act : Lanes) (s : State) : Res :=
  s.copyWord f (2 ^ 40 - 1) false act (fun g => { len := g.cpyLen f })
/-- Rows and strides of CPY2. -/
def Group.cpy2 (g : Group) (f : TForm) : CopyArgs :=
  let b := (g.pairAt f.rb).2.toNat
  { len := g.cpyLen f, rows := bits b 0 32, srs := bits b 32 32, drs := bits (g.pairAt f.ra).2.toNat 40 24 }
def opCpy2 (f : TForm) (act : Lanes) (s : State) : Res :=
  s.copyWord f (2 ^ 24) true act (fun g => g.cpy2 f)
def opCpy3 (f : TForm) (act : Lanes) (s : State) : Res :=
  s.copyWord f (2 ^ 24) true act (fun g =>
    let t := g.pairAt f.td
    { g.cpy2 f with planes := bits t.2.toNat 0 32, sps := bits t.1.toNat 0 32, dps := bits t.1.toNat 32 32 })

/-! ## FPUT, FGET, FSIG (R455, R456) -/

def opFput (f : TForm) (act : Lanes) (s : State) : Res :=
  let sig := f.fn.getLsbD 2
  s.tWord f (pairRegs f.ra ++ (if sig then pairRegs f.rb else [(f.rb, 2)]) ++ [(f.aux, 2)]) act (
    let g := s.cg
    let latch := g.sfld f.aux
    let rl := (g.pairAt f.rb).2
    let len := g.cpyLen f
    operandIf s (latchBad latch || len == 0 || (sig && rl.toNat % 8 != 0)) (
      s.startCte .system (.fput (g.sfld f.ra) (g.sfld f.rb) len (f.fn.extractLsb' 0 2) (if sig then some rl else none)) latch))
def opFget (f : TForm) (act : Lanes) (s : State) : Res :=
  s.tWord f (pairRegs f.ra ++ [(f.rb, 2), (f.aux, 2)]) act (
    let g := s.cg
    let latch := g.sfld f.aux
    let len := g.cpyLen f
    operandIf s (latchBad latch || len == 0) (
      s.startCte .system (.fget (g.sfld f.ra) (g.sfld f.rb) len (f.fn.extractLsb' 0 2)) latch))
def opFsig (f : TForm) (act : Lanes) (s : State) : Res :=
  s.tWord f (pairRegs f.ra ++ pairRegs f.rb) act (
    let a := s.cg.pairAt f.ra
    let b := s.cg.pairAt f.rb
    let wide := f.fn.getLsbD 0
    operandIf s (a.1.toNat % (if wide then 8 else 4) != 0 || b.1.toNat % 8 != 0) (
      s.startCte .system (.fsig a.1 a.2 b.1 b.2 wide (f.fn.extractLsb' 1 2)) 0xFFFFFFFF))

/-! ## The words -/

def execTsplit (f : TForm) (s : State) : Host.Outcome State Fault Refusal :=
  .next (Res.retire f.sp (opTsplit f s.cg.active s))
def execCpy (f : TForm) (s : State) : Host.Outcome State Fault Refusal :=
  .next (Res.retire f.sp (opCpy f s.cg.active s))
def execCpy2 (f : TForm) (s : State) : Host.Outcome State Fault Refusal :=
  .next (Res.retire f.sp (opCpy2 f s.cg.active s))
def execCpy3 (f : TForm) (s : State) : Host.Outcome State Fault Refusal :=
  .next (Res.retire f.sp (opCpy3 f s.cg.active s))
def execFput (f : TForm) (s : State) : Host.Outcome State Fault Refusal :=
  .next (Res.retire f.sp (opFput f s.cg.active s))
def execFget (f : TForm) (s : State) : Host.Outcome State Fault Refusal :=
  .next (Res.retire f.sp (opFget f s.cg.active s))
def execFsigInstr (f : TForm) (s : State) : Host.Outcome State Fault Refusal :=
  .next (Res.retire f.sp (opFsig f s.cg.active s))

end Sys2Proof.Machine
end

