-- ==== Sys2Proof/Machine/Coll.lean ====
section
/-! DEFINITION. Collectives at a member: the key table, registration and completion (R71, R72, R457 to R460), and
COLL, CCANCEL and CSTAT (R459, R462, R463). -/

namespace Sys2Proof.Machine

/-! ## Writing for a function or a team -/

/-- The resident team of a launch with a team index: core and place (R296). -/
def State.teamBy (s : State) (launch index : Nat) : Option (Nat × Nat) :=
  (s.teamsOf (fun _ t => t.launch == launch && s.teamIndex t == index)).head?
/-- Bytes written where an engine of the function names them: by virtual address, or in a team's scratch. -/
def State.engineWrite (s : State) (f ctx launch index : Nat) (va : W64) (bs : List Byte) : State :=
  match globTgt va with
  | .glob va => s.devPut f ctx va bs
  | .scr a => match s.teamBy launch index with
    | some (c, t) => match s.ownSpot c t a with
      | some (b, o) => s.setCore c ((s.core c).scrPut b o bs.length (leNat bs))
      | none => s
    | none => s
/-- The arrival that completes a latch phase of a team, resident or saved (R460). -/
def State.finishLatch (s : State) (launch index : Nat) (a : W32) : State :=
  match s.teamBy launch index with
  | some (c, t) => (s.arriveLatch c t a none).getD s
  | none =>
    { s with savedTeams := s.savedTeams.map (fun x =>
        if x.launch == launch && s.teamIndex x.team == index && bits a.toNat 19 13 == 0 && a.toNat % 8 == 0 then
          let k := saWin a * 4096 + saOff a / 4
          let lo := tget {} x.scr k
          let hi := tget {} x.scr (k + 1)
          if lo.sp && hi.sp then
            let r := latchStep lo hi (latchLeft lo hi)
            { x with scr := tput {} (tput {} x.scr k r.1) (k + 1) r.2 }
          else x
        else x) }

/-! ## Descriptors (R457 to R459) -/

def rOK : Byte := 0x01
def rCANCELLED : Byte := 0x02
def rDUPKEY : Byte := 0x03
def rNOENTRY : Byte := 0x04
def rUNKNOWN : Byte := 0x05
def rBADDESC : Byte := 0x06
def rERROR : Byte := 0x07
def rPEERERR : Byte := 0x08

/-- A descriptor's key and contents from its eight words. -/
structure RawDesc where
  comm : BitVec 16
  tag : W32
  d : CollDesc
  reserved : Bool
  deriving DecidableEq, Repr
/-- Reading the words of a descriptor at an address for a team's context. -/
def rawDesc (ws : List W64) (addr : W64) (ctx launch index : Nat) : RawDesc :=
  let w (i : Nat) : Nat := (ws.getD i 0).toNat
  { comm := BitVec.ofNat 16 (w 0), tag := BitVec.ofNat 32 (w 0 / 2 ^ 32)
    reserved := bits (w 4) 24 40 != 0 || bits (w 5) 32 24 != 0
    d := { addr, kind := bits (w 0) 16 8, op := bits (w 0) 24 8, count := w 1, src := BitVec.ofNat 64 (w 2)
           dst := BitVec.ofNat 64 (w 3), root := bits (w 4) 0 16, dtype := bits (w 4) 16 8
           latch := if bitOf (w 5) 63 then some (BitVec.ofNat 32 (w 5)) else none, launch, index, ctx } }
/-- Elements of SRC and DST for P members (R458). -/
def CollDesc.srcN (d : CollDesc) (p : Nat) : Nat := if d.kind == 3 then p * d.count else d.count
def CollDesc.dstN (d : CollDesc) (p : Nat) : Nat := if d.kind == 2 then p * d.count else d.count
/-- SRC and DST are disjoint, or identical where that is allowed (R458). -/
def CollDesc.overlapOk (d : CollDesc) (p : Nat) : Bool :=
  let a := d.src.toNat
  let b := d.dst.toNat
  ((d.kind == 1 || d.kind == 4) && a == b) || decide (a + 4 * d.srcN p ≤ b) || decide (b + 4 * d.dstN p ≤ a)
/-- The refusal of a registration, in the order of R459. -/
def State.descBad (s : State) (f : Nat) (r : RawDesc) (graph : Bool) : Option Byte :=
  let d := r.d
  let ms := tget [] s.comms r.comm.toNat
  if r.reserved || d.addr.toNat % 64 != 0 || d.kind == 0 || decide (5 < d.kind) || decide (2 < d.op) ||
     !(d.dtype == 0 || d.dtype == 1 || d.dtype == 8) || d.count == 0 || decide (2 ^ 32 ≤ d.count) ||
     d.src.toNat % 4 != 0 || d.dst.toNat % 4 != 0 || !d.overlapOk (max 1 ms.length) || (graph && d.latch.isSome) then
    some rBADDESC
  else if !ms.contains (s.func f).vdn then some rUNKNOWN
  else if ms.length ≤ d.root then some rBADDESC
  else none

/-! ## Completion and registration (R72, R460) -/

/-- STATUS and CRESULT words (R457). -/
def statusBytes (result : Byte) (num : Option W32) : List Byte :=
  leBytes 8 (result.toNat + match num with | some n => 2 ^ 8 + n.toNat * 2 ^ 32 | none => 0)
/-- The final result of a collective: STATUS, then the latch (R460). -/
def State.completeColl (s : State) (f : Nat) (d : CollDesc) (result : Byte) (num : Option W32) : State :=
  let s := s.engineWrite f d.ctx d.launch d.index (d.addr + 0x30) (statusBytes result num)
  match d.latch with
  | some a => s.finishLatch d.launch d.index a
  | none => s
/-- The key table entry of a function. -/
def State.keyOf (s : State) (f : Nat) (comm : BitVec 16) (tag : W32) : Option KeyEnt :=
  s.keys.find? (fun k => k.func == f && k.comm == comm && k.tag == tag)
def isKey (f : Nat) (comm : BitVec 16) (tag : W32) (k : KeyEnt) : Bool := k.func == f && k.comm == comm && k.tag == tag
/-- A registration of a checked descriptor; the status of a refusal, where the engine refuses it (R72, R82). -/
def State.register (s : State) (f : Nat) (r : RawDesc) (graph : Bool) : State × Option Byte :=
  match s.descBad f r graph with
  | some st => (s.completeColl f r.d st none, some st)
  | none =>
    match s.keyOf f r.comm r.tag with
    | some k =>
      if k.issued then (s.completeColl f r.d rDUPKEY none, some rDUPKEY)
      else if k.void_ then
        let s := s.mapKey (isKey f r.comm r.tag) (fun k => { k with issued := true })
        (s.completeColl f r.d rCANCELLED k.num, none)
      else (s.mapKey (isKey f r.comm r.tag) (fun k => { k with issued := true, desc := some r.d }), none)
    | none =>
      if 4096 ≤ s.keys.length then (s.completeColl f r.d rNOENTRY none, some rNOENTRY)
      else
        let k : KeyEnt := { func := f, comm := r.comm, tag := r.tag, issued := true, desc := some r.d }
        ({ s with keys := s.keys ++ [k] }.engineMsg f 0x10 r.comm r.tag 0 0, none)

/-! ## Reading a descriptor as a load of the group (R459, R462) -/

/-- The descriptor's words, or what the group waits for. -/
inductive DescRead where
  | words (ws : List (Option W64)) (s : State)
  | wait (s : State)
/-- One word at a place, its cached copies written back first; none where it is not here. -/
def State.descWord (s : State) (c p : Nat) (x : LanePart) : Option (Option W64) :=
  match x.loc with
  | .own b o => some (some (BitVec.ofNat 64 ((s.core c).scrNum b o 8)))
  | .dist a => match s.distBank c (s.group c p).team a with
    | some (c', b) => some (some (BitVec.ofNat 64 ((s.core c').scrNum b (saOff a) 8)))
    | none => some none
  | .home pa => some (some (BitVec.ofNat 64 (s.homeNum pa 8)))
  | .pool a => (s.l2Num a 8).map (fun v => some (BitVec.ofNat 64 v))
  | .far _ _ => match (s.group c p).dread with
    | some l => (l.find? (fun e => e.1 == x.lane)).map Prod.snd
    | none => none
  | _ => some none
/-- Requests for the words that are not here. -/
def State.askDesc (s : State) (c p : Nat) (ps : List LanePart) : State :=
  let g := s.group c p
  let tm := s.team c g.team
  let first := g.dread.isNone
  let s := if first && ps.any (fun x => match x.loc with | .far _ _ => true | _ => false) then
      s.setGroup c p { g with dread := some [] } else s
  ps.foldl (fun s x => match x.loc with
    | .pool a => s.askSectors c tm.func tm.ctx (.pool a) 8
    | .far a _ => if first then s.sendReq (pkRead (s.groupHdr c p 0 .system) a 8) (.desc c p x.lane) else s
    | _ => s) s
/-- The words of a descriptor's checked places; a failed one is none, its group's fault recorded (R61). -/
def State.readDesc (s : State) (c p : Nat) (ps : List LanePart) : DescRead :=
  let s := ps.foldl (fun s x => match locKey x.loc with | some k => s.l1Back c k true | none => s) s
  if s.evicting c then .wait s
  else
    let ws := ps.map (s.descWord c p)
    if ws.all Option.isSome then
      let s := s.setGroup c p { s.group c p with dread := none }
      let s := ps.foldl (fun s x => match x.loc with
        | .home pa => if s.poisoned pa 8 then s.consume c p pa x.own x.priv x.va else s
        | .err st => s.setGroup c p ((s.group c p).remoteFault st x.va.toNat)
        | .window _ => s.setGroup c p ((s.group c p).remoteFault stAccess x.va.toNat)
        | _ => s) s
      .words (ws.map (fun x => x.getD none)) s
    else .wait (s.askDesc c p ps)

/-! ## COLL, CCANCEL and CSTAT -/

def opColl (f : TForm) (act : Lanes) (s : State) : Res :=
  let c := s.cur.core
  let p := s.cur.gs
  let addr := s.cg.sfld f.ra
  s.tWord f [(f.ra, 2)] act (
    s.memCheck .load .system 8 (runPlaces addr 8 8) (fun ps =>
      s.releaseFirst .system 4 (fun s =>
        match s.readDesc c p (numbered ps) with
        | .wait s => .hold 4 s
        | .words ws s =>
          let s := s.setRecords c p .load .system ps
          if ws.any Option.isNone then .done s
          else
            let tm := s.ct
            let index := s.teamIndex tm
            let r := rawDesc (ws.map (fun w => w.getD 0)) addr tm.ctx tm.launch index
            let s := s.engineWrite tm.func tm.ctx tm.launch index (addr + 0x30) (statusBytes 0 none)
            .done (s.register tm.func r false).1)))
/-- Some outstanding access of the group touches a range. -/
def State.accMeets (s : State) (c p : Nat) (l : Loc) (n : Nat) : Bool :=
  let g := s.group c p
  g.acc.any (fun b => b.parts.any (fun y => s.meets c g.team l n y.loc b.bytes))
def opCcancel (f : TForm) (act : Lanes) (s : State) : Res :=
  let c := s.cur.core
  let p := s.cur.gs
  let addr := s.cg.sfld f.ra
  let latch := s.cg.sfld f.aux
  s.tWord f [(f.ra, 2), (f.aux, 2)] act (operandIf s (latchBad latch) (
    s.memCheck .load .system 8 (runPlaces addr 1 8) (fun ps =>
      if decide (63 ≤ s.cg.cp) || ps.any (fun x => s.accMeets c p x.loc 8) then .hold 6 s
      else match s.readDesc c p (numbered ps) with
      | .wait s => .hold 6 s
      | .words ws s =>
        let s := s.setRecords c p .load .system ps
        match ws with
        | some w :: _ =>
          let x : Cancel := { gs := p, va := addr + 0x38, comm := w.extractLsb' 0 16, tag := hi32 w, latch }
          let s := s.setCc { s.cc with cancels := s.cc.cancels ++ [x] }
          let s := s.setCg { s.cg with cp := s.cg.cp + 1 }
          .done (s.engineMsg s.ct.func 0x15 x.comm x.tag 0 0)
        | _ => .done s)))
/-- The state of a key as CSTAT reports it (R463). -/
def State.keyState (s : State) (f : Nat) (comm : BitVec 16) (tag : W32) : W64 :=
  match s.keyOf f comm tag with
  | none => 0
  | some k =>
    let st := if k.void_ then 5 else if k.retired then 6 else if k.begun then 4
      else if !k.issued then 2 else if k.num.isSome then 3 else 1
    BitVec.ofNat 64 (st + match k.num with | some n => 2 ^ 8 + n.toNat * 2 ^ 32 | none => 0)
/-- The query goes to the engine; its answer releases the group (CSTAT_ANSWER). -/
def opCstat (f : TForm) (act : Lanes) (s : State) : Res :=
  s.tWord f [(f.ra, 2), (f.td, 2)] act (
    let key := s.cg.sfld f.ra
    .hold 6 (s.setCg { s.cg with cstat := some (f.td, key.extractLsb' 0 16, hi32 key, f.sp) }))

def execColl (f : TForm) (s : State) : Host.Outcome State Fault Refusal :=
  .next (Res.retire f.sp (opColl f s.cg.active s))
def execCcancel (f : TForm) (s : State) : Host.Outcome State Fault Refusal :=
  .next (Res.retire f.sp (opCcancel f s.cg.active s))
def execCstat (f : TForm) (s : State) : Host.Outcome State Fault Refusal :=
  .next (Res.retire f.sp (opCstat f s.cg.active s))

end Sys2Proof.Machine
end

