-- ==== Sys2Proof/Machine/Image.lean ====
section
/-! DEFINITION. The neutral state image of a function's on-chip state, written and read back (R166 to R168). -/

namespace Sys2Proof

/-! What a neutral state image holds beyond the layouts of R166 to R168, which say neither how its records belong to launches
and teams nor how its entries are packed: open functions of the image's bytes. -/

/-- Launches, and their commands by queue. -/
opaque Config.imageLaunches : List Byte → List Machine.Launch
opaque Config.imageCmds : List Byte → Nat → List Machine.Cmd
/-- Teams with what no group record gives, and the place of each group record. -/
opaque Config.imageTeams : List Byte → List Machine.SavedTeam
opaque Config.imageAt : List Byte → (team group : Nat) → Nat
/-- Collective records. -/
opaque Config.imageKeys : List Byte → List Machine.KeyEnt
/-- The value last passed on the order chain, and graphs that run. -/
opaque Config.imagePassed : List Byte → Option W32
opaque Config.imageGraphs : List Byte → List Machine.Graph
/-- The requirements in an image's header (R157, R166). -/
opaque Config.imageReqs : List Byte → Requirements
/-- Placement entries of monitor records. -/
opaque Config.imagePlaces : List Byte → Tbl W64

namespace Machine

/-! ## Bytes -/

/-- n bytes from an offset as a number. -/
def atB (b : List Byte) (o n : Nat) : Nat := leNat ((b.drop o).take n)
def zeros (n : Nat) : List Byte := List.replicate n 0
/-- A field padded to the offset of the next one. -/
def fieldTo (n x width : Nat) : List Byte := leBytes width x ++ zeros (n - width)
/-- Bytes of contents whose packing the spec does not give. -/
def openBytes (type n : Nat) (fields : List Nat) : List Byte := (upto n).map (Config.recByte type fields)
/-- Fields of such contents. -/
def openField (type : Nat) (b : List Byte) (i : Nat) : Nat := Config.recField type b i

/-! ## Group records (R168) -/

/-- Codes of a wait record; a parked group has code 6. -/
def WaitKind.code : WaitKind → Nat
  | .ldw | .ldwE => 1 | .stwE => 2 | .bwait => 3 | .qpush => 4 | .qpop => 5 | .gang => 7
def FenceKind.code : FenceKind → Nat
  | .acq => 0 | .rel => 1 | .full => 2
/-- PENDF (R423). -/
def pendCode : Option PendFence → Nat
  | none => 0
  | some f => 2 ^ 7 + f.kind.code * 8 + f.scope.code.toNat
def pendOf (x : Nat) : Option PendFence :=
  if !bitOf x 7 then none
  else match Scope.ofCode (BitVec.ofNat 3 x) with
    | some scope => some { kind := match bits x 3 2 with | 0 => .acq | 1 => .rel | _ => .full, scope }
    | none => none
/-- The octets a group's record holds (R196). -/
def Group.savedOctets (g : Group) : Nat := if g.woff == 1 then g.lvo else g.nreg / 8
/-- The wait part of a record: kind, address and phase. -/
def Group.waitFields (g : Group) : List Nat :=
  match g.wait, g.park with
  | some r, _ => [r.kind.code, r.addr.toNat, if r.phase then 1 else 0]
  | none, some k => [6, k.flt.va.toNat, 0]
  | none, none => [0, 0, 0]
/-- Streams 0 to 3 of a record: the saved identity, the next SSEQ, the frozen flag and the count of saved requests. -/
def Group.streamFields (g : Group) : List Nat :=
  (upto 4).flatMap (fun i => match g.strs.find? (fun x => x.sid.strm.toNat == i) with
    | some x => [x.sid.svdn.toNat, x.sid.score.toNat, x.sid.sgrp.toNat, x.sid.steam.toNat, x.vdn.toNat, x.next.toNat,
        if x.freeze.isSome then 1 else 0, (g.saved.filter (fun y => y.1.sid == x.sid && y.1.vdn == x.vdn.toNat)).length]
    | none => [0, 0, 0, 0, 0, 0, 0, 0])
/-- The fixed part of a group record. -/
def groupFixed (g : Group) (t : Team) (gs : Nat) : List Byte :=
  fieldTo 8 g.bhdr.toNat 8 ++ fieldTo 4 (g.ord % 2 ^ 20) 4 ++ leBytes 2 g.woff ++ leBytes 1 (gs / 16) ++
  leBytes 1 (g.role % 4 + g.savedOctets * 4) ++
  leBytes 4 t.x ++ leBytes 4 t.y ++ leBytes 4 t.z ++ fieldTo 4 g.grp 1 ++
  leBytes 8 g.mode.toNat ++ leBytes 8 g.gang.toNat ++ leBytes 4 g.xfc.toNat ++ fieldTo 12 g.wcnt.toNat 4 ++
  leBytes 16 g.xfm.toNat ++ leBytes 16 g.exited.toNat ++
  leBytes 16 g.vx.outer.toNat ++ leBytes 16 g.vx.inner.toNat ++ fieldTo 16 g.vx.depth 1 ++
  leBytes 1 (g.waitFields.headD 0) ++ openBytes 0x190 15 (g.waitFields.drop 1) ++
  (upto 8).flatMap (fun i => leBytes 4 (tget 0 g.stall i).toNat) ++
  openBytes 0x1C0 64 g.streamFields ++
  (upto 64).flatMap (fun i => leBytes 8 (g.sget i).toNat) ++
  (upto 7).flatMap (fun i => leBytes 16 (g.kget (i + 1)).toNat) ++
  fieldTo 8 ((if g.halted then 1 else 0) + g.edits.length * 16) 1 ++ fieldTo 8 g.fst.toNat 4 ++
  leBytes 8 g.tvec.toNat ++ leBytes 8 g.tpos.toNat ++ leBytes 8 g.taddr.toNat ++
  leBytes 4 g.tcause.toNat ++ leBytes 4 (if g.tm then 1 else 0) ++ leBytes 8 g.rngseed.toNat ++
  fieldTo 88 (pendCode g.pend) 1
/-- A group record without its saved requests. -/
def groupRecord (g : Group) (t : Team) (gs : Nat) : List Byte :=
  groupFixed g t gs ++ lanes.flatMap (fun l => leBytes 2 (g.cget l)) ++ lanes.flatMap (fun l => leBytes 8 (g.rget l).toNat) ++
  (upto (8 * g.savedOctets)).flatMap (fun r => lanes.flatMap (fun l => leBytes 4 (g.vget r l).toNat))
/-- Bytes of a saved request: a 32-byte header and its data (R62). -/
def requestBytes (p : Packet) : List Byte := (packetUnits p).flatMap (fun u => leBytes 16 u.toNat)
/-- Sixteen bytes of a pending edit (R293), whose packing is not given. -/
def editBytes (e : Edit) : List Byte := openBytes 0x193 16 [e.kind.toNat, e.reg.toNat, e.lane.toNat, e.val.toNat]
/-- The whole record, on a 64-byte boundary. -/
def groupImage (g : Group) (t : Team) (gs : Nat) : List Byte :=
  let b := groupRecord g t gs ++ g.saved.flatMap (fun r => requestBytes r.1) ++ g.edits.flatMap editBytes
  b ++ zeros ((64 - b.length % 64) % 64)

/-- Table entries of a list of numbers, in order. -/
def tblOf {w : Nat} (n : Nat) (h : Nat → Nat) : Tbl (BitVec w) :=
  (upto n).filterMap (fun i => let x := BitVec.ofNat w (h i); if x = 0 then none else some (i, x))
/-- A group read back from its record, for a role that gives its registers. -/
def groupOf (b : List Byte) (nreg : Nat) : Group :=
  let nvo := atB b 0x00F 1 / 4 % 32
  { live := true, role := atB b 0x00F 1 % 4, nreg, grp := atB b 0x01C 1
    bhdr := BitVec.ofNat 64 (atB b 0 8), ord := atB b 8 4, woff := atB b 0x00C 2, lvo := nvo
    mode := BitVec.ofNat 64 (atB b 0x020 8), gang := BitVec.ofNat 64 (atB b 0x028 8)
    xfc := BitVec.ofNat 32 (atB b 0x030 4)
    ld := bits (atB b 0x034 4) 0 6, st := bits (atB b 0x034 4) 6 6, cp := bits (atB b 0x034 4) 12 6
    tl := bits (atB b 0x034 4) 18 6
    xfm := BitVec.ofNat 32 (atB b 0x040 16), exited := BitVec.ofNat 32 (atB b 0x050 16)
    vx := { outer := BitVec.ofNat 32 (atB b 0x060 16), inner := BitVec.ofNat 32 (atB b 0x070 16), depth := atB b 0x080 1 }
    stall := tblOf 8 (fun i => atB b (0x0A0 + 4 * i) 4)
    s := tblOf 64 (fun i => atB b (0x100 + 8 * i) 8)
    k := (tblOf 7 (fun i => atB b (0x300 + 16 * i) 16)).map (fun e => (e.1 + 1, e.2))
    halted := bitOf (atB b 0x370 1) 0
    fst := BitVec.ofNat 32 (atB b 0x378 4), tvec := BitVec.ofNat 64 (atB b 0x380 8)
    tpos := BitVec.ofNat 64 (atB b 0x388 8), taddr := BitVec.ofNat 64 (atB b 0x390 8)
    tcause := BitVec.ofNat 32 (atB b 0x398 4), tm := atB b 0x39C 4 % 2 == 1
    rngseed := BitVec.ofNat 64 (atB b 0x3A0 8), pend := pendOf (atB b 0x3A8 1)
    ctr := (upto 32).filterMap (fun i => let x := atB b (1024 + 2 * i) 2; if x = 0 then none else some (i, x))
    rnd := tblOf 32 (fun i => atB b (1088 + 8 * i) 8)
    v := tblOf (256 * nvo) (fun i => atB b (1344 + 4 * i) 4) }
/-- Bytes of a group record by its own fields, without saved requests and edits. -/
def groupLen (b : List Byte) : Nat := 1344 + 1024 * (atB b 0x00F 1 / 4 % 32)

/-! ## Core records (R167) -/

/-- Tag bits of a word. -/
def SWord.tags (w : SWord) : Nat := (if w.f then 1 else 0) + (if w.sp then 2 else 0)
/-- Data and tags of a bank of scratch words. -/
def bankImage (word : Nat → SWord) : List Byte :=
  (upto 4096).flatMap (fun i => leBytes 4 (word i).data.toNat) ++
  (upto 1024).flatMap (fun i => leBytes 1 ((word (4 * i)).tags + (word (4 * i + 1)).tags * 4 +
    (word (4 * i + 2)).tags * 16 + (word (4 * i + 3)).tags * 64))
/-- The words of a bank read back. -/
def bankOfImage (b : List Byte) (i : Nat) : SWord :=
  let t := atB b (16384 + i / 4) 1 / 4 ^ (i % 4)
  { data := BitVec.ofNat 32 (atB b (4 * i) 4), f := bitOf t 0, sp := bitOf t 1 }
/-- Data and cleared tags of a FIFO bank. -/
def fifoImage (q : Fifo) : List Byte := (upto 4096).flatMap (fun i => leBytes 4 (tget 0 q.data i).toNat) ++ zeros 1024
/-- Fields of a CTE descriptor, whose packing is not given. -/
def cteFields (d : CteDesc) : List Nat :=
  let base := [d.gs, d.latch.toNat, d.count, d.sent, d.mode.toNat]
  match d.kind with
  | .tsplit src st dst sc sf scl => base ++ [1, src.toNat, st, dst.toNat, sc.toNat, sf, (scl.getD 0).toNat]
  | .copy src dst l r p a b c e => base ++ [2, src.toNat, dst.toNat, l, r, p, a, b, c, e]
  | .fput src dst l st sg => base ++ [3, src.toNat, dst.toNat, l, st.toNat, (sg.getD 0).toNat]
  | .fget src dst l st => base ++ [4, src.toNat, dst.toNat, l, st.toNat]
  | .fsig t x l a w st => base ++ [5, t.toNat, x.toNat, l.toNat, a.toNat, if w then 1 else 0, st.toNat]
/-- The gang latch field. -/
def latchImage (l : GangLatch) : List Byte :=
  let x := l.arrivals.head?
  let m (i : Nat) : Option Arrival := l.arrivals.find? (fun a => a.idx == i)
  leBytes 8 l.list.toNat ++
  leBytes 2 ((upto 6).foldl (fun n i => n + if (m i).isSome then 2 ^ i else 0) 0) ++ leBytes 2 l.fn.toNat ++
  leBytes 1 ((x.map (fun a => a.fmt.toNat)).getD 0) ++ fieldTo 3 ((x.map (fun a => a.npl.toNat)).getD 0) 1 ++
  leBytes 8 (((m 0).map (fun a => a.brec.1.toNat)).getD 0) ++ leBytes 8 (((m 0).map (fun a => a.brec.2.toNat)).getD 0) ++
  (upto 6).flatMap (fun i => match m i with
    | some a => leBytes 8 a.arec.1.toNat ++ leBytes 8 a.arec.2.toNat ++ leBytes 1 a.tile ++ fieldTo 15 (if a.z then 1 else 0) 1
    | none => zeros 32) ++ zeros 32
/-- What a core record holds, from a resident core or a saved team. -/
structure CoreImage where
  score : Nat
  crow : Nat
  ccol : Nat
  ngrp : Nat
  shut : List Shutter
  banks : List (List Byte)
  fifos : List Fifo
  cbaddr : W64
  hist : Tbl W32
  cte : List CteDesc
  tiles : List Nat
  tile : Nat → Nat → W32
  latch : GangLatch
/-- A core record with its banks and tiles (R167). -/
def coreRecord (x : CoreImage) : List Byte :=
  leBytes 2 x.score ++ leBytes 1 (x.crow % 16 + x.ccol % 16 * 16) ++ fieldTo 5 x.ngrp 1 ++
  leBytes 8 (x.shut.zipIdx.foldl (fun n e => n + 4 ^ e.2 * match e.1 with | .cache => 0 | .scratch => 1 | .fifo => 2) 0) ++
  (upto 32).flatMap (fun i => let q := x.fifos.getD i {}; leBytes 2 q.head ++ leBytes 2 q.tail) ++ zeros 64 ++
  fieldTo 8 x.cte.length 1 ++ fieldTo 40 x.cbaddr.toNat 8 ++
  (upto 256).flatMap (fun i => leBytes 4 (tget 0 x.hist i).toNat) ++
  (upto 16).flatMap (fun i => match x.cte[i]? with
    | some d => openBytes 0x150 64 (cteFields d)
    | none => zeros 64) ++
  leBytes 32 (x.tiles.foldl (fun n t => n + 2 ^ t) 0) ++ latchImage x.latch ++
  x.banks.flatten ++ x.tiles.flatMap (fun t => (upto 4096).flatMap (fun i => leBytes 4 (x.tile t i).toNat))

end Machine

end Sys2Proof
end

