-- ==== Sys2Proof/Machine/Vxec.lean ====
section
/-! DEFINITION. Fragment loads, lane-word issue and pairs (R326 to R328, R385 to R394). -/

namespace Sys2Proof.Machine

/-! ## Fragment loads (R385, R386) -/

/-- The place of a logical offset in its tile (R385). -/
def swizzle (o : Nat) : Nat := o ^^^ (o / 128 % 8 * 16)
/-- The 16 bytes a lane reads from a tile: a chunk, or 16 ÷ e elements of a column (R386). -/
def Core.fragVal (x : Core) (bank tile o e : Nat) (tr : Bool) : Nat :=
  if tr then
    let row := o / (64 * e)
    let col := o % (64 * e) / e
    (upto (16 / e)).foldl (fun acc i =>
      acc + x.scrNum bank (tile + swizzle ((row + i) * 64 * e + col * e)) e * 2 ^ (8 * e * i)) 0
  else x.scrNum bank (tile + swizzle o) 16
/-- The pieces of a tile those bytes lie in, as offset and length. -/
def fragSpots (o e : Nat) (tr : Bool) : List (Nat × Nat) :=
  if tr then (upto (16 / e)).map (fun i => (swizzle ((o / (64 * e) + i) * 64 * e + o % (64 * e) / e * e), e))
  else [(swizzle o, 16)]
/-- LDFRAG and LDFRAG.T. -/
def State.fragWord (s : State) (f : MForm) (tr : Bool) (act : Lanes) : Res :=
  let c := s.cur.core
  let g := s.cg
  let e := f.size.bytes
  let n := 4096 * e
  let ats := g.sLanes f (g.memLanes false f.g act)
  let off (x : LaneAt) : Nat := x.addr.toNat % n
  s.gate ((f.d, 4) :: f.sRegs) (!ats.isEmpty) <|
    firstTrap s cAlign 0 (fun x =>
      if tr then off x % e != 0 || off x / (64 * e) % (16 / e) != 0 else off x % 16 != 0) ats <|
    s.ownCheck 1 ats <|
    (s.issueAcc (.frag e tr) .plain 0 n f.d (ats.map (fun x =>
      let (b, o) := (s.ownSpot c g.team (lo32 x.addr)).getD (0, 0)
      { lane := x.lane, va := x.addr, loc := .own b (o / n * n), data := BitVec.ofNat 256 (off x) }))).clocks
    (ats.flatMap (fun x =>
      let (b, o) := (s.ownSpot c g.team (lo32 x.addr)).getD (0, 0)
      (fragSpots (off x) e tr).flatMap (fun q => (wordsOf (o / n * n + q.1) q.2).map (fun w => (b, w)))))
def execLdfrag (f : MForm) (s : State) : Host.Outcome State Fault Refusal :=
  .next (Res.retire f.sp (s.fragWord f false s.cg.active))
def execLdfragT (f : MForm) (s : State) : Host.Outcome State Fault Refusal :=
  .next (Res.retire f.sp (s.fragWord f true s.cg.active))

/-! ## Words that another word issues -/

/-- The permitted lane words other than VXEC, each over given active lanes (R331). -/
def laneBody (i : Instr) : Option (Lanes → State → Res) :=
  match i with
  | .iadd f => some (opIadd f)
  | .isub f => some (opIsub f)
  | .imul f => some (opImul f)
  | .imulh f => some (opImulh f)
  | .imad f => some (opImad f)
  | .imin f => some (opImin f)
  | .imax f => some (opImax f)
  | .icmp f => some (opIcmp f)
  | .isel f => some (opIsel f)
  | .lea f => some (opLea f)
  | .andV f => some (opAndV f)
  | .orV f => some (opOrV f)
  | .xorV f => some (opXorV f)
  | .andn f => some (opAndn f)
  | .shl f => some (opShl f)
  | .shr f => some (opShr f)
  | .sar f => some (opSar f)
  | .bfe f => some (opBfe f)
  | .bfi f => some (opBfi f)
  | .popc f => some (opPopc f)
  | .clz f => some (opClz f)
  | .brev f => some (opBrev f)
  | .idp4 f => some (opIdp4 f)
  | .fdp2 f => some (opFdp2 f)
  | .fadd f => some (opFadd f)
  | .fsub f => some (opFsub f)
  | .fmul f => some (opFmul f)
  | .ffma f => some (opFfma f)
  | .fmin f => some (opFmin f)
  | .fmax f => some (opFmax f)
  | .fcmp f => some (opFcmp f)
  | .fsel f => some (opFsel f)
  | .frnd f => some (opFrnd f)
  | .fclass f => some (opFclass f)
  | .frcp f => some (opFrcp f)
  | .frsq f => some (opFrsq f)
  | .fsqrt f => some (opFsqrt f)
  | .fexp2 f => some (opFexp2 f)
  | .flog2 f => some (opFlog2 f)
  | .fsin f => some (opFsin f)
  | .fcos f => some (opFcos f)
  | .ftanh f => some (opFtanh f)
  | .cvt f => some (opCvt f)
  | .pack f => some (opPack f)
  | .unpack f => some (opUnpack f)
  | .rand f => some (opRand f)
  | .mov f => some (opMov f)
  | .movi f => some (opMovi f)
  | .movih f => some (opMovih f)
  | .iaddi f => some (opIaddi f)
  | .andi f => some (opAndi f)
  | .ori f => some (opOri f)
  | .xori f => some (opXori f)
  | .shli f => some (opShli f)
  | .icmpi f => some (opIcmpi f)
  | .fmovi f => some (opFmovi f)
  | .leai f => some (opLeai f)
  | .ld f => some (opLd f)
  | .st f => some (opSt f)
  | .lds f => some (opLds f)
  | .sts f => some (opSts f)
  | .ldAcq f => some (opLdAcq f)
  | .stRel f => some (opStRel f)
  | .atomAdd f => some (fun act s => s.atomWord 0x40 f act)
  | .atomMin f => some (fun act s => s.atomWord 0x41 f act)
  | .atomMax f => some (fun act s => s.atomWord 0x42 f act)
  | .atomMinN f => some (fun act s => s.atomWord 0x43 f act)
  | .atomMaxN f => some (fun act s => s.atomWord 0x44 f act)
  | .atomAnd f => some (fun act s => s.atomWord 0x45 f act)
  | .atomOr f => some (fun act s => s.atomWord 0x46 f act)
  | .atomXor f => some (fun act s => s.atomWord 0x47 f act)
  | .atomExch f => some (fun act s => s.atomWord 0x48 f act)
  | .atomCas f => some (fun act s => s.atomWord 0x49 f act)
  | .atomFadd f => some (fun act s => s.atomWord 0x4A f act)
  | .atomFmin f => some (fun act s => s.atomWord 0x4B f act)
  | .atomFmax f => some (fun act s => s.atomWord 0x4C f act)
  | .atomIncwrap f => some (fun act s => s.atomWord 0x4D f act)
  | .redAdd f => some (fun act s => s.redWord 0x50 f act)
  | .redMin f => some (fun act s => s.redWord 0x51 f act)
  | .redMax f => some (fun act s => s.redWord 0x52 f act)
  | .redMinN f => some (fun act s => s.redWord 0x53 f act)
  | .redMaxN f => some (fun act s => s.redWord 0x54 f act)
  | .redAnd f => some (fun act s => s.redWord 0x55 f act)
  | .redOr f => some (fun act s => s.redWord 0x56 f act)
  | .redXor f => some (fun act s => s.redWord 0x57 f act)
  | .redFadd f => some (fun act s => s.redWord 0x58 f act)
  | .redFmin f => some (fun act s => s.redWord 0x59 f act)
  | .redFmax f => some (fun act s => s.redWord 0x5A f act)
  | .redIncwrap f => some (fun act s => s.redWord 0x5B f act)
  | _ => none
/-- The registers a permitted lane word writes: its destination field and how many (R390). -/
def laneDest (i : Instr) : Option (BitVec 8 × Nat) :=
  match i with
  | .iadd f  | .isub f  | .imul f  | .imulh f  | .imad f  | .imin f  | .imax f  | .icmp f  | .isel f  | .andV f  | .orV f  | .xorV f  | .andn f  | .shl f  | .shr f  | .sar f  | .bfe f  | .bfi f  | .popc f  | .clz f  | .brev f  | .fadd f  | .fsub f  | .fmul f  | .ffma f  | .fmin f  | .fmax f  | .fcmp f  | .fsel f  | .frnd f  | .fclass f  | .frcp f  | .frsq f  | .fsqrt f  | .fexp2 f  | .flog2 f  | .fsin f  | .fcos f  | .ftanh f  | .pack f  | .unpack f  | .mov f => some (f.d, f.ty.use.regs)
  | .lea f => some (f.d, f.ty.use.regs)
  | .idp4 f | .fdp2 f | .rand f => some (f.d, 1)
  | .cvt f => some (f.d, (cvtUse f.ty f.c).d.regs)
  | .movi f  | .iaddi f  | .andi f  | .ori f  | .xori f  | .shli f  | .icmpi f  | .fmovi f  | .leai f => some (f.d, 1)
  | .movih f => some (if isS f.d then f.d else f.d + 1, 1)
  | .ld f | .lds f | .ldAcq f => some (f.d, f.size.regs)
  | .atomAdd f  | .atomMin f  | .atomMax f  | .atomMinN f  | .atomMaxN f  | .atomAnd f  | .atomOr f  | .atomXor f  | .atomExch f  | .atomCas f  | .atomFadd f  | .atomFmin f  | .atomFmax f  | .atomIncwrap f => some (f.d, f.size.regs)
  | _ => none

/-! ## VXEC (R388 to R394) -/

/-- A permitted opcode of its form, VXEC apart (R331). -/
def laneOpOk (w : W64) : Bool :=
  let op := wordOp w
  match wordF w with
  | 1 => decide (op ≤ 0x3C)
  | 3 => decide (op ≤ 0x06) || decide (0x40 ≤ op)
  | 6 => decide (op ≤ 0x0A)
  | _ => false
/-- An assigned opcode of the V, M and I forms. -/
def laneOpKnown (w : W64) : Bool :=
  match wordF w with
  | 1 => (vOp (wordOp w)).isSome
  | 3 => (mOp (wordOp w)).isSome
  | _ => (iOp (wordOp w)).isSome
/-- A destination includes one of a pair of registers. -/
def hitsPair (d : Option (BitVec 8 × Nat)) (n : BitVec 8) : Bool :=
  match d with
  | some (r, k) => !isS r && decide (r.toNat < n.toNat + 2) && decide (n.toNat < r.toNat + k)
  | none => false
/-- What a lane word is: skipped with a cause, a word to issue, or an inner VXEC. -/
inductive LaneWord where
  | skip (cause : Byte)
  | word (body : Lanes → State → Res)
  | inner (f : VForm)
/-- The causes decided before a word is issued, in the order of R390; pairs are the word registers in use. -/
def laneWord (w : W64) (nested : Bool) (pairs : List (BitVec 8)) : LaneWord :=
  if wordF w != 1 && wordF w != 3 && wordF w != 6 then .skip 0x01
  else if wordF w == 1 && wordOp w == 0x58 && nested then .skip 0x04
  else if laneOpKnown w && !laneOpOk w && !(wordF w == 1 && wordOp w == 0x58) then .skip 0x02
  else match decode w with
    | .error _ => .skip 0x03
    | .ok (.vxec f) => .inner f
    | .ok i =>
      if pairs.any (hitsPair (laneDest i)) then .skip 0x06
      else match laneBody i with
        | some b => .word b
        | none => .skip 0x02
/-- The cause a precise fault of a lane word is skipped with (R391). -/
def skipCause (cause : Byte) : Option Byte :=
  if cause == cRange then some 0x05 else if cause == cAlign then some 0x07 else if cause == cScratch then some 0x08
  else if cause == cTag then some 0x09 else if cause == cScope then some 0x0A else none
/-- Lanes skipped with a cause (R389). -/
def Group.skipLanes (g : Group) (h : Lanes) (cause : Byte) (depth : Bool) : Group :=
  { g with
    xfc := if g.xfm == 0 || decide (lowLane h < lowLane g.xfm) then
        BitVec.ofNat 32 (cause.toNat + lowLane h * 2 ^ 8 + (if depth then 2 ^ 16 else 0)) else g.xfc
    xfm := g.xfm ||| h }
/-- The lane word a lane supplies. -/
def Group.laneWordOf (g : Group) (r : BitVec 8) (l : Nat) : W64 := g.read true r l
/-- The lowest holders of the distinct words over a set, in ascending order (R389). -/
def Group.holders (g : Group) (r : BitVec 8) (p : Lanes) : List Nat :=
  (laneList p).filter (fun l => !(laneList p).any (fun j => decide (j < l) && g.laneWordOf r j == g.laneWordOf r l))
/-- The lanes of a set that hold the word of lane h. -/
def Group.holdersOf (g : Group) (r : BitVec 8) (p : Lanes) (h : Nat) : Lanes :=
  laneSet (fun l => lin p l && g.laneWordOf r l == g.laneWordOf r h)
/-- A word carried out over its holders: how it ends, or none when the VXEC itself is held or traps. -/
def State.runLaneWord (s : State) (body : Lanes → State → Res) (h : Lanes) (depth : Bool) : Except Res State :=
  match body h s with
  | .done s' | .again s' | .jump _ s' => .ok s'
  | .trap cause info lane addr s' =>
    match skipCause cause with
    | some k => .ok (s.setCg (s.cg.skipLanes h k depth))
    | none => .error (.trap cause info lane addr s')
  | .trapNext cause info lane addr s' => .error (.trapNext cause info lane addr s')
  | .hold cls s' => .error (.hold cls s')
/-- The VXEC is done: the progress fields are cleared, and the lane-word trap follows where LFTRAP asks for it. -/
def State.vxecEnd (s : State) (addr : W64) : Res :=
  let s := s.setCg { s.cg with vx := {} }
  if s.cg.xfm != 0 && s.cg.mode.getLsbD 31 then .trapNext cLaneWord (s.cg.xfc.toNat % 256) (lowLane s.cg.xfm) addr s else .done s
/-- An outer word is complete: on to the next one, or the end (R389). -/
def State.outerDone (s : State) (f : VForm) (p : Lanes) (h : Nat) (addr : W64) : Res :=
  let g := { s.cg with vx := { outer := s.cg.vx.outer ||| lane1 h, inner := 0, depth := 1 } }
  let s := s.setCg g
  if (g.holders f.a p).all (fun l => lin g.vx.outer l) then s.vxecEnd addr else .again s
/-- One word of an inner VXEC (R393). -/
def State.innerStep (s : State) (f : VForm) (p : Lanes) (h : Nat) (f' : VForm) (addr : W64) : Res :=
  let g := s.cg
  let hs := g.holdersOf f.a p h
  let ex := hs &&& g.guardMask f'.g
  if ex == 0 then s.outerDone f p h addr
  else if g.loadBusy [(f'.a, 2)] then .hold 6 s
  else if !g.inRange [f'.a + 1] then (s.setCg (g.skipLanes hs 0x05 false)).outerDone f p h addr
  else
    let q := ex &&& g.kget (kNum f'.b)
    match (g.holders f'.a q).find? (fun l => !lin g.vx.inner l) with
    | none => s.outerDone f p h addr
    | some l =>
      let hl := g.holdersOf f'.a q l
      let s := s.setCg { g with vx := { g.vx with depth := 2 } }
      let after (s : State) : Res :=
        let g := { s.cg with vx := { s.cg.vx with inner := s.cg.vx.inner ||| lane1 l } }
        let s := s.setCg g
        if (g.holders f'.a q).all (fun j => lin g.vx.inner j) then s.outerDone f p h addr else .again s
      match laneWord (g.laneWordOf f'.a l) true [f.a, f'.a] with
      | .skip k => after (s.setCg (s.cg.skipLanes hl k true))
      | .inner _ => after (s.setCg (s.cg.skipLanes hl 0x04 true))
      | .word b => match s.runLaneWord b hl true with
        | .ok s => after s
        | .error r => r
/-- VXEC: one issue of it, which carries out one distinct lane word. -/
def opVxec (f : VForm) (act : Lanes) (s : State) : Res := s.notInHandler (
  let ex := s.cg.execSet f.g act
  s.gate [(f.a, 2)] (ex != 0) (
    if !s.cg.inRange [f.a + 1] then .trap cRange 0 0 0 s
    else
      let p := ex &&& s.cg.kget (kNum f.b)
      if p == 0 then .done s
      else
        let addr := s.cg.addr
        let s := if s.cg.vx == {} then s.setCg { s.cg with xfm := 0, xfc := 0 } else s
        let g := s.cg
        match (g.holders f.a p).find? (fun l => !lin g.vx.outer l) with
        | none => s.vxecEnd addr
        | some h =>
          let hs := g.holdersOf f.a p h
          let s := s.pcountG s.cur.core s.cur.gs 2 1
          match laneWord (g.laneWordOf f.a h) false [f.a] with
          | .skip k => (s.setCg (s.cg.skipLanes hs k false)).outerDone f p h addr
          | .inner f' => s.innerStep f p h f' addr
          | .word b => match s.runLaneWord b hs false with
            | .ok s => s.outerDone f p h addr
            | .error r => r))
def execVxec (f : VForm) (s : State) : Host.Outcome State Fault Refusal :=
  .next (Res.retire f.sp (opVxec f s.cg.active s))

/-! ## Pairs (R326 to R328) -/

/-- A V-form word with registers and no modifier. -/
def plainV (ty : Ty) (d a b c : BitVec 8) (k : Bool × Bool := (false, false)) : VForm :=
  { d, a, b, c, na := k.1, aa := false, nb := k.2, ab := false, nc := false, ac := false, clamp := false, dsc := .one
    ty, g := { neg := false, k := 0 }, sp := false }
/-- The full instruction a half stands for (R328). -/
def halfInstr (h : PHalf) : Option Instr :=
  let d := h.d.setWidth 8
  let a := h.a.setWidth 8
  let b := h.b.setWidth 8
  let v (ty : Ty) : VForm := plainV ty d a b 0
  let u (ty : Ty) : VForm := plainV ty d a 0 0
  let acc (ty : Ty) : VForm := plainV ty d a b d
  let fv (ty : Ty) : VForm := plainV ty d a b 0 (h.na, h.nb)
  let facc (ty : Ty) : VForm := plainV ty d a b d (h.na, h.nb)
  let fu (c : BitVec 8) : VForm := plainV .f32 d a 0 c (h.na, false)
  let cv (ty : Ty) (k : BitVec 8) : VForm := plainV ty d a 0 k
  let im (x : W32) : IForm := { d, a, imm := x, g := { neg := false, k := 0 }, sp := false }
  let n : W32 := h.b.setWidth 32
  match h.cop.toNat, h.t with
  | 0x00, false => some (.mov (u .i32))
  | 0x01, false => some (.iadd (v .i32))
  | 0x01, true => some (.fadd (fv .f32))
  | 0x02, false => some (.isub (v .i32))
  | 0x02, true => some (.fsub (fv .f32))
  | 0x03, false => some (.imul (v .i32))
  | 0x03, true => some (.fmul (fv .f32))
  | 0x04, false => some (.imad (acc .i32))
  | 0x04, true => some (.ffma (facc .f32))
  | 0x05, false => some (.imin (v .i32))
  | 0x05, true => some (.fmin (fv .f32))
  | 0x06, false => some (.imax (v .i32))
  | 0x06, true => some (.fmax (fv .f32))
  | 0x07, false => some (.imin (v .n32))
  | 0x07, true => some (.imax (v .n32))
  | 0x08, false => some (.imulh (v .i32))
  | 0x08, true => some (.imulh (v .n32))
  | 0x09, false => some (.andV (v .i32))
  | 0x0A, false => some (.orV (v .i32))
  | 0x0B, false => some (.xorV (v .i32))
  | 0x0C, false => some (.andn (v .i32))
  | 0x0D, false => some (.shl (v .i32))
  | 0x0D, true => some (.shli (im n))
  | 0x0E, false => some (.shr (v .i32))
  | 0x0E, true => some (.shli (im (n + 0x40)))
  | 0x0F, false => some (.sar (v .i32))
  | 0x0F, true => some (.shli (im (n + 0x80)))
  | 0x10, false => some (.popc (u .i32))
  | 0x10, true => some (.clz (u .i32))
  | 0x11, false => some (.brev (u .i32))
  | 0x12, false => some (.idp4 (acc .i8x4))
  | 0x12, true => some (.idp4 (acc .n8x4))
  | 0x13, false => some (.fdp2 (facc .f16x2))
  | 0x13, true => some (.fdp2 (facc .bf16x2))
  | 0x14, false => some (.iadd (v .i16x2))
  | 0x14, true => some (.fadd (fv .f16x2))
  | 0x15, false => some (.isub (v .i16x2))
  | 0x15, true => some (.fsub (fv .f16x2))
  | 0x16, false => some (.imul (v .i16x2))
  | 0x16, true => some (.fmul (fv .f16x2))
  | 0x17, false => some (.imad (acc .i16x2))
  | 0x17, true => some (.ffma (facc .f16x2))
  | 0x18, false => some (.imin (v .i16x2))
  | 0x18, true => some (.fmin (fv .f16x2))
  | 0x19, false => some (.imax (v .i16x2))
  | 0x19, true => some (.fmax (fv .f16x2))
  | 0x1A, false => some (.iadd (v .i8x4))
  | 0x1A, true => some (.fadd (fv .bf16x2))
  | 0x1B, false => some (.isub (v .i8x4))
  | 0x1B, true => some (.fsub (fv .bf16x2))
  | 0x1C, false => some (.imin (v .i8x4))
  | 0x1C, true => some (.fmul (fv .bf16x2))
  | 0x1D, false => some (.imax (v .i8x4))
  | 0x1D, true => some (.ffma (facc .bf16x2))
  | 0x1E, false => some (.iaddi (im n))
  | 0x1E, true => some (.iaddi (im (0 - n)))
  | 0x1F, false => some (.andi (im n))
  | 0x1F, true => some (.ori (im n))
  | 0x20, false => some (.frnd (fu 0))
  | 0x20, true => some (.frnd (fu 1))
  | 0x21, false => some (.frnd (fu 2))
  | 0x21, true => some (.frnd (fu 3))
  | 0x22, false => some (.frcp (fu 0))
  | 0x22, true => some (.frsq (fu 0))
  | 0x23, false => some (.fsqrt (fu 0))
  | 0x23, true => some (.ftanh (fu 0))
  | 0x24, false => some (.fexp2 (fu 0))
  | 0x24, true => some (.flog2 (fu 0))
  | 0x25, false => some (.fsin (fu 0))
  | 0x25, true => some (.fcos (fu 0))
  | 0x26, false => some (.cvt (cv .f32 0x00))
  | 0x26, true => some (.cvt (cv .f32 0x08))
  | 0x27, false => some (.cvt (cv .i32 0x20))
  | 0x27, true => some (.cvt (cv .n32 0x20))
  | 0x28, false => some (.cvt (plainV .f32 d a b 0xB2))
  | 0x28, true => some (.cvt (plainV .f32 d a b 0xBA))
  | 0x29, false => some (.cvt (cv .f32 0x30))
  | 0x29, true => some (.cvt (cv .f32 0x38))
  | 0x2A, false => some (.cvt (cv .f32 0x31))
  | 0x2A, true => some (.cvt (cv .f32 0x39))
  | 0x2B, false => some (.pack (plainV .n32 d a b 0))
  | 0x2B, true => some (.pack (plainV .n32 d a b 1))
  | 0x2C, false => some (.rand (plainV .n32 d 0 0 0))
  | 0x2C, true => some (.rand (plainV .f32 d 0 0 0))
  | _, _ => none
/-- The registers a half names. -/
def halfRegs (h : PHalf) : Regs :=
  (h.d.setWidth 8, 1) :: (match pRow h.cop h.t with
    | some r => (h.reads r.use).map (fun x => (x.setWidth 8, 1))
    | none => [])
/-- A half carried out. -/
def State.runHalf (s : State) (h : PHalf) (act : Lanes) : State :=
  match (halfInstr h).bind laneBody with
  | some b => match b act s with
    | .done s' => s'
    | _ => s
  | none => s
/-- PAIR: neither half reads what the other writes (R327), so they are carried out in turn. -/
def opPair (f : PForm) (act : Lanes) (s : State) : Res :=
  s.gate (halfRegs f.h0 ++ halfRegs f.h1) (act != 0) (.done ((s.runHalf f.h0 act).runHalf f.h1 act))
def execPair (f : PForm) (s : State) : Host.Outcome State Fault Refusal :=
  .next (Res.retire f.sp (opPair f s.cg.active s))

end Sys2Proof.Machine
end

