-- ==== Sys2Proof/Machine/Issue.lean ====
section
/-! DEFINITION. The issue of words: which groups are ready and which one a slot picks (R190, R191), entering
blocks and fetching words (R320 to R325), safe points (R288, R291), what an issue counts (R301, R302), and the
clock (R294). -/

namespace Sys2Proof.Machine

/-! ## Ready groups (R190, R191, R200, R292) -/

/-- Every lane has exited. -/
def Group.allExited (g : Group) : Bool := g.liveLanes == 0
/-- It is parked on a translation fault now. -/
def Group.parkedNow (g : Group) : Bool := match g.park with | some k => k.active | none => false
/-- It waits on a word or a FIFO (kinds 1 to 5 of R168). -/
def Group.bankWait (g : Group) : Bool := match g.wait with | some r => r.kind != .gang | none => false
/-- The group can issue its next word now. -/
def Group.ready (g : Group) : Bool :=
  g.live && g.wait.isNone && !g.parkedNow && g.miss.isEmpty && !g.halted &&
  g.yieldClk == 0 && g.causalClk == 0 && g.held.isNone && g.pend.isNone && g.cstat.isNone
/-- The ready groups of a slot that has not issued in this clock, oldest first; none once a higher slot has.
A function whose records are being loaded waits (R163). -/
def State.slotReady (s : State) (c slot : Nat) : List Nat :=
  if (s.core c).stop || (s.core c).issued.any (fun p => decide (slot ≤ p / 16)) then []
  else
    let ps := ((upto 16).map (fun i => slot * 16 + i)).filter (fun p =>
      (s.group c p).ready && !(s.team c (s.group c p).team).term && !s.loading (s.team c (s.group c p).team).func)
    sortBy (fun p => (s.group c p).age) ps
/-- The group a slot issues: a starved one first, else the oldest. -/
def State.pick (s : State) (c slot : Nat) : Option Nat :=
  let ps := s.slotReady c slot
  match ps.find? (fun p => decide (64 ≤ (s.group c p).starve)) with
  | some p => some p
  | none => ps.head?

/-! ## Safe points (R288, R291) -/

/-- The enabled breakpoint that matches an ordinal, with its kind, for a context that holds what it needs. -/
def State.bpMatch (s : State) (f ctx ord : Nat) : Option (Nat × Nat) :=
  let x := (s.func f).probex
  let ok (kind : Nat) : Bool := match kind with
    | 0 => s.right f ctx rHALT
    | 1 => s.right f ctx rREAD && s.right f ctx rTRACE
    | 2 => s.right f ctx rREAD
    | _ => false
  ((upto 16).find? (fun i => let b := (tget 0 x.bp i).toNat; bitOf b 31 && ok (bits b 28 2) && bits b 0 20 == ord % 2 ^ 20)).map
    (fun i => (i, bits (tget 0 x.bp i).toNat 28 2))
/-- A dump of a group's record to the next slot (R291). -/
def State.dumpGroup (s : State) (c p ord : Nat) : State :=
  let g := s.group c p
  let tm := s.team c g.team
  let x := (s.func tm.func).probex
  if x.dumpLimit ≤ x.dumpCnt then s
  else
    let va := x.dumpBase + BitVec.ofNat 64 (65536 * x.dumpCnt)
    let b := groupRecord g tm p
    let s := s.devPut tm.func tm.ctx va b
    let s := s.setProbex tm.func { (s.func tm.func).probex with dumpCnt := x.dumpCnt + 1 }
    s.tbRecord tm.func tm.ctx 0 4 1 [x.dumpCnt, ord, c, g.grp] false
/-- A sample record of a group. -/
def State.sampleGroup (s : State) (c p ord : Nat) : State :=
  let tm := s.team c (s.group c p).team
  s.tbRecord tm.func tm.ctx 0 1 1 (s.sampleOf c p ord) false
/-- The word at the group's position matches no breakpoint again before it has executed, whatever holds it meanwhile. -/
def State.matched (s : State) (c p : Nat) : State := s.setGroup c p { s.group c p with relHalt := true }
/-- What a safe point does before its word: halted, or the state in which the word goes on. -/
def State.safePoint (s : State) (c p : Nat) : Bool × State :=
  let g := s.group c p
  let tm := s.team c g.team
  let ord := g.ordinal
  let co := s.core c
  let s := if co.sampleDue && s.right tm.func tm.ctx rREAD then
      (s.setCore c { co with sampleDue := false, sampleClk := 0 }).sampleGroup c p ord else s
  if g.relHalt then (false, s)
  else match s.bpMatch tm.func tm.ctx ord with
  | some (i, 0) => (true, s.haltGroup c p [i] ord)
  | some (_, 1) => (false, (s.sampleGroup c p ord).matched c p)
  | some (_, 2) => (false, (s.dumpGroup c p ord).matched c p)
  | _ => (false, s)

/-! ## The next word (R320 to R325) -/

/-- What the group in issue does next: nothing more in this step, or a word. -/
inductive Front where
  | stop (s : State)
  | run (i : Instr) (s : State)

/-- A group's next boundary is a trap at its position. -/
def State.trapHere (s : State) (cause : Byte) (info : Nat) (addr : W64) : State :=
  s.takeTrap s.cur.core s.cur.gs cause info false 0 addr s.cg.pos
/-- Code that cannot be read now: a wait, a translation fault, or a
remote-access fault. -/
def State.codeStop (s : State) (va : W64) : Code → State
  | .wait s' => s'.setCg { s'.cg with held := some 6 }
  | .xfault k => s.trapHere cXlate k va
  | .refused st => s.setCg { s.cg.remoteFault st va.toNat with held := some 6 }
  | .lost s' => s'.setCg { s'.cg with held := some 6 }
  | .word _ => s
/-- The group goes on in the next step. -/
def State.goOn (s : State) : State := { s with cur := { s.cur with go := true } }
/-- Entering the header at the group's position (R321, R323). -/
def State.enterBlock (s : State) : State :=
  let g := s.cg
  match s.codeAt s.cur.core s.cur.gs g.bhdr with
  | .word w =>
    if !isHeader w then s.trapHere cBranch 0 g.bhdr
    else if !hdrOk w then s.trapHere cIllegal 0 0
    else (s.setCg { g with woff := 1, blen := hdrLen w, ord := hdrOrd w, nsp := 0
                           lvo := min (hdrLvo w) (g.nreg / 8), miss := [] }).goOn
  | other => s.codeStop g.bhdr other
/-- Stop bits among the words of a block before an offset; none while one cannot be read. -/
def State.stopsBefore (s : State) (c p : Nat) (bhdr : W64) : Nat → Except Code Nat
  | 0 => .ok 0
  | n + 1 =>
    match s.stopsBefore c p bhdr n with
    | .error e => .error e
    | .ok k =>
      if n = 0 then .ok k
      else match s.codeAt c p (bhdr + BitVec.ofNat 64 (8 * n)) with
      | .word w => .ok (if w.getLsbD 0 then k + 1 else k)
      | other => .error other
/-- Continuing inside a block whose header was not entered: its length and ordinals are read again (R288, R413). -/
def State.reenter (s : State) : State :=
  let g := s.cg
  match s.codeAt s.cur.core s.cur.gs g.bhdr with
  | .word w =>
    match s.stopsBefore s.cur.core s.cur.gs g.bhdr (min g.woff (hdrLen w)) with
    | .ok n => (s.setCg { g with blen := max 1 (hdrLen w), ord := hdrOrd w, nsp := n, lvo := min (hdrLvo w) (g.nreg / 8)
                                 miss := [] }).goOn
    | .error e => s.codeStop g.bhdr e
  | other => s.codeStop g.bhdr other
/-- The word at offset LEN must be a header, which the group enters (R322). -/
def State.nextBlock (s : State) : State :=
  let g := s.cg
  match s.codeAt s.cur.core s.cur.gs g.addr with
  | .word w => if isHeader w then (s.setCg (g.goto g.addr)).goOn else s.trapHere cOverrun 0 0
  | other => s.codeStop g.addr other
/-- The word the group issues, checked and matched as a safe point. -/
def State.frontWord (s : State) (w : W64) : Front :=
  let g := s.cg
  match decode w with
  | .error _ => .stop (s.trapHere cIllegal 0 0)
  | .ok i =>
    if w.getLsbD 0 then
      match s.safePoint s.cur.core s.cur.gs with
      | (true, s) => .stop s
      | (false, s) => .run i s
    else .run i s
/-- The first imprecise fault of a kind that waits is taken as a trap at the group's position (R61, R411). -/
def State.deliver (s : State) (c p : Nat) (kind : Imprecise → Bool) : State :=
  let g := s.group c p
  match g.impr.find? kind with
  | some i =>
    (s.setGroup c p { g with impr := g.impr.erase i }).takeTrap c p i.cause i.info true 0 i.addr g.pos
  | none => s
/-- The address of a group's next word, past a header that stands before it. -/
def Group.nextWord (g : Group) : W64 :=
  g.bhdr + BitVec.ofNat 64 (8 * (max g.woff 1 + if g.woff = g.blen && g.blen ≠ 0 then 1 else 0))
/-- EXITS is the next word of a group: the one word that a group whose lanes have all exited still issues (R200, R203). -/
def State.exitsNext (s : State) (c p : Nat) : Bool :=
  match s.codeAt c p (s.group c p).nextWord with
  | .word w => (match decode w with | .ok (.exits _) => true | _ => false)
  | _ => false
/-- A group that waits to end. -/
def State.waitEnd (s : State) : State :=
  let s := match s.codeAt s.cur.core s.cur.gs s.cg.nextWord with | .wait s' => s' | _ => s
  s.setCg { s.cg with held := some s.cg.waitClass }
/-- One issue of the group the cursor names, up to its word. -/
def State.front (s : State) : Front :=
  let s := { s with cur := { s.cur with go := false } }
  let g := s.cg
  if !g.live then .stop s
  else if g.woff ≠ 0 && g.blen = 0 then .stop s.reenter
  else if g.allExited && !s.exitsNext s.cur.core s.cur.gs then .stop s.waitEnd
  else if !g.impr.isEmpty && !g.tm then .stop (s.deliver s.cur.core s.cur.gs (fun _ => true))
  else if g.woff = 0 then .stop s.enterBlock
  else if g.blen < g.woff then
    -- R410: %tpos names offset LEN
    .stop (s.takeTrap s.cur.core s.cur.gs cOverrun 0 false 0 0 (tposOf g.bhdr g.blen))
  else if g.woff = g.blen then .stop s.nextBlock
  else if g.haltReq then .stop ((s.setCg { g with haltReq := false }).halt s.cur.core s.cur.gs)
  else match s.codeAt s.cur.core s.cur.gs g.addr with
    | .word w => s.frontWord w
    | other => .stop (s.codeStop g.addr other)

/-! ## What an issue counts (R191, R301, R302) -/

/-- The word is a vector instruction (R198, R326, R369, R372, R384, R395, R419). -/
def vectorWord (w : W64) : Bool :=
  let op := wordOp w
  let dv := !isS (w.extractLsb' 45 8)
  let av := !(isS (w.extractLsb' 37 8) && isS (w.extractLsb' 29 8))
  match wordF w with
  | 1 =>
    if (0x40 ≤ op && op ≤ 0x4D) || op == 0x58 then true
    else if 0x50 ≤ op && op ≤ 0x56 then op == 0x54 && w.extractLsb' 21 8 == 1
    else op != 0x59 && dv
  | 2 => true
  | 3 =>
    if (0x08 ≤ op && op ≤ 0x0E) || op == 0x24 || op == 0x25 then true
    else if 0x10 ≤ op && op ≤ 0x23 then false
    else if op == 0x26 then av
    else if op == 0x27 then av && w.extractLsb' 45 8 != 2
    else dv || av
  | 6 => op != 0x10 && dv
  | _ => false
/-- A vector word with an empty execution set (R201, R302). -/
def emptyVector (g : Group) (w : W64) : Bool :=
  let gd := if wordF w == 2 then { neg := false, k := 0 } else Guard.ofCode (w.extractLsb' 1 4)
  vectorWord w && g.execSet gd g.active == 0
/-- An issued word counted, and its group delayed in a causal trial; a word held at issue has not issued. -/
def State.afterIssue (s0 : State) (i : Instr) (s : State) : State :=
  let c := s0.cur.core
  let p := s0.cur.gs
  let g0 := s0.cg
  let g := s.group c p
  if g.held.isSome && g.wait.isNone && g.cstat.isNone then s
  else
    let tm := s0.team c g0.team
    let s := s.setGroup c p { g with starve := 0 }
    let s := s.setCore c { s.core c with issued := p :: (s.core c).issued }
    let s := s.pcount tm.func tm.ctx 0 1
    let s := match encode i with
      | some w => if emptyVector g0 w then s.pcount tm.func tm.ctx 1 1 else s
      | none => s
    let x := (s.func tm.func).probex
    let ord := g0.ordinal % 2 ^ 20
    if x.trial && s.right tm.func tm.ctx rPROF && (decide (ord < x.causalLo) || decide (x.causalHi < ord)) && x.causalDly != 0 then
      s.setGroup c p { s.group c p with causalClk := x.causalDly + 2 }
    else s

/-! ## The clock of a core (R191, R294) -/

/-- The stall class of a group whose slot issued no word of it. -/
def Group.stallClass (g : Group) : Nat :=
  if g.halted || g.causalClk != 0 || g.yieldClk != 0 then 0
  else if g.parkedNow then 1
  else if g.bankWait then 2
  else if g.wait.isSome || g.held == some 3 then 3
  else if g.pend.isSome || g.held == some 4 || (g.allExited && (g.ld != 0 || g.st != 0)) then 4
  else if g.held == some 5 || g.allExited then 5
  else if g.held.isSome || !g.miss.isEmpty || g.cstat.isSome then 6
  else 7
/-- A delay counted down to 1, where its end is due. -/
def delayTick (n : Nat) : Nat := if n ≤ 1 then n else n - 1
/-- One group at a clock edge. -/
def Group.tick (g : Group) (issued : Bool) : Group :=
  let k := g.stallClass
  { g with
    stall := if issued then g.stall else tput 0 g.stall k (satInc (tget 0 g.stall k))
    starve := if issued then 0 else if g.ready then g.starve + 1 else 0
    yieldClk := delayTick g.yieldClk, causalClk := delayTick g.causalClk, held := none }
/-- SAMPLE_INT of the context with READ that has a group on a core; 0 where there is none. -/
def State.sampleEvery (s : State) (c : Nat) : Nat :=
  match (s.teamsOf (fun c' t => c' == c && s.right t.func t.ctx rREAD)).head? with
  | none => 0
  | some (_, t) => (s.func (s.team c t).func).probex.sampleInt.toNat
/-- A clock counted towards the next sample of a core (R291). -/
def State.sampleTick (s : State) (c : Nat) : State :=
  let co := s.core c
  if s.sampleEvery c == 0 || co.sampleDue then s else s.setCore c { co with sampleClk := co.sampleClk + 1 }
/-- The count has reached SAMPLE_INT: the next safe point writes a sample record (R291). -/
def State.sampleReach (s : State) (c : Nat) : State :=
  let co := s.core c
  let iv := s.sampleEvery c
  if iv != 0 && !co.sampleDue && decide (iv ≤ co.sampleClk) then s.setCore c { co with sampleDue := true } else s
/-- One clock of a core's arithmetic clock; pending fences and invalidations end where they can. -/
def State.clockEdge (s : State) (c : Nat) : State :=
  let co := s.core c
  let live := s.liveAt c
  let s := live.foldl (fun s e =>
    let g := s.group c e.1
    let iss := co.issued.contains e.1
    let s := if iss then s else match g.stallClass with
      | 4 => s.pcountG c e.1 12 1
      | 2 => s.pcountG c e.1 13 1
      | _ => s
    s.setGroup c e.1 (g.tick iss)) s
  let s := live.foldl (fun s e => (s.tryFence c e.1).settleCinv c e.1) s
  (s.setCore c { s.core c with clk := co.clk + 1, issued := [] }).sampleTick c

end Sys2Proof.Machine
end

