-- ==== Sys2Proof/Machine/Turn.lean ====
section
/-! DEFINITION. The turns of the machine that are no instruction: a slot's choice, a core's clock and evictions;
and placing an instruction where the next step fetches. -/

namespace Sys2Proof.Machine

/-- A slot issues: the group it picks runs in the next step. -/
def State.issueTurn (s : State) (c slot : Nat) : State :=
  match s.pick c slot with
  | some p => { s with cur := { core := c, gs := p, go := true } }
  | none => s
/-- A turn that is no event. -/
def State.turn (s : State) : Turn → State
  | .issue c slot => s.issueTurn c slot
  | .clock c => s.clockEdge c
  | .event _ _ => s
  | .evictL1 c k => s.l1Back c k true
  | .evictL2 k => s.l2Back 0 k true
  | .evictTlb c page => s.setCore c { s.core c with tlb := (s.core c).tlb.filter (fun e => e.page != page) }
  | .memError e => s.memErr e
  | .evictWalk d k => { s with nwc := tput [] s.nwc d ((tget [] s.nwc d).eraseIdx k) }
/-- The group that fetches the instruction: the cursor's, or a new one where it names none. -/
def Group.toFetch (g : Group) : Group :=
  let g := if g.live then g else { g with live := true, nreg := 192 }
  let w := max 1 g.woff
  { g with woff := w, blen := w + 1, impr := [], exited := if g.allExited then 0 else g.exited, relHalt := true }
/-- The state with the words of an instruction where the next step fetches and runs it. -/
def State.placeWord (s : State) (w : W64) : State :=
  let c := s.cur.core
  let g := s.cg.toFetch
  let tm := s.team c g.team
  let va := g.addr
  let page := va.toNat / 65536
  let base : Nat := match s.xlOf c s.cur.gs va 3 with
    | some e => (match e.loc with | .home b => b | _ => 0)
    | none => 0
  let e : TlbEntry := { func := tm.func, ctx := tm.ctx, page, loc := .home base, sfa := 0, gpage := 0, rd := true, wr := true
                        x := true, rcc := 0, own := 0, priv := false, wp := false, transit := false }
  let pa := base + va.toNat % 65536
  let s := s.setCg g
  let s := s.setCc { s.cc with tlb := e :: s.cc.tlb }
  { s with mem := setBytes s.mem pa (leBytes 8 w.toNat), poison := s.poison.filter (fun k => k != pa / 32), weak := s.weak.filter (fun k => k != pa / 32)
           boot := { s.boot with halt := .none_ }, cur := { s.cur with go := true } }

end Sys2Proof.Machine
end

