-- ==== Sys2Proof/Machine/Links.lean ====
section
/-! DEFINITION. The Ezlyn links (R23 to R44): flits and their CRC, the transmitter and receiver of a port, parity
recovery, watermarks, width orders and the port's events. -/

namespace Sys2Proof

/-- WCODE of a width (R25). -/
def LinkWidth.code : LinkWidth → BitVec 2
  | .w16 => 1 | .w8 => 2 | .w4 => 3
/-- The width of a code; 00 acts as 01 (R42). -/
def widthOf (c : BitVec 2) : LinkWidth := if c == 2 then .w8 else if c == 3 then .w4 else .w16

namespace Machine

/-! ## Flits (R25) -/

/-- Fields of the flit header. -/
def flitBits (f : Flit) (lo n : Nat) : Nat := bits f.toNat lo n
def flitKind (f : Flit) : Nat := flitBits f 62 2
def flitW (f : Flit) : BitVec 2 := f.extractLsb' 60 2
def flitSeq (f : Flit) : BitVec 20 := f.extractLsb' 40 20
def flitAck (f : Flit) : BitVec 20 := f.extractLsb' 20 20
def flitVc (f : Flit) : Nat := flitBits f 17 3
def flitBytes (f : Flit) (n : Nat) : List Byte := leBytes n f.toNat

/-- CRC-64 with the ECMA-182 polynomial, each byte's high bit first. -/
def crcBit (c : W64) : W64 := if c.getLsbD 63 then (c <<< 1) ^^^ 0x42F0E1EBA9EA3693 else c <<< 1
def crcByte (c : W64) (b : Byte) : W64 := (upto 8).foldl (fun c _ => crcBit c) (c ^^^ (b.setWidth 64 <<< 56))
def crc64 (bs : List Byte) : W64 := ~~~(bs.foldl crcByte (BitVec.allOnes 64))
def flitCrc (f : Flit) : W64 := crc64 (flitBytes f 248)
def flitGood (f : Flit) : Bool := f.extractLsb' 1984 64 == flitCrc f

/-- A flit from its header fields and body. -/
def mkFlit (kind w seq ack vc first : Nat) (body : List Byte) : Flit :=
  let h := kind * 2 ^ 62 + w * 2 ^ 60 + seq * 2 ^ 40 + ack * 2 ^ 20 + vc * 2 ^ 17 + first * 2 ^ 13
  let f : Flit := BitVec.ofNat 2048 (h + leNat body % 2 ^ 1920 * 2 ^ 64)
  f ||| BitVec.ofNat 2048 ((flitCrc f).toNat * 2 ^ 1984)
/-- The fifteen units of a data flit's body (R26). -/
def flitUnits (f : Flit) : List Unit16 := (upto 15).map (fun i => f.extractLsb' (64 + 128 * i) 128)

/-- a is at or after b in serial-number arithmetic (R27). -/
def serialGe (a b : BitVec 20) : Bool := decide ((a - b).toNat < 2 ^ 19)

/-! ## Reed–Solomon parity (R32, R33) -/

/-- Multiplication in GF(2^8) modulo x^8 + x^4 + x^3 + x^2 + 1. -/
def gfMul (a b : Nat) : Nat :=
  ((upto 8).foldl (fun (acc : Nat × Nat) i =>
    (if bitOf b i then acc.1 ^^^ acc.2 else acc.1,
     if 256 ≤ acc.2 * 2 then (acc.2 * 2) ^^^ 0x11D else acc.2 * 2)) (0, a)).1
def gfPow (a : Nat) : Nat → Nat
  | 0 => 1
  | n + 1 => gfMul a (gfPow a n)
def gfInv (a : Nat) : Nat := gfPow a 254
def gfAlpha (n : Nat) : Nat := gfPow 2 (n % 255)
/-- A polynomial, low degree first, at a point. -/
def gfEval (p : List Nat) (x : Nat) : Nat := p.foldr (fun c acc => c ^^^ gfMul x acc) 0
def gfAdd : List Nat → List Nat → List Nat
  | [], q => q
  | p, [] => p
  | a :: p, b :: q => (a ^^^ b) :: gfAdd p q
def gfScale (c : Nat) (p : List Nat) : List Nat := p.map (gfMul c)
def gfPoly : List Nat → List Nat → List Nat
  | [], _ => []
  | a :: p, q => gfAdd (gfScale a q) (0 :: gfPoly p q)
/-- The generator with sixteen consecutive roots, low degree first. -/
def rsGen (root : Nat) : List Nat := (upto 16).foldl (fun g i => gfPoly g [gfAlpha (root + i), 1]) [1]
/-- The parity symbols of a message, both highest degree first. -/
def rsParity (root : Nat) (msg : List Nat) : List Nat :=
  let g := (rsGen root).reverse.drop 1
  msg.foldl (fun r m => gfAdd (r.drop 1 ++ [0]) (gfScale (m ^^^ r.headD 0) g)) (List.replicate 16 0)
/-- The error locator of sixteen syndromes, its length, by Berlekamp and Massey. -/
structure RsBm where
  lam : List Nat
  prev : List Nat
  len : Nat
  gap : Nat
  disc : Nat
def rsBmStep (syn : List Nat) (b : RsBm) (n : Nat) : RsBm :=
  let d := (upto (b.len + 1)).foldl (fun acc i => acc ^^^ gfMul (b.lam.getD i 0) (if i ≤ n then syn.getD (n - i) 0 else 0)) 0
  if d == 0 then { b with gap := b.gap + 1 }
  else
    let lam := gfAdd b.lam (gfScale (gfMul d (gfInv b.disc)) (List.replicate b.gap 0 ++ b.prev))
    if 2 * b.len ≤ n then { lam, prev := b.lam, len := n + 1 - b.len, gap := 1, disc := d }
    else { b with lam, gap := b.gap + 1 }
/-- The corrected symbols of a received word, highest degree first; none where more than eight are damaged. -/
def rsDecode (root : Nat) (w : List Nat) : Option (List Nat) :=
  let n := w.length
  let r := w.reverse
  let syn := (upto 16).map (fun j => gfEval r (gfAlpha (root + j)))
  if syn.all (· == 0) then some w
  else
    let b := (upto 16).foldl (rsBmStep syn) { lam := [1], prev := [1], len := 0, gap := 1, disc := 1 }
    let at_ := (upto n).filter (fun k => gfEval b.lam (gfAlpha (255 - k % 255)) == 0)
    if 8 < b.len || at_.length != b.len then none
    else
      let om := (gfPoly syn b.lam).take 16
      let der := (upto (b.lam.length - 1)).map (fun i => if i % 2 == 0 then b.lam.getD (i + 1) 0 else 0)
      let fix (k c : Nat) : Nat :=
        if at_.contains k then
          let xi := gfAlpha (255 - k % 255)
          c ^^^ gfMul (gfAlpha (k * ((256 - root % 255) % 255))) (gfMul (gfEval om xi) (gfInv (gfEval der xi)))
        else c
      some ((upto n).map (fun k => fix k (r.getD k 0))).reverse
/-- One interleave of a flit: its even or its odd byte offsets. -/
def flitLeaf (f : Flit) (odd : Nat) : List Nat := (upto 128).map (fun i => bits f.toNat (8 * (2 * i + odd)) 8)
/-- The parity block of a flit. -/
def parityBlock (f : Flit) : List Byte :=
  ((rsParity Config.rsFirstRoot (flitLeaf f 0)) ++ (rsParity Config.rsFirstRoot (flitLeaf f 1))).map (BitVec.ofNat 8)
/-- A kept flit corrected by its block; none where an interleave does not decode or the CRC does not match. -/
def parityFix (kept : Flit) (block : List Byte) : Option Flit :=
  let one (odd : Nat) : Option (List Nat) :=
    rsDecode Config.rsFirstRoot (flitLeaf kept odd ++ ((block.drop (16 * odd)).take 16).map (·.toNat))
  match one 0, one 1 with
  | some e, some o =>
    let f : Flit := BitVec.ofNat 2048 (leNat ((upto 256).map (fun i =>
      BitVec.ofNat 8 ((if i % 2 == 0 then e else o).getD (i / 2) 0))))
    if flitGood f then some f else none
  | _, _ => none

/-! ## Counters (R43) -/

/-- One more in a counter of R43, by its place in the table. -/
def Port.count (x : Port) (i : Nat) : Port := { x with cnt := tput 0 x.cnt i (satInc (tget 0 x.cnt i)) }
def nCRC : Nat := 0
def nFIX : Nat := 1
def nPARFAIL : Nat := 2
def nRESENDS : Nat := 3
def nCTL : Nat := 4
def nOVER : Nat := 5
def nDROPS : Nat := 6
def nDOWN : Nat := 7

/-- Some port that leads to a group slot's member is up. -/
def State.slotUp (s : State) (m : BitVec 12 × BitVec 8) : Bool :=
  (upto 18).any (fun p => (Config.groupPorts m.1 m.2).getLsbD p && (s.port p).state == .up)
/-- A member whose path is lost or back is reported to the host (R69). -/
def State.slotNote (s old : State) : State :=
  s.group8.foldl (fun s e => match e.2 with
    | some m => if s.slotUp m == old.slotUp m then s else s.emit (.hotplug e.1 (s.slotUp m))
    | none => s) s
/-- A link trains again (R35): what was asked for is forgotten, what is unacknowledged kept. -/
def Port.train (x : Port) : Port :=
  { x with state := .training, preq := [], repeated := [], damaged := [], rresend := none, resendFails := 0
           parReq := [], resend := [], served := none, worder := none, older := [], order := none }
/-- A link goes down and retrains (R35); only one that was up goes down, and is counted. -/
def State.linkDown (s : State) (p : Nat) : State :=
  let x := s.port p
  if x.state == .training then s
  else if x.state == .up then ((s.setPort p (x.train.count nDOWN)).portEvent p eLINKDOWN).slotNote s
  else s.setPort p x.train
/-- A width in force changes in a direction (R42, R43). DESIGN CHOICE (log 38): a port that has had no width yet, code
00, takes its first one without an event or a count. -/
def State.widthNote (s : State) (p : Nat) (old new : BitVec 2) : State :=
  if old == 0 || old == new then s
  else
    let s := if decide (old.toNat < new.toNat) then s.setPort p ((s.port p).count nDROPS) else s
    s.portEvent p eWIDTHCHG

/-! ## Receiving -/

/-- Flits in a VC's buffer (R36). DESIGN CHOICE (log 38): a flit counts until its first unit is taken. -/
def Port.occ (x : Port) (v : Nat) : Nat := ((tget [] x.rxbuf v).filter Prod.fst).length
/-- The comparison of a VC's occupancy with its watermarks (R36, R37); VCs 0 and 2 stay stopped while a request waits for
room to record its freeze (R60). -/
def Port.compare (x : Port) (v : Nat) : Port :=
  let n := x.occ v
  if tget 512 x.high v ≤ n || (x.fullHold.isSome && (v == 0 || v == 2)) then { x with stopBits := x.stopBits ||| BitVec.ofNat 8 (2 ^ v) }
  else if n ≤ tget 256 x.low v then { x with stopBits := x.stopBits &&& ~~~(BitVec.ofNat 8 (2 ^ v)) }
  else x
/-- A second failure of a sequence number (R33, R35). -/
def State.secondFail (s : State) (p : Nat) (q : BitVec 20) : State :=
  let x := s.port p
  let x := ({ x with preq := x.preq.filter (· != q), repeated := x.repeated.filter (· != q)
                     damaged := x.damaged.filter (fun e => e.1 != q) }).count nPARFAIL
  match x.rresend with
  | none => s.setPort p { x with rresend := some q, resendFails := 0 }
  | some r =>
    if r == q then
      let s := s.setPort p { x with resendFails := x.resendFails + 1 }
      if 8 ≤ x.resendFails + 1 then s.linkDown p else s
    else if serialGe q r then s.setPort p x
    else s.setPort p { x with rresend := some q, resendFails := 0 }
/-- The units of a flit put into its VC's buffer; a full one makes a second failure (R28, R34). -/
def State.deliverFlit (s : State) (p : Nat) (f : Flit) : State × Bool :=
  let x := s.port p
  let v := flitVc f
  if 1024 ≤ x.occ v then ((s.setPort p (x.count nOVER)).secondFail p (flitSeq f), false)
  else
    let us := match flitUnits f with
      | [] => []
      | u :: rest => (true, u) :: rest.map (fun y => (false, y))
    let x := { x with rxbuf := tput [] x.rxbuf v (tget [] x.rxbuf v ++ us), rxSeq := x.rxSeq + 1 }
    (s.setPort p (x.compare v), true)
/-- The held flits that follow in sequence are delivered. -/
def State.deliverHeld (s : State) (p : Nat) : Nat → State
  | 0 => s
  | n + 1 =>
    let x := s.port p
    match x.hold.find? (fun f => flitSeq f == x.rxSeq) with
    | none => s
    | some f =>
      let s := s.setPort p { x with hold := x.hold.filter (fun g => flitSeq g != x.rxSeq) }
      let r := s.deliverFlit p f
      if r.2 then r.1.deliverHeld p n else r.1
/-- The flit asked to be sent again has come (R33): the request is over once it is held or delivered. -/
def Port.came (x : Port) (q : BitVec 20) : Port := if x.rresend == some q then { x with rresend := none, resendFails := 0 } else x
/-- A good data flit in its place: delivered with what it lets through, held after a gap, or discarded (R28). One that
does not fit its buffer fails again (R34), and a request for it to be sent again stands. -/
def State.goodFlit (s : State) (p : Nat) (f : Flit) : State :=
  let x := s.port p
  let q := flitSeq f
  let x := { x with preq := x.preq.filter (· != q), repeated := x.repeated.filter (· != q)
                    damaged := x.damaged.filter (fun e => e.1 != q)
                    rxHigh := if serialGe q x.rxHigh then q else x.rxHigh }
  let s := s.setPort p x
  if !serialGe q x.rxSeq || x.hold.any (fun g => flitSeq g == q) then s.setPort p (x.came q)
  else if q != x.rxSeq then s.setPort p { x.came q with hold := x.hold ++ [f] }
  else
    let r := s.deliverFlit p f
    if r.2 then (r.1.setPort p ((r.1.port p).came q)).deliverHeld p (x.hold.length + 1) else r.1
/-- A flit's width is that of an order issued before the one in force, which the transmitter may have taken (R38). -/
def Port.olderOk (x : Port) (f : Flit) : Bool :=
  x.older.any (fun o => flitW f == o.width.code && (flitKind f != 0 || serialGe (flitSeq f) o.sw))
/-- The width agrees with the orders in force (R38, R39): below the switch the old one, that of an earlier order from
its own switch on, or for a flit sent again the width of its sending; from the switch on the new one; a flit without a
number at any of these while the switch is awaited. -/
def Port.widthOk (x : Port) (f : Flit) : Bool :=
  match x.worder with
  | none => flitW f == x.rxw
  | some o =>
    let new := o.width.code
    if flitKind f == 0 then
      if serialGe (flitSeq f) o.sw then flitW f == new
      else flitW f == x.rxw || x.olderOk f ||
        (flitW f == new && (match x.rresend with | some r => serialGe (flitSeq f) r | none => false))
    else flitW f == x.rxw || flitW f == new || x.olderOk f
/-- A good flit that shows the transmitter's switch ends the receiver's order, and what it issued before (R38). -/
def State.seeSwitch (s : State) (p : Nat) (f : Flit) : State :=
  let x := s.port p
  match x.worder with
  | none => s
  | some o =>
    let new := o.width.code
    if (flitKind f == 0 && serialGe (flitSeq f) o.sw) || (flitW f == new && new != x.rxw && !x.olderOk f) then
      (s.setPort p { x with worder := none, older := [], rxw := new, rxset := o.set }).widthNote p x.rxw new
    else if flitW f == x.rxw then s
    else match x.older.find? (fun e => flitW f == e.width.code) with
    | some e => (s.setPort p { x with rxw := e.width.code, rxset := e.set }).widthNote p x.rxw e.width.code
    | none => s
/-- The cumulative acknowledgement a good flit carries (R25, R27). -/
def State.takeAck (s : State) (p : Nat) (f : Flit) : State :=
  let x := s.port p
  let a := flitAck f + 1
  if serialGe a x.txAck && serialGe x.txSeq a then
    s.setPort p { x with
      txAck := a, kept := x.kept.filter (fun k => k.left != 0 || serialGe k.last a), replay := x.replay.filter (fun g => serialGe (flitSeq g) a)
      resend := x.resend.filter (fun g => serialGe (flitSeq g) a), parReq := x.parReq.filter (fun q => serialGe q a) }
  else s
/-- A data flit arrives (R25, R28, R32); a good flit of another kind is none, and a reserved kind has no effect. A
damaged flit is asked for by the number it shows, or, where that is outside the window, by the number after the highest
seen. -/
def State.dataRx (s : State) (p : Nat) (f : Flit) : State :=
  let x := s.port p
  if x.state != .up || (flitGood f && flitKind f != 0) then s
  else if flitGood f && x.widthOk f then ((s.takeAck p f).seeSwitch p f).goodFlit p f
  else
    let x := x.count nCRC
    let shown := flitSeq f
    let q := if serialGe shown x.rxSeq && decide ((shown - x.rxSeq).toNat < 1024) then shown else x.rxHigh + 1
    if !serialGe q x.rxSeq || x.hold.any (fun g => flitSeq g == q) then s.setPort p x
    else s.setPort p { x with
      damaged := x.damaged.filter (fun e => e.1 != q) ++ [(q, f)], preq := if x.preq.contains q then x.preq else x.preq ++ [q]
      rxHigh := if serialGe q x.rxHigh then q else x.rxHigh }

/-- Units of a buffer after a packet: the rest of its flit is dropped where it is all zero (R26). -/
def dropPad (us : List (Bool × Unit16)) : List (Bool × Unit16) :=
  let pad := us.takeWhile (fun u => !u.1)
  if pad.all (fun u => u.2 == 0) then us.drop pad.length else us
/-- n units at the head of a VC's buffer taken out. -/
def State.dropUnits (s : State) (p vc n : Nat) : State :=
  let x := s.port p
  let x := { x with rxbuf := tput [] x.rxbuf vc (dropPad ((tget [] x.rxbuf vc).drop n))
                    fullHold := if x.fullHold == some vc then none else x.fullHold }.compare vc
  s.setPort p (if vc == 0 || vc == 2 then (x.compare 0).compare 2 else x)
/-- The whole packet at the head of a VC's buffer, with its units. -/
def Port.headPacket (x : Port) (vc : Nat) : Option (Packet × Nat) :=
  let us := (tget [] x.rxbuf vc).map Prod.snd
  match us with
  | a :: b :: rest =>
    let n := (b.extractLsb' 53 5).toNat
    if n ≤ rest.length then
      let w (u : Unit16) (hi : Bool) : W64 := if hi then u.extractLsb' 64 64 else u.extractLsb' 0 64
      some (Packet.ofWords (w a false) (w a true) (w b false) (w b true) ((rest.take n).flatMap (fun u => leBytes 16 u.toNat)), n + 2)
    else none
  | _ => none
/-- The first of the packets that come back to this device on a VC. -/
def State.loopHead (s : State) (vc : Nat) : Option Packet := s.loop.find? (fun q => opVc q.op == vc)
/-- A message that satisfies m is taken out, where it is the first of those that come back to this device, or stands at
the head of its port's buffer. -/
def State.takeMsg (s : State) (vc : Nat) (m : Packet → Bool) : State :=
  match (s.loopHead vc).filter m with
  | some q => { s with loop := s.loop.erase q }
  | none => match (s.port s.inp.port).headPacket vc with
    | some (q, n) => if m q then s.dropUnits s.inp.port vc n else s
    | none => s

/-! ## Sending -/

/-- The data flits a transmitter may still number (R27). -/
def Port.room (x : Port) : Bool := decide ((x.txSeq - x.txAck).toNat < 1023)
/-- The width in force for the number about to be sent, for the first time or again (R38, R39). -/
def State.applyOrder (s : State) (p : Nat) (q : BitVec 20) : State :=
  let x := s.port p
  match x.order with
  | none => s
  | some o =>
    if serialGe q o.sw then
      (s.setPort p { x with order := none, txw := o.width.code, txset := o.set }).widthNote p x.txw o.width.code
    else s
/-- A flit sent again: at the width and with the acknowledgement of now (R39). -/
def Port.renew (x : Port) (f : Flit) : Flit :=
  mkFlit 0 x.txw.toNat (flitSeq f).toNat (x.rxSeq - 1).toNat (flitVc f) (flitBits f 13 4) ((flitBytes f 248).drop 8)
/-- The kept packets of a channel after a flit of n of its units: the one that holds the last unit is marked. -/
def keptSend (vc : Nat) (seq : BitVec 20) : Nat → List Kept → List Kept
  | _, [] => []
  | n, k :: ks =>
    if k.vc != vc || k.left == 0 then k :: keptSend vc seq n ks
    else { k with left := k.left - n, last := if k.left ≤ n then seq else k.last } :: keptSend vc seq (n - k.left) ks
/-- A flit sent again takes the place of its earlier form in the replay buffer, from which parity is made (R32). -/
def Port.replaced (x : Port) (f : Flit) : List Flit := x.replay.map (fun g => if flitSeq g == flitSeq f then f else g)
/-- The next data flit of a slot: one to be sent again, or a new one of a VC that is not stopped (R26, R27, R36).
DESIGN CHOICE (log 38): a stop holds new flits only, as R36 says; flits being sent again go whatever is stopped. -/
def State.dataTx (s : State) (p vc : Nat) : State :=
  let x := s.port p
  if x.state != .up || 20 ≤ x.slot21 then s
  else match x.resend with
  | f :: rest =>
    let s := s.applyOrder p (flitSeq f)
    let x := s.port p
    let g := x.renew f
    (s.setPort p { x with resend := rest, replay := x.replaced g, slot21 := x.slot21 + 1 }).emit (.flit p g)
  | [] =>
    let q := tget [] x.txq vc
    if q.isEmpty || x.txMute || x.txStop.getLsbD vc || !x.room then s.setPort p { x with slot21 := x.slot21 + 1 }
    else
      let s := s.applyOrder p x.txSeq
      let x := s.port p
      let us := q.take 15
      let first := (us.findIdx? Prod.fst).getD 15
      let f := mkFlit 0 x.txw.toNat x.txSeq.toNat (x.rxSeq - 1).toNat vc first (us.flatMap (fun u => leBytes 16 u.2.toNat))
      (s.setPort p { x with txq := tput [] x.txq vc (q.drop 15), txSeq := x.txSeq + 1, replay := x.replay ++ [f]
                            kept := keptSend vc x.txSeq us.length x.kept, slot21 := x.slot21 + 1 }).emit (.flit p f)

/-- A word with its valid bit and a sequence number (R30). -/
def markSeq (q : Option (BitVec 20)) : Nat := match q with | some q => 2 ^ 31 + q.toNat | none => 0
/-- A link control flit (R30, R31). DESIGN CHOICE (log 38): FIRST, which R25 describes for data flits only, is 0 in it
and in a parity flit. -/
def Port.controlFlit (x : Port) : Flit :=
  let w := match x.worder with
    | some o => 2 ^ 31 + o.width.code.toNat * 2 ^ 28 + o.set.toNat * 2 ^ 26 + o.sw.toNat
    | none => 0
  let body := leBytes 4 x.stopBits.toNat ++ leBytes 4 w ++ (upto 7).flatMap (fun i => leBytes 4 (markSeq x.preq[i]?)) ++
    leBytes 4 (markSeq x.rresend)
  mkFlit 1 x.txw.toNat 0 (x.rxSeq - 1).toNat 0 0 body
/-- The 21st slot carries the control flit (R26). -/
def State.controlTx (s : State) (p : Nat) : State :=
  let x := s.port p
  if x.state != .up || x.slot21 != 20 then s
  else (s.setPort p { x with slot21 := 0 }).emit (.flit p x.controlFlit)
/-- A 4-byte word of a flit. -/
def flitWord (f : Flit) (byte : Nat) : Nat := flitBits f (8 * byte) 32
/-- A valid RESEND (R33): the flits named, and those of a resend in progress, go again. A repeat of the request in
progress, as every control flit carries what is outstanding (R31), starts nothing. DESIGN CHOICE (log 38): once they
have all gone, a request that still stands is served, and counted, again; so is a parity request once its parity has
gone. -/
def Port.resendFrom (x : Port) (r : BitVec 20) : Port :=
  if !x.resend.isEmpty && x.served == some r then x
  else
    let again := x.replay.filter (fun g => serialGe (flitSeq g) r || x.resend.any (fun h => flitSeq h == flitSeq g))
    ({ x with resend := again, served := some r }).count nRESENDS
/-- What a good control flit orders its transmitter (R31, R33, R38, R40): all of it. DESIGN CHOICE (log 38): an order
with the reserved width code 00 is none. -/
def State.controlApply (s : State) (p : Nat) (f : Flit) : State :=
  let x := s.port p
  let w := flitWord f 12
  let order : Option WOrder := if bitOf w 31 && bits w 28 2 != 0 then
    some { width := widthOf (BitVec.ofNat 2 (bits w 28 2)), set := BitVec.ofNat 2 (bits w 26 2), sw := BitVec.ofNat 20 w } else x.order
  let asks := ((upto 7).map (fun i => flitWord f (16 + 4 * i))).filter (fun v => bitOf v 31)
  let asks := (asks.map (fun v => BitVec.ofNat 20 v)).filter (fun q => x.replay.any (fun g => flitSeq g == q))
  let parReq := asks.foldl (fun l q => if l.contains q then l else l ++ [q]) x.parReq
  let r := flitWord f 44
  let x := { x with txStop := f.extractLsb' 64 8, txMute := false, order, parReq }
  s.setPort p (if bitOf r 31 then x.resendFrom (BitVec.ofNat 20 r) else x)
/-- A control flit arrives; a bad one is discarded and counted. -/
def State.controlRx (s : State) (p : Nat) (f : Flit) : State :=
  let x := s.port p
  if x.state != .up then s
  else if flitGood f && x.widthOk f && flitKind f == 1 then ((s.takeAck p f).seeSwitch p f).controlApply p f
  else s.setPort p (x.count nCTL)

/-! ## Parity flits (R32, R33) -/

/-- The run of requested numbers a parity flit covers: the first and those that follow it, up to seven. -/
def Port.parityRun (x : Port) (q : BitVec 20) : Nat → List (BitVec 20)
  | 0 => []
  | n + 1 => if x.parReq.contains q then q :: x.parityRun (q + 1) n else []
/-- The requested parity sent at a free data slot. -/
def State.parityTx (s : State) (p : Nat) : State :=
  let x := s.port p
  match x.parReq with
  | [] => s
  | q :: _ =>
    if x.state != .up || 20 ≤ x.slot21 then s
    else
      let run := x.parityRun q 7
      let blocks := run.flatMap (fun n => match x.replay.find? (fun g => flitSeq g == n) with
        | some g => parityBlock g
        | none => List.replicate 32 0)
      let f := mkFlit 2 x.txw.toNat q.toNat (x.rxSeq - 1).toNat 0 0 (leBytes 8 run.length ++ blocks)
      (s.setPort p { x with parReq := x.parReq.filter (fun n => !run.contains n), slot21 := x.slot21 + 1 }).emit (.flit p f)
/-- One block for a number asked for. -/
def State.parityOne (s : State) (p : Nat) (q : BitVec 20) (block : List Byte) : State :=
  let x := s.port p
  if !x.preq.contains q then s
  else match x.damaged.find? (fun e => e.1 == q) with
  | none => s
  | some e => match parityFix e.2 block with
    | some f => if flitSeq f == q then (s.setPort p (x.count nFIX)).goodFlit p f else s.secondFail p q
    | none => s.secondFail p q
/-- A parity flit arrives; a bad one gives no parity. -/
def State.parityRx (s : State) (p : Nat) (f : Flit) : State :=
  let x := s.port p
  if x.state != .up || !flitGood f || !x.widthOk f || flitKind f != 2 then s
  else
    let s := (s.takeAck p f).seeSwitch p f
    (upto (min 7 (flitBits f 64 8))).foldl (fun s i =>
      s.parityOne p (flitSeq f + BitVec.ofNat 20 i) (((flitBytes f 256).drop (16 + 32 * i)).take 32)) s
/-- Two microseconds without parity: asked once more, then a second failure. -/
def State.parityLate (s : State) (p : Nat) (q : BitVec 20) : State :=
  let x := s.port p
  if !x.preq.contains q then s
  else if x.repeated.contains q then s.secondFail p q
  else s.setPort p { x with repeated := q :: x.repeated }

/-! ## Widths (R38 to R41) -/

/-- The lane sets of a width, as set number and lanes (R40). -/
def laneSets (w : LinkWidth) : List (Nat × Nat) :=
  match w with
  | .w16 => [(0, 0xFFFF)]
  | .w8 => [(0, 0x00FF), (1, 0xFF00)]
  | .w4 => [(0, 0x000F), (1, 0x00F0), (2, 0x0F00), (3, 0xF000)]
/-- The lowest-numbered lane set of a width with no bad lane. -/
def goodSet (bad : BitVec 16) (w : LinkWidth) : Option Nat :=
  ((laneSets w).find? (fun e => bad &&& BitVec.ofNat 16 e.2 == 0)).map Prod.fst
/-- Widths from the widest the receiver may order on. -/
def Port.mayOrder (x : Port) : List LinkWidth := [LinkWidth.w16, .w8, .w4].filter (fun w => decide ((widthOf x.maxw).code.toNat ≤ w.code.toNat))
/-- An order issued by the receiver: its switch at the number asked, or two beyond the highest seen (R38). One whose
switch has not been seen is kept, as the transmitter may have it. -/
def State.orderWidth (s : State) (p : Nat) (w : LinkWidth) (set : Nat) : State :=
  let x := s.port p
  let least := x.rxHigh + 2
  let sw := if serialGe s.inp.seq least then s.inp.seq else least
  s.setPort p { x with worder := some { width := w, set := BitVec.ofNat 2 set, sw }, older := x.older ++ x.worder.toList }
/-- A lane marked bad: the widest good lane set is ordered, or the link goes down (R41). -/
def State.laneBad (s : State) (p : Nat) (l : BitVec 4) : State :=
  let x := s.port p
  if x.state != .up then s
  else
    let x := { x with lanebad := x.lanebad ||| BitVec.ofNat 16 (2 ^ l.toNat) }
    let s := (s.setPort p x).portEvent p eLANEBAD
    match x.mayOrder.findSome? (fun w => (goodSet x.lanebad w).map (fun q => (w, q))) with
    | some (w, q) => s.orderWidth p w q
    | none => s.linkDown p
/-- The control complex narrows a link to save power (R38), to a width MAXW allows (R42). -/
def State.narrow (s : State) (p : Nat) (w : LinkWidth) : State :=
  let x := s.port p
  if x.state != .up || decide (w.code.toNat ≤ x.rxw.toNat) || !x.mayOrder.contains w then s
  else match goodSet x.lanebad w with
    | some q => s.orderWidth p w q
    | none => s
/-- WIDEN: lanes that pass are no longer bad, and the widest allowed width is ordered (R38, R42). -/
def State.widen (s : State) (p : Nat) (pass : Bool) : State :=
  let x := s.port p
  if x.state != .up || !pass then s
  else (s.setPort p { x with lanebad := 0 }).orderWidth p (widthOf x.maxw) 0
/-- Retraining done: the lanes trained give the width, and sending resumes at the first unacknowledged flit (R35). -/
def State.retrained (s : State) (p : Nat) : State :=
  let x := s.port p
  if x.state != .training then s
  else
    let w := s.inp.lwidth.code
    let s := s.setPort p { x with state := .up, lanebad := 0, resend := x.replay, txw := w, rxw := w, txset := 0, rxset := 0 }
    ((s.widthNote p x.txw w).widthNote p x.rxw w).slotNote (s.setPort p x)
/-- RETRAIN takes a port that is not held down into training (R42). -/
def State.retrain (s : State) (p : Nat) : State := if (s.port p).disable then s else s.linkDown p
/-- A watermark write, ignored whole where it breaks R37; a new watermark is compared with the occupancy at once. -/
def State.wmarkWrite (s : State) (p v : Nat) (x : W32) : State :=
  let hi := bits x.toNat 16 11
  let lo := bits x.toNat 0 11
  if hi ≤ lo || 1024 < hi then s.portEvent p eWMARKBAD
  else s.setPort p ({ s.port p with high := tput 512 (s.port p).high v hi, low := tput 256 (s.port p).low v lo }.compare v)
/-- EZL_CLEAR (R43). -/
def State.clearCounts (s : State) (p : Nat) (v : W32) : State :=
  let x := s.port p
  s.setPort p { x with cnt := (upto 8).foldl (fun t i => if v.getLsbD i then tput 0 t i 0 else t) x.cnt }

def execDataFlitRx (s : State) : Host.Outcome State Fault Refusal := .next (s.dataRx s.inp.port s.inp.flit)
def execDataFlitTx (s : State) : Host.Outcome State Fault Refusal := .next (s.dataTx s.inp.port s.inp.vc.toNat)
def execLinkControlFlitTx (s : State) : Host.Outcome State Fault Refusal := .next (s.controlTx s.inp.port)
def execLinkControlFlitRx (s : State) : Host.Outcome State Fault Refusal := .next (s.controlRx s.inp.port s.inp.flit)
def execControlFlitTimeout (s : State) : Host.Outcome State Fault Refusal :=
  .next (s.setPort s.inp.port { s.port s.inp.port with txMute := true })
def execParityFlitTx (s : State) : Host.Outcome State Fault Refusal := .next (s.parityTx s.inp.port)
def execParityFlitRx (s : State) : Host.Outcome State Fault Refusal := .next (s.parityRx s.inp.port s.inp.flit)
def execParityTimeout (s : State) : Host.Outcome State Fault Refusal := .next (s.parityLate s.inp.port s.inp.seq)
def execLaneBad (s : State) : Host.Outcome State Fault Refusal := .next (s.laneBad s.inp.port s.inp.lane)
def execLinkNarrowRequest (s : State) : Host.Outcome State Fault Refusal := .next (s.narrow s.inp.port s.inp.lwidth)
def execLinkIdleTimeout (s : State) : Host.Outcome State Fault Refusal :=
  .next (if (s.port s.inp.port).state == .up then s.linkDown s.inp.port else s)
def execLinkRetrainDone (s : State) : Host.Outcome State Fault Refusal := .next (s.retrained s.inp.port)
def execEzlRetrain (s : State) : Host.Outcome State Fault Refusal := .next (s.retrain s.inp.port)
def execEzlWiden (s : State) : Host.Outcome State Fault Refusal := .next (s.widen s.inp.port s.inp.flag)
def execEzlWmarkWrite (s : State) : Host.Outcome State Fault Refusal :=
  .next (s.wmarkWrite s.inp.port s.inp.vc.toNat s.inp.v)
def execEzlClear (s : State) : Host.Outcome State Fault Refusal := .next (s.clearCounts s.inp.port s.inp.v)

end Machine

end Sys2Proof
end

