-- ==== Sys2Proof/Machine/Boot.lean ====
section
/-! DEFINITION. Power, cold and warm start, the firmware image and its lock (R11 to R22, R115, R116). -/

namespace Sys2Proof.Machine

/-! ## The firmware image (R116) -/

def mib512 : Nat := 2 ^ 29
def mib256 : Nat := 2 ^ 28
/-- The carve-out's bytes of HBM: base and length; empty for a size that is no size (R115). -/
def Boot.carve (b : Boot) : Nat × Nat :=
  let n := b.fwcSize.toNat
  let base := b.fwcBase.toNat * mib256
  if n = 0 || decide (4 < n) || decide (2 ^ 40 < base + n * mib256) then (base, 0) else (base, n * mib256)
/-- A field of the image header, whose packing the spec does not give. -/
def State.imageField (s : State) (i : Nat) : Nat := openField 0x116 (bytesAt s.mem s.boot.carve.1 256) i
/-- A part of the image by the header's offset and length; none outside the carve-out. -/
def State.imagePart (s : State) (i : Nat) : Option (List Byte) :=
  let o := s.imageField i
  let n := s.imageField (i + 1)
  if o + n ≤ s.boot.carve.2 then some (bytesAt s.mem (s.boot.carve.1 + o) n) else none
/-- One section measured: its digest, and whether its signature verifies. -/
def State.measureSection (s : State) (key : List Byte) (i sig : Nat) : BitVec 384 × Bool :=
  match s.imagePart i, s.imagePart sig with
  | some b, some g => (Config.sha384 b, Config.mldsaOk key b g)
  | _, _ => (0, false)
/-- The halt of a failed measurement (R19). -/
def State.measureFail (s : State) : State :=
  { s with boot := { s.boot with halt := .measure, measFail := true } }.emit (.report 0x19)
/-- A 64 KiB page of HBM that only the firmware cores reach, or that holds part of the dirty-bit bitmap (R115, R138). -/
def State.reservedPage (s : State) (page : Nat) : Bool :=
  let c := s.boot.carve
  (decide (c.1 ≤ page * 65536) && decide (page * 65536 < c.1 + c.2)) || inBitmap (page * 65536)
/-- Placement entries of n pages of HBM from a page on, those reserved passed over. -/
def State.placePages (s : State) (base n : Nat) : Tbl W64 :=
  let c := s.boot.carve
  let b := if decide (c.1 / 65536 ≤ base) && decide (base < (c.1 + c.2) / 65536) then (c.1 + c.2) / 65536 else base
  let at_ (i : Nat) : Nat := if b < c.1 / 65536 && c.1 / 65536 ≤ b + i then b + i + c.2 / 65536 else b + i
  let free := ((upto (if n = 0 then 0 else n + 512)).map at_).filter (fun p => !inBitmap (p * 65536))
  (free.take n).zipIdx.map (fun e => (e.2, BitVec.ofNat 64 (2 ^ 63 + e.1 * 65536)))
/-- A function's quota with its pages placed from an HBM page on, as Hasp chooses (R95). -/
def State.giveMemory (s : State) (f quota : Nat) : State :=
  let fn := s.func f
  let have_ := fn.quota * 8192
  let fn := { fn with
    quota, place := if fn.quota < quota then fn.place ++ (s.placePages s.inp.page (quota * 8192 - have_)).map (fun e => (e.1 + have_, e.2))
      else fn.place.filter (fun e => decide (e.1 < quota * 8192)) }
  s.setFunc f fn
/-- Hasp's writes of translation tables, as HBM addresses and bytes. -/
def State.haspWrites (s : State) : State := s.inp.img.blocks.foldl (fun s b => s.homeWrite b.1 b.2) s
/-- Step 9 (R17, R22), with what Hasp has set up for PF0: its VDN, its memory and its stage-2 tables. -/
def State.ready (s : State) : State :=
  let s := { s with boot := { s.boot with step := 9, reached := true, preserved := [] } }
  let s := s.giveMemory 0 s.inp.count
  let s := s.setFunc 0 { s.func 0 with part := true, vdn := s.inp.vdn, s2root := s.inp.k }
  let s := { s with haspSrc := s.inp.dev }
  (s.haspWrites).emit (.report 9)
/-- Step 8: the measurements and signature checks, then step 9 or the halt (R19, R116). -/
def State.measure (s : State) : State :=
  let s := { s with boot := { s.boot with step := 8 } }
  let magic := numAt s.mem s.boot.carve.1 4
  if s.boot.carve.2 = 0 || magic != 0x4C594E50 then s.measureFail
  else match s.imagePart 4 with
  | none => s.measureFail
  | some key =>
    if Config.sha384 key != Config.fusedKey then s.measureFail
    else
      let h := s.measureSection key 0 6
      let s := { s with boot := { s.boot with measHasp := h.1 } }
      if !h.2 then s.measureFail
      else
        let d := s.measureSection key 2 8
        let s := { s with boot := { s.boot with measSched := d.1 } }
        if !d.2 then s.measureFail else s.ready

/-! ## Starts (R17, R18, R20, R21) -/

/-- A port trained in step 5. At a warm start its registers and counters stay, and what it had not had acknowledged is
sent again. DESIGN CHOICE (log 38): the width at bring-up is sixteen lanes, code 01. -/
def Port.startTrain (o : Port) (warm : Bool) : Port :=
  let x : Port := if warm then { o.train with resend := o.replay, lanebad := 0 } else {}
  { x with state := .up, txw := 1, rxw := 1, txset := 0, rxset := 0 }
/-- Ports after step 5 (R17, R18, R20): one that fails is left failed, with LINK_FAIL to be recorded. DESIGN CHOICE
(log 38): a port that software holds disabled over a warm start is not trained, and raises nothing. -/
def trainedPorts (old : Tbl Port) (warm : Bool) (bad : List Nat) : Tbl Port :=
  (upto 18).map (fun p =>
    let o := tget ({} : Port) old p
    if warm && (o.state == .up || o.disable) then (p, o)
    else if bad.contains p then (p, { (if warm then o.train else {}) with state := .failed })
    else (p, o.startTrain warm))
/-- LINK_FAIL raised for the ports that failed in step 5 (R20, R35, R44). -/
def State.failEvents (s : State) (old : Tbl Port) (warm : Bool) (bad : List Nat) : State :=
  (upto 18).foldl (fun s p =>
    let o := tget ({} : Port) old p
    if bad.contains p && !(warm && (o.state == .up || o.disable)) then s.portEvent p eLINKFAIL else s) s
/-- HBM and ports over a start: nothing else of the device is kept, and no die runs. -/
def State.stoppedAt (s : State) (boot : Boot) (ports : Tbl Port) : State :=
  { State.reset with
    agenda := s.agenda, cur := { s.cur with go := false }, inp := s.inp, freeCtr := s.freeCtr, out := s.out, mem := s.mem
    poison := s.poison, weak := s.weak, dirty := s.dirty, boot, ports }
/-- The device after steps 1 to 6 over what survives: HBM zeroed but for a part kept with its poison (R18, R142). -/
def State.started (s : State) (warm : Bool) (kept : Nat → Bool) (boot : Boot) : State :=
  let e := s.inp.env
  let members : Tbl (Option (BitVec 12 × BitVec 8)) := if boot.bridge then e.members.map (fun m => (m.1, some m.2)) else []
  ({ s.stoppedAt boot (trainedPorts s.ports warm e.badPorts) with
    mem := s.mem.filter (fun c => kept c.1)
    poison := s.poison.filter (fun k => kept (k * 32)), weak := s.weak.filter (fun k => kept (k * 32)), dirty := []
    group8 := members } : State).failEvents s.ports warm e.badPorts
/-- A cold start: steps 1 to 6, then it waits for the image; a failed die link or stack stops it before (R20). A bridge is
in slot 0 (R68). -/
def State.coldStart (s : State) : State :=
  let e := s.inp.env
  let b : Boot := { step := 7, bridge := e.bridge, slot := if e.bridge then 0 else e.slot, trips := s.boot.trips
                    reached := s.boot.reached, coeffs := true }
  if e.dieLinkFail then
    (s.stoppedAt { b with step := 3, halt := .hardware 3, coeffs := s.boot.coeffs } []).emit (.report 3)
  else if e.stackFail then
    (s.stoppedAt { b with step := 4, halt := .hardware 4, coeffs := s.boot.coeffs } []).emit (.report 4)
  else s.started false (fun _ => false) b
/-- HBM kept over a warm start: the carve-out and the preserved regions. -/
def Boot.keeps (b : Boot) (a : Nat) : Bool :=
  (decide (b.carve.1 ≤ a) && decide (a < b.carve.1 + b.carve.2)) ||
  b.preserved.any (fun r => decide (r.1 * mib512 ≤ a) && decide (a < (r.1 + r.2) * mib512))
/-- A warm start; performed as a cold one before the first start since power-on is done (R21). DESIGN CHOICE (log 41): it
begins with the arithmetic clock at 1.7 GHz and no cause noted, as a cold start does. -/
def State.warmStart (s : State) : State :=
  let e := s.inp.env
  if !s.boot.reached then s.coldStart
  else if s.boot.halt == .measure then s
  else
    let b : Boot := { s.boot with
      step := 8, warm := true, halt := .none_, clockMHz := 1700, cause := false, clearMs := 0, measFail := false
      measHasp := 0, measSched := 0 }
    if e.dieLinkFail then (s.stoppedAt { b with step := 3, halt := .hardware 3 } s.ports).emit (.report 3)
    else if e.stackFail then (s.stoppedAt { b with step := 4, halt := .hardware 4 } s.ports).emit (.report 4)
    else (s.started true s.boot.keeps b).measure
/-- A mark is made when the region is whole pages of HBM, outside the carve-out and the dirty-bit bitmap, and one of at
most 64 (R22). -/
def State.markPreserved (s : State) : State :=
  let r := (s.inp.page, s.inp.count)
  let c := s.boot.carve
  let hitsCarve := decide (r.1 * mib512 < c.1 + c.2) && decide (c.1 < (r.1 + r.2) * mib512)
  let hitsBitmap := (upto 16).any (fun k => (upto 8).any (fun i =>
    decide (r.1 * 2048 ≤ Config.bitmapBlock k i) && decide (Config.bitmapBlock k i < (r.1 + r.2) * 2048)))
  if r.2 = 0 || decide (2048 < r.1 + r.2) || hitsCarve || hitsBitmap || decide (64 ≤ s.boot.preserved.length) then s
  else { s with boot := { s.boot with preserved := s.boot.preserved ++ [r] } }

/-! ## Power (R15, R16) -/

/-- One millisecond of the clock's control. -/
def Boot.clockStep (b : Boot) (present : Bool) : Boot :=
  if present then { b with cause := true, clearMs := 0, clockMHz := max 800 (b.clockMHz - 100) }
  else
    let b := { b with cause := false, clearMs := if b.clockMHz < 1700 then b.clearMs + 1 else 0 }
    if 10 ≤ b.clearMs then { b with clockMHz := min 1700 (b.clockMHz + 100) } else b
/-- A trip: everything on the device is lost but the event log and the flash. -/
def State.trip (s : State) : State :=
  { State.reset with
    agenda := s.agenda, cur := { s.cur with go := false }, inp := s.inp, freeCtr := s.freeCtr, out := s.out
    boot := { halt := .tripped, trips := s.boot.trips + 1, coeffs := s.boot.coeffs, reached := s.boot.reached } }

/-! ## The boot aperture and the lock (R115) -/

/-- A host write through the boot aperture lands in HBM before the lock; after it, it is aborted. -/
def State.bootWrite (s : State) : State :=
  if s.boot.locked || !(s.inp.off + s.inp.bytes.length ≤ mib256) then s.emit (.hostAnswer s.inp.bus.toNat 0 false 0)
  else s.homeWrite (s.boot.apert.toNat * mib256 + s.inp.off) s.inp.bytes
/-- FWC_RANGE sets the carve-out and locks it; a start that waits for the image goes on with step 8. -/
def State.fwcRange (s : State) (v : W32) : State :=
  if s.boot.locked then s
  else
    let s := { s with boot := { s.boot with
      locked := true, fwcBase := v.extractLsb' 16 11, fwcSize := v.extractLsb' 0 3 } }
    if s.boot.step = 7 && s.boot.halt == .none_ then s.measure else s

def execColdStart (s : State) : Host.Outcome State Fault Refusal := .next s.coldStart
def execWarmStart (s : State) : Host.Outcome State Fault Refusal := .next s.warmStart
def execHaspMarkPreserved (s : State) : Host.Outcome State Fault Refusal := .next s.markPreserved
def execSupplyOrThermalExcursion (s : State) : Host.Outcome State Fault Refusal :=
  .next { s with boot := { s.boot with cause := true, clearMs := 0 } }
def execClockStep (s : State) : Host.Outcome State Fault Refusal :=
  .next { s with boot := s.boot.clockStep s.inp.flag }
def execModuleTrip (s : State) : Host.Outcome State Fault Refusal := .next s.trip
def execBootApertureWrite (s : State) : Host.Outcome State Fault Refusal := .next s.bootWrite
def execFwcRange (s : State) : Host.Outcome State Fault Refusal := .next (s.fwcRange s.inp.v)

end Sys2Proof.Machine
end

