-- ==== Sys2Proof/Machine/Home.lean ====
section
/-! DEFINITION. What a home slice does (R123, R240, R247, R250): reading and writing the locations it holds, atomics
with the logs and the enforced order of replay profiling (R299, R300). -/

namespace Sys2Proof.Machine

/-! ## The slice's own locations -/

/-- n bytes a home slice holds at a place: HBM, or a sector of a remote or pool location it has. -/
def State.sliceNum (s : State) (l : Loc) (n : Nat) : Option Nat :=
  match l with
  | .home pa => some (s.homeNum pa n)
  | .pool a | .far a _ => s.l2Num a n
  | _ => none
/-- Bytes written at a home slice; a pool or write-back sector becomes dirty there. A whole sector needs no fill. -/
def State.slicePut (s : State) (f ctx : Nat) (l : Loc) (n v : Nat) : State :=
  match l with
  | .home pa => s.homeWrite pa (leBytes n v)
  | .pool a | .far a _ =>
    let x : Sector := (tget none s.l2 (a / 32)).getD { func := f, ctx, rcc := locRcc l }
    (s.l2Room (a / 32)).l2Put a (x.put (a % 32) n v true)
  | _ => s
/-- Some sector of the bytes is uncorrectable (R142). -/
def State.locPoisoned (s : State) (l : Loc) (n : Nat) : Bool :=
  match l with
  | .home pa => s.poisoned pa n
  | _ => false

/-! ## Logs of atomics (R299) -/

/-- The location address of a place as the logs name it, in 8-byte steps (R240). -/
def locKey8 (l : Loc) : Option Nat :=
  match l with
  | .home pa => some (pa / 8 * 8)
  | .pool a | .far a _ => some (a / 8 * 8)
  | _ => none
/-- The slice of a location address. -/
def slice8 (a : Nat) : Nat := sliceOf (a / 128)
/-- A closed run written to its slice's area; a full area sets LOGFULL, and the session replays nothing. -/
def State.logRun (s : State) (f : Nat) (r : Nat × W32 × Nat) : State :=
  let x := (s.func f).probex
  let sl := slice8 r.1
  let es := tget [] x.log sl
  if x.noReplay then s
  else if x.logSlice * 256 ≤ es.length then s.setProbex f { x with logfull := true, noReplay := true }
  else
    let ctx := match x.rights with | some (c, _) => c | none => 0
    let va := x.logBase + BitVec.ofNat 64 (sl * x.logSlice * 4096 + 16 * es.length)
    let s := s.setProbex f { x with log := tput [] x.log sl (es ++ [r]) }
    s.devPut f ctx va (leBytes 8 r.1 ++ leBytes 8 (r.2.1.toNat + r.2.2 * 2 ^ 32))
/-- One atomic of a requester at a location: its run grows, or the run before it closes. -/
def State.logAtomic (s : State) (f a : Nat) (id : W32) : State :=
  let x := (s.func f).probex
  match x.openRuns.find? (fun r => r.1 == a) with
  | some (_, i, n) =>
    if i == id && n < 65535 then
      s.setProbex f { x with openRuns := x.openRuns.map (fun r => if r.1 == a then (a, i, n + 1) else r) }
    else
      (s.setProbex f { x with openRuns := x.openRuns.map (fun r => if r.1 == a then (a, id, 1) else r) }).logRun f (a, i, n)
  | none => s.setProbex f { x with openRuns := x.openRuns ++ [(a, id, 1)] }

/-! ## Enforced order (R300) -/

/-- A pass's order is broken: MISMATCH, a record, and no more enforcement. -/
def State.mismatch (s : State) (f a : Nat) (want got : Nat) : State :=
  let x := (s.func f).probex
  let ctx := match x.rights with | some (c, _) => c | none => 0
  (s.setProbex f { x with mismatch := true, enforce := false }).tbRecord f ctx 0 5 1 [slice8 a, a, want, got] false
/-- The entry a location's next atomic is to match. -/
def nextEntry (x : Probex) (a : Nat) : Option (Nat × W32 × Nat) :=
  (tget [] x.left (slice8 a)).find? (fun r => r.1 == a)
/-- One atomic taken off the first entry of its location. -/
def takeEntry (a : Nat) : List (Nat × W32 × Nat) → List (Nat × W32 × Nat)
  | [] => []
  | r :: rs => if r.1 == a then (if r.2.2 ≤ 1 then rs else (r.1, r.2.1, r.2.2 - 1) :: rs) else r :: takeEntry a rs
/-- Whether an atomic of a requester may execute now, with the state after the decision; none where it waits. -/
def State.replayGate (s : State) (f ctx : Nat) (a : Nat) (id : W32) : Option State :=
  let x := (s.func f).probex
  if !x.pass || !s.right f ctx rREPLAY then some s
  else if x.passNo == 0 then some (if x.noReplay then s else s.logAtomic f a id)
  else if !x.enforce then some s
  else match nextEntry x a with
    | none => some (s.mismatch f a 0 id.toNat)
    | some r =>
      if r.2.1 == id then
        let sl := slice8 a
        some (s.setProbex f { x with left := tput [] x.left sl (takeEntry a (tget [] x.left sl)) })
      else none
/-- The requester id of a lane of a group (R299). -/
def State.requester (s : State) (c p lane : Nat) : W32 :=
  let g := s.group c p
  BitVec.ofNat 32 (s.teamIndex (s.team c g.team) % 2 ^ 20 * 2 ^ 12 + g.grp % 32 * 2 ^ 7 + lane)

/-! ## Remote requesters (R263) -/

/-- The record of a request from another device. -/
def packetRec (p : Packet) : SyncRec :=
  { scope := (Scope.ofCode p.scope).getD .plain, vdn := p.svdn, core := p.score.toNat, team := p.steam.toNat, sclu := p.sclu.toNat, cl := 0
    remote := true, stamp := 0 }

end Sys2Proof.Machine
end

