-- ==== Sys2Proof/Machine/Queue.lean ====
section
/-! DEFINITION. Launch queues (R99 to R105): the function gate, fetching and retiring commands, copy and marker
commands, the service of functions (R182), and reports of engine faults (R134). -/

namespace Sys2Proof.Machine

/-! ## Queue registers -/

def State.queue (s : State) (f q : Nat) : Queue := tget {} (s.func f).queues q
def State.setQueue (s : State) (f q : Nat) (x : Queue) : State :=
  s.setFunc f { s.func f with queues := tput {} (s.func f).queues q x }
def Queue.enabled (x : Queue) : Bool := x.cfg.getLsbD 31
def Queue.ctx (x : Queue) : Nat := bits x.cfg.toNat 16 8
def Queue.vec (x : Queue) : Nat := bits x.cfg.toNat 5 11
/-- LOGN; a value outside 4 to 16 acts as 4. -/
def Queue.logn (x : Queue) : Nat :=
  let n := x.cfg.toNat % 32
  if 4 ≤ n && n ≤ 16 then n else 4
def Queue.size (x : Queue) : Nat := 2 ^ x.logn
def Queue.halted (x : Queue) : Bool := x.err.getLsbD 31
/-- QERR with HALT, CODE and INDEX (R102). -/
def Queue.halt (x : Queue) (code index : Nat) : Queue :=
  { x with err := BitVec.ofNat 32 (2 ^ 31 + bits x.err.toNat 24 7 * 2 ^ 24 + code % 256 * 2 ^ 16 + index % 65536) }

/-- The capability of a queue's ring (R113, R114): kind 1, to load from, for the function. -/
def ringCap (f : Nat) (x : Queue) : BitVec 128 :=
  BitVec.ofNat 128 (x.base.toNat * 2 ^ 64 + 256 * x.size * 2 ^ 24 + 1 * 2 ^ 20 + 2 ^ 19 + f % 64)

def sOK : Byte := 0x00
def sBADKIND : Byte := 0x01
def sCAPFAULT : Byte := 0x02
def sXLATE : Byte := 0x03
def sREFUSED : Byte := 0x04
def sRESERVED : Byte := 0x05

/-! ## The function gate (R73, R103, R104, R106) -/

/-- a is after b modulo 2^32 (R73). -/
def after32 (a b : W32) : Bool := let d := (a - b).toNat; decide (1 ≤ d) && decide (d < 2 ^ 31)
/-- A store to a notify page reaches the gate of its function; a halted device accepts no queue (R19, R144). -/
def State.notify (s : State) (f q off size : Nat) (v : W32) : State :=
  let x := s.queue f q
  if (s.func f).flr || !s.accepting then s
  else if off != 0 || size != 4 then s.setQueue f q { x with err := x.err ||| 0x20000000 }
  else if x.size < (v - x.head).toNat then s.setQueue f q { x with err := x.err ||| 0xC0000000 }
  else if after32 v x.tail then s.setQueue f q { x with tail := v }
  else s
/-- QCFG while ENABLE is 1 takes only a write that clears it, which then writes the register whole (DEDUCED); the reserved
bits read zero. Hasp gives the scheduler firmware the ring's capability when the queue is enabled, and takes it back (R114). -/
def State.qcfgWrite (s : State) (f q : Nat) (v : W32) : State :=
  let x := s.queue f q
  if (x.enabled && v.getLsbD 31) || !s.accepting then s
  else
    let x := { x with cfg := v &&& 0x80FFFFFF }
    let s := s.setQueue f q x
    { s with ringCaps := tput none s.ringCaps (f * 64 + q) (if x.enabled then some (ringCap f x) else none) }
/-- A one written to HALT, OVERRUN or BADNOTIFY clears it; a queue whose HALT falls fetches again. -/
def State.qerrWrite (s : State) (f q : Nat) (v : W32) : State :=
  let x := s.queue f q
  s.setQueue f q { x with err := x.err &&& ~~~(v &&& 0xE0000000) }

/-! ## Retirement (R101, R102) -/

/-- Memory effects of a function made visible at system scope: dirty L1 sectors and dirty remote lines written back
(R101). -/
def State.publish (s : State) (f : Nat) : State :=
  let s := s.cores.foldl (fun s e => e.2.l1.foldl (fun s k => match k.2 with
    | some x => if x.func == f then s.l1Back e.1 k.1 false else s
    | none => s) s) s
  s.l2Flush 0 (fun _ x => x.func == f && x.rcc == 2) false
/-- Some write-back of a function has no response yet. -/
def State.publishing (s : State) (f : Nat) : Bool :=
  s.streams.any (fun x => (x.out ++ x.queue).any (fun y => match y.2 with
    | .evict _ => y.1.sfunc.toNat == f
    | _ => false))
/-- The MSI-X message of a completion, after what is owed before it and once the device's own writes are answered (R102). -/
def State.completionMsix (s : State) (f vec : Nat) : State :=
  if s.owed.any (fun o => o.func == f) || s.devWrites f then { s with owed := s.owed ++ [.msix f vec] } else s.msix f vec
/-- A command retires: its completion record, its interrupt, QDONE, and the halt of an error. After an FLR point
nothing of the function begins (R106). A record that cannot be written yet is owed. -/
def State.retireCmd (s : State) (f q slot : Nat) (status : Byte) : State :=
  let x := s.queue f q
  match x.cmds.find? (fun c => c.slot == slot) with
  | none => s
  | some c =>
    let quiet := (s.func f).flr
    let s := if c.caddr == 0 || quiet then s
      else s.cmdPut (.copy f q slot) f c.ctx c.caddr (leBytes 4 c.cseq.toNat ++ leBytes 12 status.toNat)
    let s := if c.irq && !quiet then s.completionMsix f x.vec else s
    let x := { x with cmds := x.cmds.filter (fun c => c.slot != slot), done := x.done + 1 }
    s.setQueue f q (if status == sOK then x else x.halt status.toNat (slot % x.size))

/-! ## Service (R182) -/

/-- A queue has a command its scheduler may fetch: covered, enabled, and after the start of the one before. -/
def Queue.fetchable (x : Queue) : Bool :=
  x.enabled && !x.halted && x.head != x.tail && x.cmds.all (fun c => c.started)
/-- Hasp holds a report for a queue's fetch or command. -/
def State.queueAtHasp (s : State) (f q : Nat) : Bool :=
  s.haspFaults.any (fun e => match e.1 with | .copy f' q' _ => f' == f && q' == q | _ => false)
/-- A function has work for the scheduler firmware now: a command to fetch, or one fetched that may start. -/
def State.works (s : State) (f : Nat) : Bool :=
  let fn := s.func f
  !fn.flr && s.accepting && fn.queues.any (fun e =>
    !s.queueAtHasp f e.1 && ((!fn.fetchOff && fn.part && e.2.fetchable) ||
      e.2.cmds.any (fun c => !c.started && (!c.waitPrev || e.2.cmds.length == 1))))
/-- n units of service charged to a function, by deficit round robin over those with work; none where it is not its
turn. -/
def State.charge (s : State) (f n : Nat) (work : Nat → Bool) : Option State :=
  let fn := s.func f
  let others := (upto 64).filter (fun g => g != f && work g && (s.func g).weight != 0)
  let pay (s : State) : State := s.setFunc f { s.func f with deficit := (s.func f).deficit - n }
  if fn.weight == 0 then (if others.isEmpty then some s else none)
  else if 1 ≤ fn.deficit then some (pay s)
  else if others.any (fun g => decide (1 ≤ (s.func g).deficit)) then none
  else
    let rounds : Nat := if others.isEmpty then (fn.weight - fn.deficit).toNat / fn.weight else 1
    if 1 ≤ fn.deficit + rounds * fn.weight then
      some (pay ((f :: others).foldl (fun s g =>
        let x := s.func g
        s.setFunc g { x with deficit := x.deficit + rounds * x.weight }) s))
    else none

/-! ## Faults of the device's own reads (R131 to R134) -/

/-- The record of a stage-1 fault of an engine that carries a core number, 0 for the firmware's own. -/
def State.faultRecord (s : State) (f ctx : Nat) (who : XlTarget) (x : XlFault) (score gs : Nat) : State :=
  s.ringWrite f ctx who x.va.toNat (recWord1 x.kind.toNat x.stage2 x.access x.level ctx f score gs) x.gpa.toNat 0
/-- A parked engine access: its record is written when it parks first (R131, R134). -/
def State.parkNote (s : State) (f ctx : Nat) (who : XlTarget) (old : Option Park) (x : XlFault) (score gs : Nat) : State × Park :=
  let page := x.va.toNat / 65536
  let seen := match old with | some k => k.recs | none => []
  if x.stage2 then (s.toHasp who x, { flt := x, active := true, recs := seen })
  else if seen.contains page then (s, { flt := x, active := true, recs := seen })
  else (s.faultRecord f ctx who x score gs, { flt := x, active := true, recs := page :: seen })

/-! ## Fetching (R100, R101, R105) -/

/-- Bit fields of a command's 256 bytes. -/
def cmdOf (b : List Byte) (slot ctx : Nat) : Cmd :=
  let w (i : Nat) : Nat := leNat ((b.drop (8 * i)).take 8)
  { slot, kind := w 0 % 256, irq := bitOf (w 0) 9, cseq := BitVec.ofNat 32 (w 0 / 2 ^ 32), caddr := BitVec.ofNat 64 (w 1)
    ctx, w2 := BitVec.ofNat 64 (w 2), w3 := BitVec.ofNat 64 (w 3), w4 := BitVec.ofNat 64 (w 4) }
/-- What is wrong with a command as read. -/
def cmdBad (b : List Byte) : Option Byte :=
  let w0 := leNat (b.take 8)
  if bits w0 10 22 != 0 || leNat ((b.drop 8).take 8) % 16 != 0 then some sRESERVED
  else if w0 % 256 == 0 || decide (4 < w0 % 256) then some sBADKIND
  else none
/-- The context entry read where a queue or a launch binds it, and held until the next such read: a new GEN discards the
context's translations and lets its parked groups try again (R122, R131). -/
def State.bindCtx (s : State) (f ctx : Nat) : Except XlStop (Bool × State) :=
  match s.ctxRead 0 f ctx 0 0, s.ctxRead 0 f ctx 1 0, s.ctxRead 0 f ctx 2 0 with
  | .ok w0, .ok w1, .ok w2 =>
    let fn := s.func f
    let same := match tget none fn.ctxs ctx with | some e => bits e.1.toNat 8 8 == bits w0 8 8 | none => false
    let s := s.setFunc f { fn with
      ctxs := tput none fn.ctxs ctx (some (BitVec.ofNat 64 w0, BitVec.ofNat 64 w1, BitVec.ofNat 64 w2)) }
    if same then .ok (bitOf w0 0, s)
    else .ok (bitOf w0 0, (s.dropXl (fun e => e.func == f && e.ctx == ctx)).replayParked (fun f' c' _ => f' == f && c' == ctx))
  | .error e, _, _ | _, .error e, _ | _, _, .error e => .error e
/-- The next covered command is read and becomes the queue's latest; its entry retires with XLATE where the ring does
not translate by stage 1 or cannot be read. A command in error retires at once. -/
def State.fetchCmd (s : State) (f q : Nat) : State :=
  let fn := s.func f
  let x := s.queue f q
  if fn.flr || fn.fetchOff || !fn.part || !x.fetchable || !s.accepting then s
  else
    let slot := x.head.toNat
    let took (s : State) (c : Cmd) : State :=
      let x := s.queue f q
      s.setQueue f q { x with head := x.head + 1, cmds := x.cmds ++ [c] }
    let lost (s : State) : State := (took s { cmdOf [] slot x.ctx with started := true }).retireCmd f q slot sXLATE
    match s.bindCtx f x.ctx with
    | .error (.need sfa) => s.askSectors 0 f x.ctx (.pool sfa) 8
    | .error .transit => s
    | .error (.fault k) => s.toHasp (.copy f q slot) k
    | .ok (_, s) =>
      match s.vaRead f x.ctx (x.base + BitVec.ofNat 64 (256 * (slot % x.size))) 256 with
      | .wait s => s
      | .refused _ s => lost s
      | .fault k => if k.stage2 then s.toHasp (.copy f q slot) k else lost s
      | .bytes b s =>
        let c := cmdOf b slot x.ctx
        match cmdBad b with
        | some st => (took s { c with started := true }).retireCmd f q slot st
        | none => took s { c with waitPrev := bitOf (leNat (b.take 8)) 8 || c.kind == 4 }

/-! ## Starting commands -/

/-- The whole function is stopped for a migration or a checkpoint, from quiesce on (R159, R160, R169), or stays stopped
after one, or is not resumed here yet (R163). -/
def State.wholeStop (s : State) (f : Nat) : Bool :=
  (s.mig.func == f && decide (3 ≤ s.mig.phase) && (s.mig.dir == 1 || s.mig.dir == 3)) ||
  ((s.func f).fetchOff && (s.func f).placeOff && !(s.func f).flr)

/-- The command of a slot, when it is of a kind and may start now (R101). -/
def State.startable (s : State) (f q slot kind : Nat) : Option Cmd :=
  let x := s.queue f q
  match x.cmds.find? (fun c => c.slot == slot) with
  | none => none
  | some c =>
    let before := x.cmds.takeWhile (fun c => c.slot != slot)
    if s.wholeStop f then none else if c.kind != kind || c.started || !(before.all (fun c => c.started)) || (c.waitPrev && !before.isEmpty) then none else some c
/-- The command started, its function charged a unit. -/
def State.startCmd (s : State) (f q slot : Nat) : Option State :=
  (s.charge f 1 s.works).map (fun s => s.mapCmd f q slot (fun c => { c with started := true }))
def State.markerCmd (s : State) (f q slot : Nat) : State :=
  match s.startable f q slot 4 with
  | none => s
  | some _ => match s.startCmd f q slot with
    | some s => s.retireCmd f q slot sOK
    | none => s
def State.copyCmd (s : State) (f q slot : Nat) : State :=
  match s.startable f q slot 3 with
  | none => s
  | some _ => (s.startCmd f q slot).getD s

/-! ## Copies -/

/-- How far a copy comes: bytes made, and what it waits for. -/
structure CopyStep where
  st : State
  done : Nat
  fault : Option XlFault
  refused : Bool
/-- A byte copy carried on in pieces that stay inside one 4 KiB block of the source and one of the destination. -/
def State.copyRun (s : State) (f ctx : Nat) (src dst : W64) (len done : Nat) : Nat → CopyStep
  | 0 => { st := s, done, fault := none, refused := false }
  | n + 1 =>
    if len ≤ done then { st := s, done, fault := none, refused := false }
    else
      let a := src + BitVec.ofNat 64 done
      let b := dst + BitVec.ofNat 64 done
      let m := min (len - done) (min (4096 - a.toNat % 4096) (4096 - b.toNat % 4096))
      match s.vaRead f ctx a m with
      | .wait s => { st := s, done, fault := none, refused := false }
      | .fault x => { st := s, done, fault := some x, refused := false }
      | .refused _ s => { st := s, done, fault := none, refused := true }
      | .bytes bs t =>
        match (s.translate 0 f ctx b 1).1 with
        | .error .transit => { st := s, done, fault := none, refused := false }
        | .error (.fault x) => { st := s, done, fault := some x, refused := false }
        | .error (.need sfa) => { st := s.askSectors 0 f ctx (.pool sfa) 8, done, fault := none, refused := false }
        | .ok e =>
          if e.windowed 1 then
            let x : XlFault := { stage2 := true, level := 3, kind := kPerm, va := b, gpa := 0, access := 1 }
            { st := s, done, fault := some x, refused := false }
          else match e.loc with
            | .err _ | .window _ => { st := s, done, fault := none, refused := true }
            | _ => (t.locWrite 0 f (e.loc.add (b.toNat % 65536)) bs).copyRun f ctx src dst len (done + m) n

/-- The copy of a queue's command goes on; made and visible, the command retires (R101, R134). A function reset abandons
it (R107). -/
def State.copyGo (s : State) (f q slot : Nat) : State :=
  match (s.queue f q).cmds.find? (fun c => c.slot == slot) with
  | none => s
  | some c =>
    if c.kind != 3 || !c.started || (s.func f).flr || s.wholeStop f then s
    else
      let len := c.w4.toNat % 2 ^ 40
      let r := s.copyRun f c.ctx c.w2 c.w3 len c.done (len / 2048 + 4)
      let s := r.st.mapCmd f q slot (fun c => { c with done := r.done, park := none })
      match r.fault with
      | some x =>
        let k := s.parkNote f c.ctx (.copy f q slot) c.park x 0 0
        k.1.mapCmd f q slot (fun c => { c with park := some k.2 })
      | none =>
        if r.refused then s.retireCmd f q slot sXLATE
        else if r.done < len || s.publishing f then s
        else s.retireCmd f q slot sOK

def execNotifyStore (s : State) : Host.Outcome State Fault Refusal :=
  .next (s.notify s.inp.func s.inp.q s.inp.off s.inp.size s.inp.v)
def execQcfgWrite (s : State) : Host.Outcome State Fault Refusal := .next (s.qcfgWrite s.inp.func s.inp.q s.inp.v)
def execQerrHaltClear (s : State) : Host.Outcome State Fault Refusal := .next (s.qerrWrite s.inp.func s.inp.q s.inp.v)
/-- The firmware core that fetches for a queue serves it from then on (R114): one of the seven that run the scheduler
firmware, 1 to 7 (R112). -/
def State.serve (s : State) (fw f q : Nat) : State :=
  { s with serving := (fw, f, q) :: s.serving.filter (fun e => e.2 != (f, q)) }
def execCommandFetch (s : State) : Host.Outcome State Fault Refusal :=
  .next (if 1 ≤ s.inp.fw ∧ s.inp.fw ≤ 7 then (s.serve s.inp.fw s.inp.func s.inp.q).fetchCmd s.inp.func s.inp.q else s)
def execCopyCommand (s : State) : Host.Outcome State Fault Refusal := .next (s.copyCmd s.inp.func s.inp.q s.inp.slot)
def execMarkerCommand (s : State) : Host.Outcome State Fault Refusal := .next (s.markerCmd s.inp.func s.inp.q s.inp.slot)

end Sys2Proof.Machine
end

