-- ==== Sys2Proof/Machine/Launch.lean ====
section
/-! DEFINITION. Launch records and their checks (R171, R172), room on cores and placement (R174 to R178), the start
and end of teams and groups (R173, R174, R200), scrubs (R183), and the retirement of launches. -/

namespace Sys2Proof.Machine

/-! ## Launch records -/

/-- The fields of a record's 256 bytes (R171). -/
def recordOf (b : List Byte) : LaunchRec :=
  let n (o w : Nat) : Nat := atB b o w
  let fl := n 0x09 1
  { code := BitVec.ofNat 64 (n 0 8), ctx := n 8 1, prio := fl % 8, preempt := bitOf fl 3, coop := bitOf fl 4
    cx := n 0x0A 1, cy := n 0x0B 1, gx := n 0x0C 4, gy := n 0x10 4, gz := n 0x14 4, scratch := n 0x18 4, fbank := n 0x1C 1
    nbar := n 0x1D 1, nacc := n 0x1E 2, param := BitVec.ofNat 64 (n 0x20 8), cbook := BitVec.ofNat 64 (n 0x28 8)
    mode := BitVec.ofNat 64 (n 0x30 8)
    roles := (upto 4).map (fun i => { entry := BitVec.ofNat 32 (n (0x40 + 16 * i) 4), nreg := n (0x44 + 16 * i) 1, ngrp := n (0x45 + 16 * i) 1 }) }
/-- A reserved bit of a record is set: unnamed bytes, FLAGS bits 7:5 and the reserved bits of %mode (R276). -/
def recordReserved (b : List Byte) : Bool :=
  let zero (o n : Nat) : Bool := ((b.drop o).take n).all (· == 0)
  !(zero 0x38 8 && zero 0x80 128 && (upto 4).all (fun i => zero (0x46 + 16 * i) 10)) ||
  decide (32 ≤ atB b 9 1) || (BitVec.ofNat 64 (atB b 0x30 8) &&& ~~~modeMask) != 0
/-- Scratch banks of a team. -/
def LaunchRec.sb (r : LaunchRec) : Nat := (r.scratch + 16383) / 16384
/-- NREG of each group of a team, in the order of %grp. -/
def LaunchRec.nregs (r : LaunchRec) : List Nat := r.roles.flatMap (fun x => List.replicate x.ngrp x.nreg)
/-- The limits of R171 and R172 that need no partition. -/
def LaunchRec.ok (r : LaunchRec) : Bool :=
  r.code.toNat % 8 == 0 && r.cbook.toNat % 8 == 0 &&
  decide (1 ≤ r.cx) && decide (r.cx ≤ 12) && decide (1 ≤ r.cy) && decide (r.cy ≤ 12) && decide (r.cx * r.cy ≤ 12) &&
  decide (1 ≤ r.gx) && decide (1 ≤ r.gy) && decide (1 ≤ r.gz) && r.gx % r.cx == 0 && r.gy % r.cy == 0 &&
  decide (r.sb + r.fbank ≤ 31) && decide (r.nbar ≤ 64) && decide (r.nacc ≤ 256) &&
  r.roles.all (fun x => (x.nreg == 0 && x.ngrp == 0) || (x.nreg % 8 == 0 && decide (8 ≤ x.nreg) && decide (x.nreg ≤ 192))) &&
  decide (1 ≤ r.nregs.length) && decide (r.nregs.length ≤ 32)

/-! ## Room on a core (R174, R175) -/

/-- What a team asks of a core: its groups as slot, when fixed, and NREG; banks, tiles and barrier words. -/
structure Need where
  groups : List (Option Nat × Nat)
  banks : Nat
  tiles : Nat
  bars : Nat
/-- What is in use on a core. -/
structure Usage where
  teams : Nat := 0
  groups : List (Nat × Nat) := []
  banks : Nat := 0
  tiles : Nat := 0
  bars : Nat := 0
def LaunchRec.need (r : LaunchRec) : Need :=
  { groups := r.nregs.map (fun n => (none, n)), banks := r.sb + r.fbank, tiles := r.nacc, bars := r.nbar }
def SavedTeam.need (x : SavedTeam) : Need :=
  { groups := x.groups.map (fun e => (some (e.1 / 16), e.2.nreg)), banks := x.team.win.length + x.team.fifo.length
    tiles := x.team.tiles.length, bars := x.team.nbar }
/-- What is in use on a core once some teams have left it. -/
def State.usageBut (s : State) (gone : List (Nat × Nat)) (c : Nat) : Usage :=
  let here := s.teamsOf (fun c' _ => c' == c)
  let ts := (here.filter (fun x => !gone.contains x)).map (fun x => s.team x.1 x.2)
  let left := (here.filter gone.contains).map (fun x => let t := s.team x.1 x.2; t.win.length + t.fifo.length)
  { teams := ts.length
    groups := ((s.liveAt c).filter (fun e => !gone.contains (c, e.2.team))).map (fun e => (e.1 / 16, e.2.nreg))
    banks := ((s.core c).shut.filter (· != Shutter.cache)).length - left.foldl (· + ·) 0 +
      ((s.core c).flips.filter (fun x => !x.giveUp && !gone.contains (c, x.team))).length
    tiles := (ts.map (fun t => t.tiles.length)).foldl (· + ·) 0, bars := (ts.map (fun t => t.nbar)).foldl (· + ·) 0 }
def State.usage (s : State) (c : Nat) : Usage := s.usageBut [] c
/-- The groups of a team with their slots, b groups being resident. -/
def Need.slots (n : Need) (b : Nat) : List (Nat × Nat) :=
  n.groups.zipIdx.map (fun e => (e.1.1.getD ((b + e.2) % 4), e.1.2))
/-- The team fits beside what is in use. -/
def Usage.fits (u : Usage) (n : Need) : Bool :=
  let gs := u.groups ++ n.slots u.groups.length
  decide (u.teams < 8) && decide (gs.length ≤ 64) &&
  (upto 4).all (fun k =>
    let mine := gs.filter (fun e => e.1 == k)
    decide (mine.length ≤ 16) && decide (mine.foldl (fun (n : Nat) e => n + e.2) 0 ≤ 1024)) &&
  decide (u.banks + n.banks ≤ 31) && decide (u.tiles + n.tiles ≤ 256) && decide (u.bars + n.bars ≤ 64)
/-- Adding a team to what is in use. -/
def Usage.add (u : Usage) (n : Need) : Usage :=
  { teams := u.teams + 1, groups := u.groups ++ n.slots u.groups.length, banks := u.banks + n.banks
    tiles := u.tiles + n.tiles, bars := u.bars + n.bars }

/-! ## Cores of a function (R96, R176) -/

def coreAt (die row col : Nat) : Nat := die * 144 + row * 12 + col
def Rect.has (r : Rect) (c : Nat) : Bool :=
  r.die == coreDie c && decide (r.row ≤ coreRow c) && decide (coreRow c < r.row + r.rows) &&
  decide (r.col ≤ coreCol c) && decide (coreCol c < r.col + r.cols)
/-- A core belongs to a function; PF0's are those no VF holds. -/
def State.owns (s : State) (f c : Nat) : Bool :=
  if f == 0 then !(upto 64).any (fun g => g != 0 && (s.func g).rects.any (fun r => r.has c))
  else (s.func f).rects.any (fun r => r.has c)
def State.coresOf (s : State) (f : Nat) : List Nat := (upto 576).filter (s.owns f)
/-- The cores of a shape at an origin, by cluster position in row order, when the function may use it. -/
def State.shapeAt (s : State) (f o cx cy : Nat) : Option (List Nat) :=
  let r0 := coreRow o
  let c0 := coreCol o
  if 12 < r0 + cy || 12 < c0 + cx then none
  else
    let cs := (upto (cx * cy)).map (fun i => coreAt (coreDie o) (r0 + i / cx) (c0 + i % cx))
    if f == 0 then (if cs.all (s.owns 0) then some cs else none)
    else if (s.func f).rects.any (fun r => cs.all (fun c => r.has c)) then some cs else none
/-- A core may take a team of a context once some teams have left it: its teams are of that context, none is being
terminated, it is not to be scrubbed while one is left, and nothing stops on it and no scrub is in progress, unless
those are taken as done (R174, R183). -/
def State.openBut (s : State) (gone : List (Nat × Nat)) (stopped : Bool) (f ctx c : Nat) : Bool :=
  (stopped || (!(s.core c).stop && !(s.core c).scrub)) &&
  (s.teamsOf (fun c' t => c' == c && ((s.core c).toScrub || t.term || !(t.func == f && t.ctx == ctx)))).all gone.contains
/-- It must be scrubbed first (R183). -/
def State.needsScrub (s : State) (c f ctx : Nat) : Bool :=
  (s.core c).toScrub || (match (s.core c).lastCtx with | some k => k != (f, ctx) | none => false)
/-- The cores for a cluster's teams, each a cluster position and what it needs, first fit by origin; for one team the core
with the fewest groups (R176). A position with no team, in a cluster saved after that team had ended, asks only that the
core be the function's. -/
def State.findShape (s : State) (f cx cy : Nat) (needs : List (Nat × Need)) (use : Nat → Usage) (suits : Nat → Bool) : Option (List Nat) :=
  let ok (c : Nat) (n : Need) : Bool := suits c && (use c).fits n
  if cx * cy == 1 then
    let n := (needs.map Prod.snd).headD { groups := [], banks := 0, tiles := 0, bars := 0 }
    let cs := (s.coresOf f).filter (fun c => ok c n)
    (cs.foldl (fun (best : Option (Nat × Nat)) c =>
      let k := (use c).groups.length
      match best with
      | some (_, m) => if k < m then some (c, k) else best
      | none => some (c, k)) none).map (fun b => [b.1])
  else (upto 576).findSome? (fun o => match s.shapeAt f o cx cy with
    | some cs => if needs.all (fun e => ok (cs.getD e.1 o) e.2) then some (needs.map (fun e => cs.getD e.1 o)) else none
    | none => none)
/-- Cores for several clusters at once, each placed after the ones before; none where one has no place (R178). -/
def State.packAll (s : State) (f cx cy : Nat) (suits : Nat → Bool) : List (List (Nat × Need)) → (Nat → Usage) → Option (List (List Nat))
  | [], _ => some []
  | ns :: rest, use =>
    match s.findShape f cx cy ns use suits with
    | none => none
    | some cs =>
      let at_ (c : Nat) : Usage := match (cs.zip ns).find? (fun e => e.1 == c) with
        | some e => (use c).add e.2.2
        | none => use c
      (s.packAll f cx cy suits rest at_).map (fun l => cs :: l)

/-! ## Scrub (R183) -/

/-- A scrub begins: dirty lines written back, everything of the core zeroed, every bank cache way. -/
def State.beginScrub (s : State) (c : Nat) : State :=
  let s := s.l1Flush c true
  let x := s.core c
  s.setCore c { x with
    shut := List.replicate 32 .cache, scr := [], fifos := [], flips := [], bars := [], latch := {}, hist := [], book := []
    cbaddr := 0, acc := [], lastCtx := none, scrub := true, toScrub := false }
/-- The scrub is over. -/
def State.scrubDone (s : State) (c : Nat) : State :=
  if (s.core c).scrub && !s.evicting c then s.setCore c { s.core c with scrub := false } else s

/-! ## Codebook tables (R268, R269, R448) -/

/-- Patterns of k codes with a given sum of squares, in lexicographic order, the first code most significant. -/
def bookPatterns : Nat → Nat → List (List Nat)
  | 0, q => if q == 0 then [[]] else []
  | k + 1, q => (upto 4).flatMap (fun m => if m * m ≤ q then (bookPatterns k (q - m * m)).map (fun p => m :: p) else [])
def bookEntry (p : List Nat) : BitVec 16 := BitVec.ofNat 16 (p.foldr (fun m acc => m + 4 * acc) 0)
/-- The default table: even sums, by sum of squares. -/
def defaultBook : Tbl (BitVec 16) :=
  let ps := ([0, 2, 4, 6].flatMap (bookPatterns 8)).take 256
  ps.zipIdx.foldl (fun t e => tput 0 t e.2 (bookEntry e.1)) []
/-- A table from its 512 bytes. -/
def bookOf (b : List Byte) : Tbl (BitVec 16) :=
  (upto 256).foldl (fun t i => tput 0 t i (BitVec.ofNat 16 (atB b (2 * i) 2))) []

/-! ## Starting and ending teams -/

/-- The lowest free place of a team on a core. -/
def State.freeTeam (s : State) (c : Nat) : Nat := ((upto 8).find? (fun t => !(s.team c t).live)).getD 0
/-- The lowest cache ways of a core. -/
def Core.takeBanks (x : Core) (n : Nat) : List Nat := x.cacheWays.take n
/-- Tiles of a core no team holds. -/
def State.freeTiles (s : State) (c n : Nat) : List Nat :=
  let used := (s.teamsOf (fun c' _ => c' == c)).flatMap (fun x => (s.team x.1 x.2).tiles)
  ((upto 256).filter (fun t => !used.contains t)).take n
def setShut (l : List Shutter) (bs : List Nat) (v : Shutter) : List Shutter :=
  l.zipIdx.map (fun e => if bs.contains e.2 then v else e.1)
/-- Banks, tiles and a place taken for a team (R175, R216). -/
def State.seatTeam (s : State) (c : Nat) (t : Team) (wins fifos : List Nat) (tiles : Nat) : Nat × State :=
  let p := s.freeTeam c
  let x := s.core c
  let bs := x.takeBanks (wins.length + fifos.length)
  let wb := bs.take wins.length
  let fb := bs.drop wins.length
  let x := { x with
    shut := setShut (setShut x.shut wb .scratch) fb .fifo, fifos := fb.foldl (fun q b => tput {} q b {}) x.fifos
    lastCtx := some (t.func, t.ctx) }
  let t := { t with live := true, win := wins.zip wb, fifo := fifos.zip fb, tiles := s.freeTiles c tiles }
  (p, ((s.setCore c x).l1Trim c).setTeam c p t)
/-- A new team of a launch at a core, with its groups (R173, R175). -/
def State.startTeam (s : State) (l : Launch) (c origin placed index : Nat) : State :=
  let r := l.lrec
  let x := index % r.gx
  let y := index / r.gx % r.gy
  let z := index / (r.gx * r.gy)
  let b := (s.liveAt c).length
  let t : Team :=
    { launch := l.id, func := l.func, ctx := r.ctx, x, y, z, clu := y % r.cy * r.cx + x % r.cx, origin, cx := r.cx, cy := r.cy
      nbar := r.nbar, code := r.code, roles := r.roles, prio := r.prio, preempt := r.preempt, coop := r.coop, placed }
  let seat := s.seatTeam c t (upto r.sb) (upto r.fbank) r.nacc
  let s := seat.2
  let gs := (r.roles.zipIdx).flatMap (fun e => (upto e.1.ngrp).map (fun i => (e.2, i)))
  let s := gs.zipIdx.foldl (fun s e =>
    match s.freePlace c ((b + e.2) % 4) with
    | some p => s.newGroup c p seat.1 e.1.1 e.2 r.param (BitVec.ofNat 64 (e.1.2 + e.1.1 * 256)) r.mode
    | none => s) s
  { s with launches := s.launches.map (fun k => if k.id == l.id then { k with resident := k.resident ++ [(c, seat.1)] } else k) }

/-- A team leaves its core: its banks are cache way again, its barrier words leave the directory, its records go (R174,
R261). -/
def State.freeSeat (s : State) (c t : Nat) : State :=
  let tm := s.team c t
  let x := s.core c
  let bs := tm.win.map Prod.snd ++ tm.fifo.map Prod.snd ++ (x.flips.filter (fun f => f.team == t && f.giveUp)).map (fun f => f.bank)
  let x := { x with
    shut := setShut x.shut bs .cache, bars := x.bars.filter (fun e => e.2 != t)
    latch := if x.latch.team == t then {} else x.latch, flips := x.flips.filter (fun f => f.team != t) }
  let s := { s.setCore c x with sync := s.sync.filter (fun e => match e.2 with
    | some r => r.remote || !(r.core == c && r.team == t)
    | none => false) }
  let s := (s.placesOf c).foldl (fun s p => if (s.group c p).team == t then s.setGroup c p {} else s) s
  let s := s.setTeam c t {}
  { s with launches := s.launches.map (fun k => { k with resident := k.resident.filter (fun e => e != (c, t)) }) }

/-! ## Retirement of launches (R101, R174) -/

/-- Nothing of a launch is left to run. -/
def Launch.overAll (l : Launch) : Bool := decide (l.total ≤ l.next) && l.resident.isEmpty && l.saved.isEmpty
/-- A launch of a queue that is over and visible retires; one of a function under reset just ends. -/
def State.retireLaunch (s : State) (l : Launch) : State :=
  let drop (s : State) : State := { s with launches := s.launches.filter (fun k => k.id != l.id) }
  if !l.overAll then s
  else if (s.func l.func).flr then drop s
  else match l.owner with
  | .node _ _ => s
  | .queue f q slot =>
    let s := s.publish f
    if s.publishing f then s else (drop s).retireCmd f q slot l.status
def State.retireOver (s : State) : State := s.launches.foldl (fun s l => s.retireLaunch l) s
/-- A launch ends with a status before all its teams have run. -/
def State.abandon (s : State) (id : Nat) (status : Byte) : State :=
  { s with
    launches := s.launches.map (fun l => if l.id == id then { l with next := l.total, saved := [], status, unchecked := false, park := none } else l)
    savedTeams := s.savedTeams.filter (fun t => t.launch != id) }

/-! ## Group end (R200, R174, R207, R294) -/

/-- A group waiting to end has nothing left to wait for. -/
def State.canEnd (s : State) (c p : Nat) : Bool :=
  let g := s.group c p
  let co := s.core c
  g.live && g.acc.isEmpty && g.pend.isNone &&
  ((s.team c g.team).term || g.allExited) && g.ld == 0 && g.st == 0 && g.cp == 0 && g.tl == 0 &&
  !co.tq.any (fun o => o.gs == p) && !co.cte.any (fun e => match e.2 with | some d => d.gs == p | none => false)
/-- The retire record of R294. -/
def State.retireRecord (s : State) (c p : Nat) : State :=
  let g := s.group c p
  let tm := s.team c g.team
  if !s.right tm.func tm.ctx rTRACE then s
  else s.tbRecord tm.func tm.ctx 1 3 2
    ([s.teamIndex tm, g.grp, g.role] ++ (upto 8).map (fun i => (tget 0 g.stall i).toNat) ++ [g.bornClk.toNat, (s.core c).clk.toNat]) false
/-- A group ends; with its last group the team ends, and with its last team the launch. -/
def State.endGroup (s : State) (c p : Nat) : State :=
  if !s.canEnd c p then s
  else
    let t := (s.group c p).team
    let s := ((s.retireRecord c p).gangLeave c p).setGroup c p {}
    if (s.placesOf c).any (fun q => (s.group c q).team == t) then s
    else
      let s := s.freeSeat c t
      let s := if (s.core c).toScrub && (s.teamsOf (fun c' _ => c' == c)).isEmpty then s.beginScrub c else s
      s.retireOver

def execGroupEnd (s : State) : Host.Outcome State Fault Refusal := .next (s.endGroup s.inp.core s.inp.gs)
def execScrubComplete (s : State) : Host.Outcome State Fault Refusal := .next (s.scrubDone s.inp.core)

end Sys2Proof.Machine
end

