-- ==== Sys2Proof/Machine/Save.lean ====
section
/-! DEFINITION. Stopping, saving and restoring teams (R62, R181, R207 to R212): when a stopped team may be captured, its
saved record, and putting it back on a core. -/

namespace Sys2Proof.Machine

/-! ## When a stopped team is captured (R209, R210) -/

/-- The group of a core an owner of a request belongs to. -/
def State.ownerGroup (s : State) : TxnOwner → Option (Nat × Nat)
  | .lane c p _ _ | .desc c p _ => some (c, p)
  | .fill c p _ _ _ _ => if p < 64 then some (c, p) else none
  | .unit c d _ | .sig c d => (tget none (s.core c).cte d).map (fun x => (c, x.gs))
  | _ => none
/-- A request of a team lies on the stream. -/
def State.teamHas (s : State) (c t : Nat) (l : List (Packet × TxnOwner)) : Bool :=
  l.any (fun y => match s.ownerGroup y.2 with
    | some (c', p) => c' == c && (s.group c p).team == t
    | none => false)
/-- Every request of a team has its response but those kept by frozen streams (R62). -/
def State.answered (s : State) (c t : Nat) : Bool :=
  s.streams.all (fun x => !s.teamHas c t x.out && (x.freeze.isSome || !s.teamHas c t x.queue)) && !s.teamHas c t s.heldIds
/-- A group of a stopped team has nothing left that can be performed, and a fence only where it waits (R423). -/
def State.groupQuiet (s : State) (c p : Nat) : Bool :=
  let g := s.group c p
  g.cinv.isEmpty && g.acc.all (fun a => a.parts.all (fun x => x.sent || !s.laneFree c p a x)) &&
  (match g.pend with | some f => !g.fenceReady f | none => true)
def State.teamQuiet (s : State) (c t : Nat) : Bool :=
  let co := s.core c
  co.tq.isEmpty && !co.flips.any (fun f => f.team == t) && !s.evicting c && s.answered c t &&
  (s.liveAt c).all (fun e => e.2.team != t || s.groupQuiet c e.1) &&
  co.cte.all (fun e => match e.2 with
    | some d => (s.group c d.gs).team != t || (d.back.isEmpty && !d.sigBack)
    | none => true)

/-! ## Saving -/

/-- A bank of a team as its window number, and back. -/
def Team.winOf (t : Team) (b : Nat) : Option Nat := (t.win.find? (fun e => e.2 == b)).map Prod.fst
def Loc.mapBank (h : Nat → Option Nat) : Loc → Loc
  | .own b o => match h b with
    | some w => .own w o
    | none => .err 0x04
  | l => l
/-- The places of a group's outstanding accesses renamed. -/
def Group.mapBanks (g : Group) (h : Nat → Option Nat) : Group :=
  { g with acc := g.acc.map (fun a => { a with parts := a.parts.map (fun x => { x with loc := x.loc.mapBank h }) }) }
/-- Words of a bank of a core under another number. -/
def bankWords (t : Tbl SWord) (b w : Nat) : Tbl SWord :=
  (t.filter (fun e => e.1 / 4096 == b)).map (fun e => (w * 4096 + e.1 % 4096, e.2))
/-- The requests of frozen streams that belong to a group (R62). -/
def State.frozenOf (s : State) (c p : Nat) : List (Packet × TxnOwner) :=
  (s.streams.filter (fun x => x.freeze.isSome)).flatMap (fun x => x.queue.filter (fun y => s.ownerGroup y.2 == some (c, p)))
/-- The frozen streams those requests are of (R164, R168). -/
def State.strsOf (s : State) (c p : Nat) : List SavedStream :=
  (s.streams.filter (fun x => x.freeze.isSome && x.queue.any (fun y => s.ownerGroup y.2 == some (c, p)))).map (fun x =>
    { sid := x.sid, vdn := x.vdn, next := x.next, freeze := x.freeze })
/-- A group as its record keeps it: a query to the engine is made again, and a wait for a walk too. -/
def State.savedGroup (s : State) (c p : Nat) : Group :=
  let g := s.group c p
  { g.mapBanks (s.team c g.team).winOf with
    saved := s.frozenOf c p, strs := s.strsOf c p, held := none, miss := [], cstat := none, starve := 0, yieldClk := 0, causalClk := 0
    park := g.park.map (fun k => { k with active := false }) }
/-- The saved record of a team (R166, R167, R181). -/
def State.teamRecord (s : State) (c t id set : Nat) : SavedTeam :=
  let tm := s.team c t
  let co := s.core c
  let gs := sortBy (fun (e : Nat × Group) => e.2.age) ((s.liveAt c).filter (fun e => e.2.team == t))
  let mine (p : Nat) : Bool := (s.group c p).team == t
  let scr := tm.win.foldl (fun (a : Tbl SWord) w => (bankWords co.scr w.2 w.1).foldl (fun a e => tput {} a e.1 e.2) a) []
  let acc := tm.tiles.zipIdx.foldl (fun (a : Tbl W32) x =>
    (co.acc.filter (fun e => e.1 / 4096 == x.1)).foldl (fun a e => tput 0 a (x.2 * 4096 + e.1 % 4096) e.2) a) []
  { id, launch := tm.launch, set, team := { tm with stopping := false }, crow := tm.clu / max 1 tm.cx, ccol := tm.clu % max 1 tm.cx
    groups := gs.map (fun e => (e.1, s.savedGroup c e.1)), scr, acc
    fifos := tm.fifo.map (fun f => (f.1, co.fifo f.2))
    latch := if co.latch.team == t then co.latch else {}
    hist := co.hist, cbaddr := co.cbaddr
    cte := co.cte.filterMap (fun e => e.2.bind (fun d => if mine d.gs then some (e.1, d) else none))
    cancels := co.cancels.filter (fun x => mine x.gs), score := if s.wholeStop tm.func then some c else none, core := c }
/-- A captured team leaves its core, its engine descriptors and frozen requests with it. -/
def State.unseat (s : State) (c t : Nat) : State :=
  let mine (p : Nat) : Bool := (s.group c p).team == t
  let gone := s.liveAt c |>.filter (fun e => e.2.team == t)
  let keepReq (y : Packet × TxnOwner) : Bool := match s.ownerGroup y.2 with
    | some (c', p) => !(c' == c && mine p)
    | none => true
  let streams := s.streams.map (fun x => if x.freeze.isSome then { x with queue := x.queue.filter keepReq } else x)
  let co := s.core c
  let tx : Nat := gone.foldl (fun (n : Nat) e => e.2.acc.foldl (fun (n : Nat) a => n + a.entries) n) 0
  let co := { co with
    cte := co.cte.filter (fun e => match e.2 with | some d => !mine d.gs | none => false)
    cancels := co.cancels.filter (fun x => !mine x.gs), txUsed := co.txUsed - tx }
  ({ s with streams }.setCore c co).freeSeat c t
/-- The teams that stop as one with the first stopping team of a core. -/
def State.stopSet (s : State) (c : Nat) : List (Nat × Nat) :=
  match (s.teamsOf (fun c' t => c' == c && t.stopping && !t.term)).head? with
  | none => []
  | some x => s.fellows x.1 x.2
/-- Cores with no stop left go on. -/
def State.endStops (s : State) : State :=
  { s with cores := s.cores.map (fun e =>
      if e.2.stop && (s.teamsOf (fun c t => c == e.1 && t.stopping)).isEmpty then (e.1, { e.2 with stop := false }) else e) }
/-- A set of teams captured and saved as one. -/
def State.captureSet (s : State) (ts : List (Nat × Nat)) : State :=
  let set := s.nextSaved
  let recs := ts.zipIdx.map (fun e => s.teamRecord e.1.1 e.1.2 (set + e.2) set)
  let id := match recs with | r :: _ => r.launch | [] => 0
  let s := ts.foldl (fun s x => s.unseat x.1 x.2) s
  { s with
    savedTeams := s.savedTeams ++ recs, nextSaved := set + ts.length
    launches := s.launches.map (fun l => if l.id == id then { l with saved := l.saved ++ [set] } else l) }
/-- A core in whose stop every step before the capture is done captures the set that stops (R209, R210). -/
def State.coreStop (s : State) (c : Nat) : State :=
  match s.stopSet c with
  | [] => s.endStops
  | ts =>
    if ts.all (fun x => (s.team x.1 x.2).stopping && s.teamQuiet x.1 x.2) then (s.captureSet ts).endStops else s
/-- A stop is asked of teams: their cores stop issuing. -/
def State.stopTeams (s : State) (ts : List (Nat × Nat)) : State :=
  ts.foldl (fun s x =>
    (s.setTeam x.1 x.2 { s.team x.1 x.2 with stopping := true }).setCore x.1 { s.core x.1 with stop := true }) s

/-! ## Edits of groups (R293) -/

/-- One register written: a vector lane, a scalar, a mask, or %mode under the rule of R276. -/
def Group.applyEdit (g : Group) (e : Edit) : Group :=
  match e.kind.toNat with
  | 0 => if e.reg.toNat < g.nreg && e.lane.toNat < 32 then g.vput e.reg.toNat e.lane.toNat (lo32 e.val) else g
  | 1 => if e.reg.toNat < 64 then g.sput e.reg.toNat e.val else g
  | 2 => if e.reg.toNat < 8 then g.kput e.reg.toNat (lo32 e.val) else g
  | _ => if e.val &&& ~~~modeMask == 0 then { g with mode := e.val } else g

/-! ## Restoring (R211) -/

/-- A cancellation has its answer: CRESULT, the latch, and cp (R462). -/
def State.cancelDone (s : State) (c : Nat) (x : Cancel) (res : Byte) : State :=
  let g := s.group c x.gs
  let tm := s.team c g.team
  let index := s.teamIndex tm
  let s := s.engineWrite tm.func tm.ctx tm.launch index x.va (leBytes 8 res.toNat)
  let s := if noLatch x.latch then s else (s.arriveLatch c g.team (lo32 x.latch) none).getD s
  let g := s.group c x.gs
  (s.setGroup c x.gs { g with cp := g.cp - 1 }).setCore c { s.core c with cancels := (s.core c).cancels.filter (fun y => y != x) }
/-- A new place, descriptor or bank for an old one. -/
def renum (m : List (Nat × Nat)) (x : Nat) : Nat := ((m.find? (fun e => e.1 == x)).map Prod.snd).getD x
def TxnOwner.moved (o : TxnOwner) (c : Nat) (gs ds : List (Nat × Nat)) : TxnOwner :=
  match o with
  | .lane _ p a l => .lane c (renum gs p) a l
  | .fill _ p a l r x => .fill c (renum gs p) a l r x
  | .desc _ p n => .desc c (renum gs p) n
  | .unit _ d n => .unit c (renum ds d) n
  | .sig _ d => .sig c (renum ds d)
  | o => o
/-- An arrival of a restored latch: its place, and where its operands lie now. -/
def State.movedArrival (s : State) (c t : Nat) (gs : List (Nat × Nat)) (a : Arrival) : Arrival :=
  let at_ (r : W64 × W64) : List Loc := match mfmt (recFmt r.1) with
    | some m => (recAddrs m r.1 r.2).map (fun x => (s.scratchLoc c t x).getD (.err stRange))
    | none => []
  { a with gs := renum gs a.gs, apl := at_ a.arec, bpl := if a.bpl.isEmpty then [] else at_ a.brec }
/-- The saved streams of a restored group, where this device does not have them; each keeps its identity, while the group's
own at its new place differs (R164). -/
def State.readoptStreams (s : State) (g : Group) (c p t : Nat) : State :=
  g.strs.foldl (fun s x =>
    let own : StreamId := { x.sid with score := BitVec.ofNat 10 c, sgrp := BitVec.ofNat 6 p, steam := BitVec.ofNat 3 t }
    let s := if own == x.sid then s else { s with aliases := s.aliases ++ [(own, x.sid, x.vdn)] }
    if s.streams.any (fun y => y.sid == x.sid && y.vdn == x.vdn) then s
    else s.setStream { sid := x.sid, vdn := x.vdn, next := x.next, freeze := x.freeze }) s
/-- The requests a restored group brings go back to their streams in order (R62). -/
def State.requeue (s : State) (rs : List (Packet × TxnOwner)) : State :=
  rs.foldl (fun s r =>
    let x := s.stream r.1.sid (BitVec.ofNat 16 r.1.vdn)
    let x := { x with queue := x.queue ++ [r] }
    if x.freeze.isSome then s.setStream x else (s.setStream x).sendHeld x (x.queue.length)) s
/-- The barrier words of a bank, as its tags show them: the directory is rebuilt from these (R223, R232). -/
def barWords (t : Tbl SWord) (b : Nat) : List Nat :=
  (t.filter (fun e => e.1 / 4096 == b && e.1 % 2 == 0 && e.2.sp && !(tget {} t (e.1 + 1)).sp)).map Prod.fst
/-- A saved team put on a core (R211): banks and tiles are new, every field is as saved, its groups are created in the
order of their records, and its pending edits are made. -/
def State.seatSaved (s : State) (x : SavedTeam) (c origin placed : Nat) : State :=
  let seat := s.seatTeam c { x.team with origin, placed, stopping := false } (x.team.win.map Prod.fst) (x.team.fifo.map Prod.fst)
    x.team.tiles.length
  let t := seat.1
  let s := seat.2
  let tm := s.team c t
  let bank (w : Nat) : Option Nat := (tm.win.find? (fun e => e.1 == w)).map Prod.snd
  let gs := x.groups.foldl (fun (m : State × List (Nat × Nat)) e =>
    match m.1.freePlace c (e.1 / 16) with
    | some p =>
      let co := m.1.core c
      let g := e.2.edits.foldl Group.applyEdit (e.2.mapBanks bank)
      ((m.1.setCore c { co with nextAge := co.nextAge + 1 }).setGroup c p { g with
        live := true, team := t, age := co.nextAge, saved := [], strs := [], edits := [] }, m.2 ++ [(e.1, p)])
    | none => m) (s, [])
  let s := gs.1
  let co := s.core c
  let free := (upto 64).filter (fun d => (tget none co.cte d).isNone)
  let ds := (x.cte.zip free).map (fun e => (e.1.1, e.2))
  let scr := tm.win.foldl (fun (a : Tbl SWord) w => (bankWords x.scr w.1 w.2).foldl (fun a e => tput {} a e.1 e.2)
    (a.filter (fun e => e.1 / 4096 != w.2))) co.scr
  let acc := tm.tiles.zipIdx.foldl (fun (a : Tbl W32) y => (x.acc.filter (fun e => e.1 / 4096 == y.2)).foldl
    (fun a e => tput 0 a (y.1 * 4096 + e.1 % 4096) e.2) (a.filter (fun e => e.1 / 4096 != y.1))) co.acc
  let fifos := tm.fifo.foldl (fun (a : Tbl Fifo) f => tput {} a f.2 (((x.fifos.find? (fun e => e.1 == f.1)).map Prod.snd).getD {})) co.fifos
  let tx : Nat := x.groups.foldl (fun (n : Nat) e => e.2.acc.foldl (fun (n : Nat) a => n + a.entries) n) 0
  let co := { co with
    scr, acc, fifos, hist := x.hist, cbaddr := x.cbaddr, txUsed := co.txUsed + tx
    bars := co.bars ++ tm.win.flatMap (fun w => (barWords scr w.2).map (fun k => (k, t)))
    latch := if x.latch.arrivals.isEmpty then co.latch else
      { x.latch with team := t, arrivals := x.latch.arrivals.map (s.movedArrival c t gs.2) }
    cte := (x.cte.zip ds).foldl (fun q e => tput none q e.2.2 (some { e.1.2 with gs := renum gs.2 e.1.2.gs, book := co.booksDone })) co.cte
    cancels := co.cancels ++ x.cancels.map (fun k => { k with gs := renum gs.2 k.gs, res := none }) }
  let s := s.setCore c co
  let s := x.groups.foldl (fun s e => s.readoptStreams e.2 c (renum gs.2 e.1) t) s
  let s := s.requeue ((x.groups.flatMap (fun e => e.2.saved)).map (fun r => (r.1, r.2.moved c gs.2 ds)))
  let s := x.cancels.foldl (fun s k => match k.res with
    | some r => s.cancelDone c { k with gs := renum gs.2 k.gs, res := none } r
    | none => s) s
  let ls : List Launch := s.launches.map (fun l => if l.id == x.launch then { l with resident := l.resident ++ [(c, t)] } else l)
  let s := { s with
    launches := ls
    savedTeams := s.savedTeams.filter (fun y => y.id != x.id) }
  s.wake c

/-- A saved request fails with a status (R61, R62, R451). -/
def SavedTeam.failReq (x : SavedTeam) (p : Nat) (r : Packet × TxnOwner) (status : Byte) : SavedTeam :=
  let change (q : Nat) (h : Group → Group) : SavedTeam :=
    { x with groups := x.groups.map (fun e => if e.1 == q then (e.1, h e.2) else e) }
  let addr := r.1.daddr.toNat
  match r.2 with
  | .lane _ _ id l | .fill _ _ id l _ _ => change p (fun g =>
    let g := g.remoteFault status addr
    match g.acc.find? (fun a => a.id == id) with
    | none => g
    | some a =>
      let rest := a.parts.filter (fun y => y.lane != l)
      if rest.isEmpty then { g with acc := g.acc.filter (fun b => b.id != id) }.countDown a.op
      else { g with acc := g.acc.map (fun b => if b.id == id then { b with parts := rest, entries := entriesOf rest } else b) })
  | .desc _ _ n => change p (fun g => { g.remoteFault status addr with dread := g.dread.map (fun l => l ++ [(n, none)]) })
  | .unit _ d _ | .sig _ d =>
    match x.cte.find? (fun e => e.1 == d) with
    | none => x
    | some _ =>
      let y := change p (fun g => { g with cp := g.cp - 1
                                           impr := g.impr ++ [{ cause := cEngine, info := 3, addr := BitVec.ofNat 64 addr }] })
      { y with cte := y.cte.filter (fun e => e.1 != d) }
  | _ => x
/-- Every saved request of a stream fails, while its team is saved. -/
def SavedTeam.failStream (x : SavedTeam) (sid : StreamId) (vdn : BitVec 16) (status : Byte) : SavedTeam :=
  let hit (r : Packet × TxnOwner) : Bool := r.1.sid == sid && r.1.vdn == vdn.toNat
  let rs := x.groups.flatMap (fun e => (e.2.saved.filter hit).map (fun r => (e.1, r)))
  let x := { x with groups := x.groups.map (fun e => (e.1, { e.2 with saved := e.2.saved.filter (fun r => !hit r) })) }
  rs.foldl (fun x r => x.failReq r.1 r.2 status) x

def execCoreStop (s : State) : Host.Outcome State Fault Refusal := .next (s.coreStop s.inp.core)

end Sys2Proof.Machine
end

