-- ==== Sys2Proof/Machine/Place.lean ====
section
/-! DEFINITION. Starting launches (R171, R172) and the distributor: order, placement, holding and pre-emption (R176 to
R182). -/

namespace Sys2Proof

/-- What waits on a translation for a command or a node. -/
def CopyRef.target : CopyRef → XlTarget
  | .queue f q slot => .copy f q slot
  | .node r n => .node r n

namespace Machine

/-! ## Starting a launch (R122, R171, R172) -/

/-- How the start of a launch or a graph ends. -/
inductive Started where
  | ok (s : State)
  | fail (status : Byte) (s : State)
  | wait (s : State)
/-- Clusters of a grid. -/
def LaunchRec.clusters (r : LaunchRec) : Nat := r.gx / max 1 r.cx * (r.gy / max 1 r.cy) * r.gz
/-- The cores of a partition hold the launch: its cluster's shape, and its whole grid when it is cooperative. -/
def State.partitionOk (s : State) (f : Nat) (r : LaunchRec) : Bool :=
  let ns := (upto (r.cx * r.cy)).map (fun i => (i, r.need))
  (s.findShape f r.cx r.cy ns (fun _ => {}) (fun _ => true)).isSome &&
  (!r.coop || (decide (r.clusters * (r.cx * r.cy) ≤ 4608) &&
    (s.packAll f r.cx r.cy (fun _ => true) (List.replicate r.clusters ns) (fun _ => {})).isSome))
/-- A launch record at an address read and checked, and its launch made pending. -/
def State.launchFrom (s : State) (f ctx : Nat) (addr : W64) (owner : CopyRef) : Started :=
  match s.vaRead f ctx addr 256 with
  | .wait s => .wait s
  | .refused _ s => .fail sXLATE s
  | .fault k => if k.stage2 then .wait (s.toHasp owner.target k) else .fail sXLATE s
  | .bytes b s =>
    let r := recordOf b
    if recordReserved b then .fail sRESERVED s
    else if addr.toNat % 64 != 0 || !r.ok || !({} : Usage).fits r.need then .fail sREFUSED s
    else match s.bindCtx f r.ctx with
      | .error (.need sfa) => .wait (s.askSectors 0 f r.ctx (.pool sfa) 8)
      | .error .transit => .wait s
      | .error (.fault k) => .wait (s.toHasp owner.target k)
      | .ok (valid, s) =>
        let later := (s.coresOf f).isEmpty
        if !valid || (!later && !s.partitionOk f r) then .fail sREFUSED s
        else
          let l : Launch := { id := s.nextLaunch, func := f, owner, lrec := r, startMs := s.ms, total := r.clusters
                              resident := [], saved := [], unchecked := later }
          .ok { s with launches := s.launches ++ [l], nextLaunch := s.nextLaunch + 1 }
/-- A launch command starts, or retires at once (R101, R182). -/
def State.launchCmd (s : State) (f q slot : Nat) : State :=
  match s.startable f q slot 1 with
  | none => s
  | some c =>
    match s.launchFrom f c.ctx c.w2 (.queue f q slot) with
    | .wait s => s
    | .ok s' => (s'.startCmd f q slot).getD s
    | .fail st s' => ((s'.startCmd f q slot).map (fun s => s.retireCmd f q slot st)).getD s
/-- The checks of launches that started before their function had cores (R96, R172). -/
def State.checkLate (s : State) (f : Nat) : State :=
  if (s.coresOf f).isEmpty then s
  else
    let late := s.launches.filter (fun l => l.func == f && l.unchecked)
    (late.foldl (fun s l =>
      if s.partitionOk f l.lrec then
        { s with launches := s.launches.map (fun k => if k.id == l.id then { k with unchecked := false } else k) }
      else s.abandon l.id sREFUSED) s).retireOver

/-! ## Order (R177, R179, R180) -/

/-- A launch has teams to place. -/
def Launch.pending (l : Launch) : Bool := decide (l.next < l.total) || !l.saved.isEmpty
/-- The effective priority of a pending launch. -/
def State.effPrio (s : State) (l : Launch) : Nat :=
  if s.age == 0 then l.lrec.prio else min 7 (l.lrec.prio + (s.ms - l.startMs) / s.age)
/-- A launch of a function that has waited 16 × AGE ms and is not fully placed. -/
def State.waitsLong (s : State) (f : Nat) (l : Launch) : Bool :=
  l.func == f && l.pending && decide (16 * s.age ≤ s.ms - l.startMs)
/-- The launch that holds a function, until it is fully placed; with AGE 0 none does (R180, R182). -/
def State.holderOf (s : State) (f : Nat) : Option Launch :=
  if s.age == 0 then none
  else match (s.func f).holder.bind (fun id => s.launches.find? (fun l => l.id == id && l.pending)) with
  | some l => some l
  | none => (sortBy (fun l => l.id) (s.launches.filter (s.waitsLong f))).head?
/-- The pending launches of a function in the distributor's order. -/
def State.placeOrder (s : State) (f : Nat) : List Launch :=
  let fn := s.func f
  if fn.placeOff || fn.flr then []
  else
    let ls := s.launches.filter (fun l => l.func == f && l.pending && !l.unchecked)
    let ls := match s.holderOf f with
      | some h => ls.filter (fun l => decide (l.id ≤ h.id))
      | none => ls
    sortBy (fun l => 7 - s.effPrio l) (sortBy (fun l => l.id) ls)
/-- The earliest launch of a function that has waited 16 × AGE ms and is not fully placed holds it. -/
def State.launchHold (s : State) (f : Nat) : State :=
  s.setFunc f { s.func f with holder := (s.holderOf f).map (fun l => l.id) }

/-! ## What is placed next (R176 to R178) -/

/-- One team to place, by its cluster position: a new one by its grid index, or a saved one. -/
structure Piece where
  need : Need
  pos : Nat
  index : Nat
  saved : Option SavedTeam
/-- The grid indexes of the teams of a cluster, by cluster position in row order. -/
def LaunchRec.clusterTeams (r : LaunchRec) (k : Nat) : List Nat :=
  let w := r.gx / max 1 r.cx
  let h := r.gy / max 1 r.cy
  let x0 := k % w * r.cx
  let y0 := k / w % h * r.cy
  let z := k / (w * h)
  (upto (r.cx * r.cy)).map (fun i => x0 + i % r.cx + r.gx * (y0 + i / r.cx + r.gy * z))
def LaunchRec.cluster (r : LaunchRec) (k : Nat) : List Piece :=
  (r.clusterTeams k).zipIdx.map (fun e => { need := r.need, pos := e.2, index := e.1, saved := none })
/-- The clusters of a saved set, by the number their teams shared. -/
def savedClusters (ts : List SavedTeam) : List (List Piece) :=
  (distinct (ts.map (fun x => x.team.placed))).map (fun n =>
    (sortBy (fun (x : SavedTeam) => x.team.clu) (ts.filter (fun x => x.team.placed == n))).map (fun x =>
      { need := x.need, pos := x.team.clu, index := 0, saved := some x }))
/-- What a launch places next: a saved set first, then its next cluster, or its whole grid when it is cooperative. -/
def State.nextPieces (s : State) (l : Launch) : List (List Piece) :=
  match l.saved with
  | set :: _ => savedClusters (s.savedTeams.filter (fun x => x.set == set))
  | [] =>
    if l.lrec.coop then (upto (l.total - l.next)).map (fun i => l.lrec.cluster (l.next + i)) else [l.lrec.cluster l.next]
/-- The cores for a launch's next clusters once some teams are gone; stopped says that stops are taken as done. -/
def State.planBut (s : State) (gone : List (Nat × Nat)) (stopped : Bool) (l : Launch) : Option (List (List (Piece × Nat))) :=
  let ps := s.nextPieces l
  let suits := s.openBut gone stopped l.func l.lrec.ctx
  (s.packAll l.func l.lrec.cx l.lrec.cy suits (ps.map (fun c => c.map (fun p => (p.pos, p.need)))) (s.usageBut gone)).map
    (fun cs => (ps.zip cs).map (fun e => e.1.zip e.2))
def State.plan (s : State) (l : Launch) : Option (List (List (Piece × Nat))) := s.planBut [] false l
/-- The function has a launch the distributor can place now. -/
def State.canPlace (s : State) (f : Nat) : Bool := (s.placeOrder f).any (fun l => !(match l.park with | some k => k.active | none => false) && (s.plan l).isSome)

/-! ## Placing -/

/-- The codebook table a team needs: read, or what its launch waits for (R173, R448). -/
def State.bookFor (s : State) (l : Launch) (addr : W64) : Except State (Tbl (BitVec 16) × State) :=
  if addr == 0 then .ok (defaultBook, s)
  else match s.vaRead l.func l.lrec.ctx addr 512 with
  | .bytes b s => .ok (bookOf b, s)
  | .wait s => .error s
  | .refused _ s => .error ((s.abandon l.id sXLATE).retireOver)
  | .fault k =>
    let r := s.parkNote l.func l.lrec.ctx l.owner.target l.park k 0 0
    .error { r.1 with launches := r.1.launches.map (fun x => if x.id == l.id then { x with park := some r.2 } else x) }
/-- One team placed with its codebook table. -/
def State.placePiece (s : State) (l : Launch) (p : Piece) (c origin placed : Nat) (book : Tbl (BitVec 16)) : State :=
  let s := match p.saved with
    | some x => s.seatSaved x c origin placed
    | none => s.startTeam l c origin placed p.index
  let addr := match p.saved with | some x => x.cbaddr | none => l.lrec.cbook
  s.setCore c { s.core c with book, cbaddr := addr }
/-- The clusters of a plan placed, each under a number of its own. -/
def State.placeAll (s : State) (l : Launch) (plan : List (List (Piece × Nat))) (book : Tbl (BitVec 16)) : State :=
  let s := plan.foldl (fun s c =>
    let n := s.nextPlaced
    let origin (e : Piece × Nat) : Nat := e.2 - (e.1.pos / max 1 l.lrec.cx * 12 + e.1.pos % max 1 l.lrec.cx)
    c.foldl (fun s e => s.placePiece l e.1 e.2 (origin e) n book) { s with nextPlaced := n + 1 }) s
  let done (k : Launch) : Launch := match k.saved with
    | _ :: rest => { k with saved := rest, park := none }
    | [] => { k with next := k.next + plan.length, park := none }
  { s with launches := s.launches.map (fun k => if k.id == l.id then done k else k) }
/-- A plan carried out: cores that need one are scrubbed first, then the table is read and, once it is paid for, the teams
are placed (R173, R183); with the state, whether anything was placed. -/
def State.carryBy (s : State) (l : Launch) (plan : List (List (Piece × Nat))) (pay : State → Option State) : State × Bool :=
  let es := plan.flatten
  let dirty := es.filter (fun e => s.needsScrub e.2 l.func l.lrec.ctx)
  let awaited := (upto 576).any (fun c => (s.core c).scrub && s.owns l.func c) && (match s.planBut [] true l with
    | some p => p.flatten.any (fun e => (s.core e.2).scrub)
    | none => false)
  if !dirty.isEmpty then
    (if awaited then s else dirty.foldl (fun s e => if (s.core e.2).scrub then s else s.beginScrub e.2) s, false)
  else
    let addr := match es with
      | e :: _ => (match e.1.saved with | some x => x.cbaddr | none => l.lrec.cbook)
      | [] => 0
    match s.bookFor l addr with
    | .error s => (s, false)
    | .ok (book, s) => match pay s with
      | none => (s, false)
      | some s => (s.placeAll l plan book, true)
/-- A plan of the distributor's, one unit of service a team (R182). -/
def State.carryOut (s : State) (l : Launch) (plan : List (List (Piece × Nat))) : State × Bool :=
  s.carryBy l plan (fun s => s.charge l.func plan.flatten.length (fun g => s.works g || s.canPlace g))

/-! ## Pre-emption (R181) -/

/-- The victims of a launch, as whole clusters and grids in their order. -/
def State.victims (s : State) (l : Launch) : List (List (Nat × Nat)) :=
  let ts := s.teamsOf (fun _ t => t.func == l.func && t.preempt && decide (t.prio < l.lrec.prio) && !t.term && !t.stopping)
  let ts := sortBy (fun x => (s.team x.1 x.2).prio) (sortBy (fun x => s.nextPlaced - (s.team x.1 x.2).placed) ts)
  ts.foldl (fun (acc : List (List (Nat × Nat))) x =>
    if acc.any (fun u => u.contains x) then acc else acc ++ [s.fellows x.1 x.2]) []
/-- The shortest run of victims whose going lets the launch be placed. -/
def State.choose (s : State) (l : Launch) : List (Nat × Nat) → List (List (Nat × Nat)) → Option (List (Nat × Nat))
  | _, [] => none
  | gone, u :: us =>
    if (s.planBut (gone ++ u) true l).isSome then some (gone ++ u) else s.choose l (gone ++ u) us
/-- Teams that stop now. -/
def State.leaving (s : State) : List (Nat × Nat) := s.teamsOf (fun _ t => t.stopping)
/-- The launches in order: the first that can be placed is; one that cannot stops none after it, and one that would fit
without lower-priority teams has them stopped (R177, R181). -/
def State.placeFirst (s : State) : List Launch → State
  | [] => s
  | l :: ls =>
    match s.plan l with
    | some p => (match s.carryOut l p with
      | (s, true) => s
      | (s, false) => s.placeFirst ls)
    | none =>
      if (s.planBut s.leaving true l).isSome then s.placeFirst ls
      else match s.choose l s.leaving (s.victims l) with
        | some gone => s.stopTeams (gone.filter (fun x => !(s.team x.1 x.2).stopping))
        | none => s.placeFirst ls
def State.distribute (s : State) (f : Nat) : State := s.placeFirst (s.placeOrder f)

/-- A millisecond of the distributor (R182). -/
def State.ctimeTick (s : State) : State :=
  let cores (f : Nat) : Nat := (distinct ((s.teamsOf (fun _ t => t.func == f)).map Prod.fst)).length
  let s := { s with ms := s.ms + 1 }
  (upto 64).foldl (fun s f =>
    let n := cores f
    if n == 0 then s else s.setFunc f { s.func f with ctime := satInc (s.func f).ctime n }) s

def execLaunchCommand (s : State) : Host.Outcome State Fault Refusal := .next (s.launchCmd s.inp.func s.inp.q s.inp.slot)
def execLaunchHold (s : State) : Host.Outcome State Fault Refusal := .next (s.launchHold s.inp.func)
def execDisCtimeTick (s : State) : Host.Outcome State Fault Refusal := .next s.ctimeTick

end Machine

end Sys2Proof
end

