-- ==== Sys2Proof/Machine/Graph.lean ====
section
/-! DEFINITION. Launch graphs (R184 to R189): the table's nodes and checks, starts, arrivals and retirements, and the
completion of copies (R101, R134). -/

namespace Sys2Proof.Machine

/-! ## Nodes (R184) -/

/-- The fixed fields of a node. -/
structure GNode where
  kind : Nat
  nsa : Nat
  nsb : Nat
  npred : Nat
  nback : Nat
  arg0 : W64
  arg1 : Nat
  arg2 : Nat
  succ : List Nat
  reserved : Bool
  deriving DecidableEq, Repr
def nodeOf (b : List Byte) : GNode :=
  let kind := atB b 0 1
  let nsb := atB b 2 1
  let arg1 := atB b 0x10 8
  let arg2 := atB b 0x18 8
  { kind, nsa := atB b 1 1, nsb, npred := atB b 4 2, nback := atB b 6 2, arg0 := BitVec.ofNat 64 (atB b 8 8), arg1, arg2
    succ := (upto 12).map (fun i => atB b (0x20 + 2 * i) 2)
    reserved := atB b 3 1 != 0 || (nsb != 0 && kind != 4 && kind != 5) || (kind == 5 && (arg1 / 2 ^ 32 != 0 || arg2 / 2 ^ 32 != 0)) ||
      (kind == 2 && arg2 / 2 ^ 40 != 0) }
def GNode.setA (x : GNode) : List Nat := x.succ.take x.nsa
def GNode.setB (x : GNode) : List Nat := (x.succ.drop x.nsa).take x.nsb
def GNode.all (x : GNode) : List Nat := x.succ.take (x.nsa + x.nsb)
/-- The body of a while node: first node and count. -/
def GNode.body0 (x : GNode) : Nat := x.arg1 % 65536
def GNode.bodyN (x : GNode) : Nat := x.arg1 / 65536 % 65536
def GNode.inBody (x : GNode) (i : Nat) : Bool := x.kind == 5 && decide (x.body0 ≤ i) && decide (i < x.body0 + x.bodyN)
/-- STATE of a node. -/
structure GState where
  cnt : Nat
  iter : Nat := 0
  st : Nat := 0
  runarr : Bool := false
  deriving DecidableEq, Repr
def gstateOf (x : Nat) : GState := { cnt := bits x 0 16, iter := bits x 16 32, st := bits x 48 8, runarr := bitOf x 56 }
def GState.word (x : GState) : Nat := x.cnt % 2 ^ 16 + x.iter % 2 ^ 32 * 2 ^ 16 + x.st % 256 * 2 ^ 48 + (if x.runarr then 2 ^ 56 else 0)
def GState.retired (x : GState) : Bool := x.st == 2 || x.st == 3 || x.st == 4

/-! ## Checks (R185) -/

/-- The innermost while node whose body holds a node. -/
def whileOf (ns : List GNode) (i : Nat) : Option Nat :=
  ((upto i).reverse).find? (fun w => match ns[w]? with | some x => x.inBody i | none => false)
/-- An edge from a body node back to its while node. -/
def backEdge (ns : List GNode) (i j : Nat) : Bool := whileOf ns i == some j
/-- Edges that name a node, back edges or the others. -/
def edgesTo (ns : List GNode) (j : Nat) (back : Bool) : Nat :=
  (ns.zipIdx.map (fun e => (e.1.all.filter (fun k => k == j && backEdge ns e.2 j == back)).length)).foldl (· + ·) 0
/-- Two bodies overlap and neither lies in the other. -/
def bodiesCross (a b : GNode) : Bool :=
  let a1 := a.body0 + a.bodyN
  let b1 := b.body0 + b.bodyN
  decide (a.body0 < b1) && decide (b.body0 < a1) &&
  !(decide (a.body0 ≤ b.body0) && decide (b1 ≤ a1)) && !(decide (b.body0 ≤ a.body0) && decide (a1 ≤ b1))
/-- What is wrong with one node. -/
def nodeBad (ns : List GNode) (i : Nat) (x : GNode) : Bool :=
  x.kind == 0 || decide (5 < x.kind) || decide (12 < x.nsa + x.nsb) ||
  x.all.any (fun j => decide (ns.length ≤ j) || (decide (j ≤ i) && !backEdge ns i j)) ||
  x.npred != edgesTo ns i false || x.nback != edgesTo ns i true ||
  (x.kind == 5 && (x.body0 != i + 1 || decide (ns.length < x.body0 + x.bodyN) || x.setA.any (fun j => !x.inBody j) ||
    x.setB.any (fun j => x.inBody j) ||
    ns.zipIdx.any (fun e => e.1.kind == 5 && e.2 != i && bodiesCross x e.1))) ||
  (match whileOf ns i with
    | some w => (match ns[w]? with
      | some b => x.all.any (fun j => !b.inBody j && j != w)
      | none => false)
    | none => false)
/-- The status a table's graph retires with, where it does not start. -/
def tableBad (ns : List GNode) : Option Byte :=
  if ns.any (fun x => x.reserved) then some sRESERVED
  else if ns.zipIdx.any (fun e => nodeBad ns e.2 e.1) then some sREFUSED
  else none

/-! ## The table in memory -/

/-- How reading a graph's table ends: its bytes, with the state once they are used; what the firmware waits for; or
nothing, where stage 1 no longer maps it with RD and W (R184). -/
inductive TableRead (α : Type) where
  | got (x : α) (s : State)
  | wait (s : State)
  | broken (s : State)
def TableRead.map {α β : Type} (h : α → β) : TableRead α → TableRead β
  | .got x s => .got (h x) s
  | .wait s => .wait s
  | .broken s => .broken s
/-- The first page of a range of a table that cannot be written, and how. -/
def State.tableLocked (s : State) (g : Graph) (va : W64) (n : Nat) : Option XlStop :=
  (upto (n / 65536 + 2)).findSome? (fun i =>
    let a := if i == 0 then va else BitVec.ofNat 64 ((va.toNat / 65536 + i) * 65536)
    if va.toNat + n ≤ a.toNat then none
    else match (s.translate 0 g.func g.ctx a 1).1 with
      | .error e => some e
      | .ok _ => none)
/-- Bytes of n nodes of a graph's table from node i on. -/
def State.tableBytes (s : State) (g : Graph) (i n : Nat) : TableRead (List Byte) :=
  let va := g.addr + BitVec.ofNat 64 (64 * i)
  match s.tableLocked g va (64 * n) with
  | some (.need sfa) => .wait (s.askSectors 0 g.func g.ctx (.pool sfa) 8)
  | some .transit => .wait s
  | some (.fault k) => if k.stage2 then .wait (s.toHasp (.copy g.func g.q g.slot) k) else .broken s
  | none => match s.vaRead g.func g.ctx va (64 * n) with
    | .bytes b t => .got b t
    | .wait s => .wait s
    | .refused _ s => .broken s
    | .fault k => if k.stage2 then .wait (s.toHasp (.copy g.func g.q g.slot) k) else .broken s
def nodeAt (b : List Byte) (i : Nat) : GNode × GState :=
  let x := (b.drop (64 * i)).take 64
  (nodeOf x, gstateOf (atB x 0x38 8))
def State.graphNode (s : State) (g : Graph) (i : Nat) : TableRead (GNode × GState) := (s.tableBytes g i 1).map (fun b => nodeAt b 0)
/-- The first n nodes of a table. -/
def State.graphNodes (s : State) (g : Graph) (n : Nat) : TableRead (List (GNode × GState)) :=
  (s.tableBytes g 0 n).map (fun b => (upto n).map (nodeAt b))
/-- A node's STATE written, or owed while its page is in a window or its table has to be fetched (R136). -/
def State.putState (s : State) (g : Graph) (i : Nat) (x : GState) : State :=
  s.cmdPut (.copy g.func g.q g.slot) g.func g.ctx (g.addr + BitVec.ofNat 64 (64 * i + 0x38)) (leBytes 8 x.word)
def State.setGraph (s : State) (g : Graph) : State :=
  { s with graphs := s.graphs.map (fun x => if x.id == g.id then g else x) }
/-- A graph command starts, or retires at once (R185, R186). -/
def State.graphCmd (s : State) (f q slot : Nat) : State :=
  match s.startable f q slot 2 with
  | none => s
  | some c =>
    let n := c.w3.toNat % 65536
    let g : Graph := { id := s.nextLaunch, func := f, q, slot, addr := c.w2, ctx := c.ctx, n }
    let start (s : State) (k : State → State) : State := match s.startCmd f q slot with
      | some s => k s
      | none => s
    if n == 0 || decide (4096 < n) || c.w2.toNat % 64 != 0 then start s (fun s => s.retireCmd f q slot sREFUSED)
    else match s.graphNodes g n with
      | .wait e => e
      | .broken s => start s (fun s => s.retireCmd f q slot sXLATE)
      | .got l s =>
        let ns := l.map Prod.fst
        match tableBad ns with
        | some st => start s (fun s => s.retireCmd f q slot st)
        | none => start s (fun s =>
            let s := ns.zipIdx.foldl (fun s e => s.putState g e.2 { cnt := e.1.npred }) s
            let first := (ns.zipIdx.filter (fun e => e.1.npred == 0)).map (fun e => GAct.start e.2)
            { s with graphs := s.graphs ++ [{ g with todo := first }], nextLaunch := s.nextLaunch + 1 })

/-! ## Running (R186 to R189) -/

/-- Arrivals of one kind at nodes. -/
def arrivals (run : Bool) (l : List Nat) : List GAct := l.map (fun j => GAct.arrive j run)
/-- What an action leaves: the graph, with it done or still to do. -/
structure GStep where
  st : State
  g : Graph
  done : Bool
/-- Doing an action with more to follow it. -/
def gNext (s : State) (g : Graph) (more : List GAct) : GStep := { st := s, g := { g with todo := g.todo ++ more }, done := true }
def gWait (s : State) (g : Graph) : GStep := { st := s, g, done := false }
def gFail (s : State) (g : Graph) (i : Nat) (x : GState) (status : Byte) : GStep :=
  { st := s.putState g i { x with st := 4 }, g := { g with failed := g.failed ++ [(i, status)] }, done := true }
/-- A table that can no longer be reached fails the node (R189). -/
def gBroken (s : State) (g : Graph) (i : Nat) : GStep := { st := s, g := { g with failed := g.failed ++ [(i, sXLATE)] }, done := true }
/-- A condition word read with system-scope acquire (R187). -/
def State.condWord (s : State) (g : Graph) (a : W64) : TableRead Bool :=
  match s.vaRead g.func g.ctx a 4 with
  | .bytes b t => .got (leNat b != 0) t
  | .wait s => .wait s
  | .refused _ s => .broken s
  | .fault k => if k.stage2 then .wait (s.toHasp (.copy g.func g.q g.slot) k) else .broken s
def GAct.node : GAct → Nat
  | .start i | .arrive i _ | .retire i _ => i
/-- The nodes of a while's body. -/
def GNode.body (x : GNode) : List Nat := (upto x.bodyN).map (fun k => x.body0 + k)
/-- A while node decides, once nothing of its body is running or has still to be done, and after its first iteration has
begun, every node of it has retired (R188). Its body nodes with no predecessor start with each iteration. -/
def State.whileStart (s : State) (g : Graph) (i : Nat) (x : GNode) (y : GState) : GStep :=
  match s.graphNodes g g.n with
  | .wait e => gWait e g
  | .broken s => gBroken s g i
  | .got l s' =>
    let at_ (j : Nat) : GNode × GState := l.getD j (x, y)
    if g.todo.any (fun a => x.body.contains a.node) || x.body.any (fun j => (at_ j).2.st == 1) ||
        (y.iter != 0 && !x.body.all (fun j => (at_ j).2.retired)) then gWait s g
    else match s'.condWord g x.arg0 with
      | .wait e => gWait e g
      | .broken s => gFail s g i y sXLATE
      | .got c s =>
        let lim := x.arg2 % 2 ^ 32
        if c && (lim == 0 || decide (y.iter < lim)) then
          let s := x.body.foldl (fun s j => s.putState g j { cnt := (at_ j).1.npred }) s
          let s := s.putState g i { cnt := x.nback, iter := y.iter + 1, st := 1 }
          gNext s g (arrivals true x.setA ++ (x.body.filter (fun j => (at_ j).1.npred == 0)).map GAct.start ++
            (if x.nback == 0 then [.start i] else []))
        else
          let s := x.body.foldl (fun s j => if (at_ j).2.st == 0 then s.putState g j { (at_ j).2 with st := 3 } else s) s
          gNext (s.putState g i { y with st := 2 }) g (arrivals true x.setB)
/-- A node starts (R186 to R189). -/
def State.nodeStart (s : State) (g : Graph) (i : Nat) : GStep :=
  if !g.failed.isEmpty then gNext s g []
  else match s.graphNode g i with
  | .wait e => gWait e g
  | .broken s => gBroken s g i
  | .got (x, y) s =>
    match x.kind with
    | 1 => match s.launchFrom g.func g.ctx x.arg0 (.node g.id i) with
      | .ok s => gNext (s.putState g i { y with st := 1 }) g []
      | .fail st s => gFail s g i y st
      | .wait s => gWait s g
    | 2 => { st := s.putState g i { y with st := 1 }, g := { g with copies := g.copies ++ [(i, 0, none)] }, done := true }
    | 3 => match s.vaRead g.func g.ctx x.arg0 64 with
      | .wait s => gWait s g
      | .refused _ s => gFail s g i y sXLATE
      | .fault k => if k.stage2 then gWait (s.toHasp (.copy g.func g.q g.slot) k) g else gFail s g i y sXLATE
      | .bytes b s =>
        let r := rawDesc ((upto 8).map (fun w => BitVec.ofNat 64 (atB b (8 * w) 8))) x.arg0 g.ctx 0 0
        let s := s.engineWrite g.func g.ctx 0 0 (x.arg0 + 0x30) (statusBytes 0 none)
        match s.register g.func r true with
        | (s, none) => gNext (s.putState g i { y with st := 1 }) g [.retire i 2]
        | (s, some _) => gFail s g i y sREFUSED
    | 4 => match s.condWord g x.arg0 with
      | .wait e => gWait e g
      | .broken s => gFail s g i y sXLATE
      | .got c s =>
        gNext (s.putState g i { y with st := 2 }) g
          (arrivals true (if c then x.setA else x.setB) ++ (if c then x.setB else x.setA).map (fun j => GAct.retire j 3))
    | _ => s.whileStart g i x y
/-- An arrival at a node (R186). -/
def State.nodeArrive (s : State) (g : Graph) (i : Nat) (run : Bool) : GStep :=
  match s.graphNode g i with
  | .wait e => gWait e g
  | .broken s => gBroken s g i
  | .got (x, y) s =>
    if y.retired || y.cnt == 0 then gNext s g []
    else
      let y := { y with cnt := y.cnt - 1, runarr := y.runarr || run }
      gNext (s.putState g i y) g (if y.cnt != 0 then [] else if y.runarr || x.npred == 0 then [.start i] else [.retire i 3])
/-- A node retires (R186, R188). -/
def State.nodeRetire (s : State) (g : Graph) (i st : Nat) : GStep :=
  match s.graphNode g i with
  | .wait e => gWait e g
  | .broken s => gBroken s g i
  | .got (x, y) s =>
    if y.retired then gNext s g []
    else if x.kind == 5 && st == 3 then
      match s.graphNodes g g.n with
      | .wait e => gWait e g
      | .broken s => gBroken s g i
      | .got l s =>
        let s := x.body.foldl (fun s j => match l[j]? with
          | some z => s.putState g j { z.2 with st := 3 }
          | none => s) s
        gNext (s.putState g i { y with st }) g (arrivals false x.setB)
    else gNext (s.putState g i { y with st }) g (arrivals (st == 2) x.all)
def State.graphAct (s : State) (g : Graph) : GAct → GStep
  | .start i => s.nodeStart g i
  | .arrive i run => s.nodeArrive g i run
  | .retire i st => s.nodeRetire g i st
/-- A finished launch of a graph's node. -/
def State.nodeOver (s : State) (g : Graph) : Option (Launch × Nat) :=
  s.launches.findSome? (fun l => match l.owner with
    | .node r i => if r == g.id && l.overAll then some (l, i) else none
    | .queue _ _ _ => none)
/-- A node of a graph runs: a launch or a copy. -/
def State.graphRuns (s : State) (g : Graph) : Bool :=
  !g.copies.isEmpty || s.launches.any (fun l => match l.owner with | .node r _ => r == g.id | _ => false)
/-- A graph with nothing to do and nothing running retires its command when every node has retired, or one has failed
(R189). -/
def State.graphEnd (s : State) (g : Graph) : State :=
  let finish (s : State) : State :=
    let s := s.publish g.func
    if s.publishing g.func then s
    else
      let status := match sortBy (fun e => e.1) g.failed with | e :: _ => e.2 | [] => sOK
      { s with graphs := s.graphs.filter (fun x => x.id != g.id) }.retireCmd g.func g.q g.slot status
  if s.graphRuns g then s
  else if !g.failed.isEmpty then finish s
  else match s.graphNodes g g.n with
  | .wait e => e
  | .broken s => s.setGraph (gBroken s g 0).g
  | .got l s => if l.all (fun x => x.2.retired) then finish s else s
/-- The firmware carries a graph on by one action: one that has to wait goes behind the others, and none is done while a
STATE of the function's is owed. -/
def State.graphGo (s : State) (run : Nat) : State :=
  match s.graphs.find? (fun g => g.id == run) with
  | none => s
  | some g =>
    if s.owed.any (fun o => o.func == g.func) || s.wholeStop g.func then s
    else match s.nodeOver g with
    | some (l, i) =>
      let s := s.publish g.func
      if s.publishing g.func then s
      else
        let s := { s with launches := s.launches.filter (fun k => k.id != l.id) }
        if l.status == sOK then s.setGraph { g with todo := g.todo ++ [.retire i 2] }
        else match s.graphNode g i with
          | .wait e => { e with launches := l :: e.launches }
          | .broken s => s.setGraph { g with failed := g.failed ++ [(i, l.status)] }
          | .got (_, y) s => let r := gFail s g i y l.status; r.st.setGraph r.g
    | none =>
      match g.todo with
      | [] => s.graphEnd g
      | a :: rest =>
        let r := s.graphAct { g with todo := rest } a
        r.st.setGraph (if r.done then r.g else { g with todo := rest ++ [a] })

/-! ## Copies (R101, R134) -/

/-- A copy node goes on. -/
def State.nodeCopy (s : State) (run i : Nat) : State :=
  match s.graphs.find? (fun g => g.id == run) with
  | none => s
  | some g =>
    match g.copies.find? (fun e => e.1 == i) with
    | none => s
    | some (_, done, park) =>
      if (s.func g.func).flr || s.wholeStop g.func then s else
      match s.graphNode g i with
      | .wait e => e
      | .broken s =>
        let z := gBroken s { g with copies := g.copies.filter (fun e => e.1 != i) } i
        z.st.setGraph z.g
      | .got (x, y) s =>
        let len := x.arg2 % 2 ^ 40
        let r := s.copyRun g.func g.ctx x.arg0 (BitVec.ofNat 64 x.arg1) len done (len / 2048 + 4)
        let set (s : State) (d : Nat) (k : Option Park) : State :=
          s.setGraph { g with copies := g.copies.map (fun e => if e.1 == i then (i, d, k) else e) }
        let without : Graph := { g with copies := g.copies.filter (fun e => e.1 != i) }
        match r.fault with
        | some k => let p := r.st.parkNote g.func g.ctx (.node run i) park k 0 0; set p.1 r.done (some p.2)
        | none =>
          if r.refused then let z := gFail r.st without i y sXLATE; z.st.setGraph z.g
          else if r.done < len then set r.st r.done none
          else
            let s := r.st.publish g.func
            if s.publishing g.func then set s r.done none
            else s.setGraph { without with todo := g.todo ++ [.retire i 2] }
def State.copyDone (s : State) : CopyRef → State
  | .queue f q slot => (s.publish f).copyGo f q slot
  | .node r i => s.nodeCopy r i

def execGraphCommand (s : State) : Host.Outcome State Fault Refusal := .next (s.graphCmd s.inp.func s.inp.q s.inp.slot)
def execGraphNodeRetire (s : State) : Host.Outcome State Fault Refusal := .next (s.graphGo s.inp.run)
def execCopyCommandComplete (s : State) : Host.Outcome State Fault Refusal := .next (s.copyDone s.inp.copy)

end Sys2Proof.Machine
end

