-- ==== Sys2Proof/Machine/Xlate.lean ====
section
/-! DEFINITION. Walks, parked accesses and what ends them (R124 to R134), invalidation (R128, R129), moves between tiers
(R135), and errors found in memory (R142, R145). -/

namespace Sys2Proof.Machine

/-! ## Walks (R125, R126, R131) -/

/-- A group stops waiting for the walk of a page. -/
def Group.unmiss (g : Group) (page access : Nat) : Group :=
  { g with miss := g.miss.filter (fun m => !(m.1 / 65536 == page && m.2 == access)) }
/-- A group's access to a page does not translate: the trap of a context that is not valid is due at once; otherwise
the group parks, with a record for a page of stage 1 it has none for, or a report to Hasp (R122, R131, R133). -/
def State.parkGroup (s : State) (c p : Nat) (x : XlFault) : State :=
  let g := s.group c p
  let tm := s.team c g.team
  if !x.stage2 && x.level == 0 then
    s.setGroup c p { g with park := some { flt := x, active := false, recs := [], expired := true } }
  else
    let r := s.parkNote tm.func tm.ctx (.group c p) g.park x c p
    r.1.setGroup c p { r.1.group c p with park := some r.2 }
/-- The groups of a die that wait for a page, whatever the access: core, place, the sector each needs, and the access. -/
def State.waitingFor (s : State) (d : Nat) (w : Walk) : List (Nat × Nat × Nat × Nat) :=
  (s.groups.filter (fun e => e.2.live && coreDie (e.1 / 64) == d)).flatMap (fun e =>
    let tm := s.team (e.1 / 64) e.2.team
    if tm.func == w.func && tm.ctx == w.ctx then
      (e.2.miss.filter (fun m => m.1 / 65536 == w.page)).map (fun m => (e.1 / 64, e.1 % 64, m.1, m.2))
    else [])
/-- A page's walk has ended in an entry for some that asked: it goes to the die's TLB and to their cores. -/
def State.fillTlb (s : State) (d : Nat) (ws : List (Nat × Nat × Nat × Nat)) (e : TlbEntry) : State :=
  let s := s.l2tlbPut d e
  let s := (distinct (ws.map (fun x => x.1))).foldl (fun s c =>
    s.setCore c { s.core c with tlb := (e :: (s.core c).tlb.filter (· != e)).take 64 }) s
  ws.foldl (fun s x => s.setGroup x.1 x.2.1 ((s.group x.1 x.2.1).unmiss (x.2.2.1 / 65536) x.2.2.2)) s
/-- What a walk gives those that wait for its page with one access: an entry, or a fault they park with. -/
def State.walkFor (s : State) (d : Nat) (w : Walk) (access : Nat) : State :=
  let ws := (s.waitingFor d w).filter (fun x => x.2.2.2 == access)
  let park (s : State) (x : XlFault) : State :=
    ws.foldl (fun s y =>
      let s := s.setGroup y.1 y.2.1 ((s.group y.1 y.2.1).unmiss w.page access)
      s.parkGroup y.1 y.2.1 { x with va := BitVec.ofNat 64 y.2.2.1 }) s
  let va : W64 := BitVec.ofNat 64 (w.page * 65536)
  let r := s.translate d w.func w.ctx va access
  match r.1 with
  | .ok e =>
    let s := s.keepWalk d w.func r.2 (some e)
    if e.windowed access then
      park s { stage2 := true, level := 3, kind := kPerm, va, gpa := BitVec.ofNat 64 (e.gpage * 65536), access }
    else s.fillTlb d ws e
  | .error (.fault x) => park (s.keepWalk d w.func r.2 none) x
  | .error _ => s
/-- One pending walk is done: those that joined it go on, or park. It goes on itself while a table's sector has to be
fetched, or its page is in transit (R123). -/
def State.endWalk (s : State) (d : Nat) (w : Walk) : State :=
  let va : W64 := BitVec.ofNat 64 (w.page * 65536)
  let as := distinct (w.access :: (s.waitingFor d w).map (fun x => x.2.2.2))
  let stop := as.findSome? (fun a => match (s.translate d w.func w.ctx va a) with
    | (.error (.need sfa), reads) => some (some (sfa, reads))
    | (.error .transit, _) => some none
    | _ => none)
  match stop with
  | some (some (sfa, reads)) => (s.keepWalk d w.func reads none).askSectors (d * 144) w.func w.ctx (.pool sfa) 8
  | some none => s
  | none =>
    let s := as.foldl (fun s a => s.walkFor d w a) s
    let s := { s with walks := tput [] s.walks d ((tget [] s.walks d).filter (fun y => y != w)) }
    { s with cores := s.cores.map (fun e => if coreDie e.1 == d then
        (e.1, { e.2 with missq := e.2.missq.filter (fun q => q != (w.func, w.ctx, w.page)) }) else e) }
/-- The k-th pending walk of a die ends; one in a 512 MiB page ends every walk inside it (R126). -/
def State.walkDone (s : State) (d k : Nat) : State :=
  match (tget [] s.walks d)[k]? with
  | none => s
  | some w =>
    if 256 ≤ k then s
    else match (s.translate d w.func w.ctx (BitVec.ofNat 64 (w.page * 65536)) w.access).1 with
      | .ok e =>
        if e.big then
          ((tget [] s.walks d).filter (fun y => y.func == w.func && y.ctx == w.ctx && y.page / 8192 == w.page / 8192)).foldl
            (fun s y => s.endWalk d y) s
        else s.endWalk d w
      | .error _ => s.endWalk d w

/-! ## Parked accesses (R131, R133, R134) -/

/-- A parked group tries again. -/
def State.parkedRetry (s : State) (c p : Nat) : State :=
  let g := s.group c p
  s.setGroup c p { g with park := g.park.map (fun k => { k with active := false }) }
/-- The context sets a limit (R122). -/
def State.hasLimit (s : State) (f ctx : Nat) : Bool :=
  match s.ctxWord 0 f ctx 2 0 with
  | .ok w => w % 65536 != 0
  | .error _ => false
/-- A stage-1 fault is parked here. -/
def stage1Parked (k : Option Park) : Bool := match k with | some x => !x.flt.stage2 | none => false
/-- A launch ends with a status, its teams terminated (R133). -/
def State.killLaunch (s : State) (id : Nat) (status : Byte) : State :=
  let ts := s.teamsOf (fun _ t => t.launch == id)
  ((ts.foldl (fun s x => s.termTeam x.1 x.2) s).abandon id status).retireOver
/-- The launch of a command or node. -/
def State.launchBy (s : State) (o : CopyRef) : Option Launch := s.launches.find? (fun l => l.owner == o)
/-- A copy node, or its graph's table, fails. -/
def State.failNode (s : State) (r i : Nat) (status : Byte) : State :=
  match s.graphs.find? (fun g => g.id == r) with
  | none => s
  | some g => match s.graphNode g i with
    | .wait e => e
    | .broken s => s.setGraph { g with copies := g.copies.filter (fun e => e.1 != i), failed := g.failed ++ [(i, status)] }
    | .got (_, y) s =>
      let z := gFail s { g with copies := g.copies.filter (fun e => e.1 != i) } i y status
      z.st.setGraph z.g
/-- A parked access of a collective's data phase fails, on its SRC or its DST (R461). -/
def KeyEnt.parkFails (k : KeyEnt) : KeyEnt :=
  let rd := match k.park with | some x => x.flt.access == 0 | none => true
  { k with park := none, srcFail := k.srcFail || rd, dstFail := k.dstFail || !rd }
/-- A parked access is tried once more when FLIM has passed: it still faults, or it goes on; one that needs a sector of a
table has it asked for (R131, R134). -/
def State.stillFails (s : State) (d f ctx : Nat) (x : XlFault) : Bool × State :=
  match (s.translate d f ctx x.va x.access).1 with
  | .error (.fault _) => (true, s)
  | .error (.need a) => (false, s.askSectors (d * 144) f ctx (.pool a) 8)
  | _ => (false, s)
/-- FLIM has passed for an access parked by a stage-1 fault: what is to happen where it still faults. -/
def State.flimFor (s : State) (d f ctx : Nat) (k : Option Park) (go fail : State → State) : State :=
  match k with
  | none => s
  | some k =>
    if k.flt.stage2 || !s.hasLimit f ctx then s
    else match s.stillFails d f ctx k.flt with
      | (true, s) => fail s
      | (false, s) => go s
/-- FLIM has passed for a stage-1 fault: where the translation still fails, the group's trap is due, or the engine's word,
command or data phase fails (R131, R134, R461). -/
def State.flimExpire (s : State) : XlTarget → State
  | .group c p =>
    let g := s.group c p
    let tm := s.team c g.team
    s.flimFor (coreDie c) tm.func tm.ctx g.park (fun s => s.parkedRetry c p) (fun s =>
      s.setGroup c p { g with park := g.park.map (fun k => { k with active := false, expired := true }) })
  | .cte c d => match tget none (s.core c).cte d with
    | none => s
    | some x =>
      let tm := s.team c (s.group c x.gs).team
      s.flimFor (coreDie c) tm.func tm.ctx x.park (fun s => s.setCore c { s.core c with
          cte := tput none (s.core c).cte d (some { x with park := x.park.map (fun k => { k with active := false }) }) })
        (fun s => s.engineEnd c d cEngine 1 ((x.park.map (fun k => k.flt.va)).getD 0))
  | .copy f q slot => match s.launchBy (.queue f q slot) with
    | some l => s.flimFor 0 f l.lrec.ctx l.park id (fun s => (s.abandon l.id sXLATE).retireOver)
    | none => match (s.queue f q).cmds.find? (fun c => c.slot == slot) with
      | some c => s.flimFor 0 f c.ctx c.park id (fun s => s.retireCmd f q slot sXLATE)
      | none => s
  | .node r i => match s.launchBy (.node r i) with
    | some l => s.flimFor 0 l.func l.lrec.ctx l.park id (fun s => s.abandon l.id sXLATE)
    | none => match s.graphs.find? (fun g => g.id == r) with
      | some g => match g.copies.find? (fun e => e.1 == i) with
        | some (_, _, k) => s.flimFor 0 g.func g.ctx k id (fun s => s.failNode r i sXLATE)
        | none => s
      | none => s
  | .coll f comm tag => match s.keys.find? (fun k => isKey f comm tag k && stage1Parked k.park) with
    | none => s
    | some k => s.flimFor 0 f ((k.desc.map (fun d => d.ctx)).getD 0) k.park id (fun s => s.mapKey (isKey f comm tag) (fun k => k.parkFails))
/-- A report of a fault ring that cannot be written: it ends no launch (R132). -/
def XlFault.ofRing (x : XlFault) : Bool := x.level == 0 && x.kind == kPerm
/-- A command ends with a status: its launch or its graph with its launches, itself, or the one being fetched; none where
the queue has no such command. -/
def State.endCmd (s : State) (f q slot : Nat) (status : Byte) : Option State :=
  match s.launchBy (.queue f q slot) with
  | some l => some (s.killLaunch l.id status)
  | none => match s.graphs.find? (fun g => g.func == f && g.q == q && g.slot == slot) with
    | some g =>
      let s := (s.launches.filter (fun l => match l.owner with | .node r _ => r == g.id | _ => false)).foldl (fun s l => s.killLaunch l.id status) s
      some ({ s with
        graphs := s.graphs.filter (fun x => x.id != g.id)
        launches := s.launches.map (fun (l : Launch) => match l.owner with
          | .node r _ => if r == g.id then { l with owner := .queue f 64 0 } else l
          | _ => l) }.retireOver.retireCmd f q slot status)
    | none =>
      let x := s.queue f q
      if x.cmds.any (fun c => c.slot == slot) then some (s.retireCmd f q slot status)
      else if x.fetchable && x.head.toNat == slot then
        some ((s.setQueue f q { x with head := x.head + 1, cmds := x.cmds ++ [{ cmdOf [] slot x.ctx with started := true }] }).retireCmd f q slot status)
      else none
/-- A command that a refused read of its own ends. -/
def State.refuseCmd (s : State) (f q slot : Nat) : State := (s.endCmd f q slot sXLATE).getD s
/-- Hasp refuses a stage-2 fault it was told of (R133, R461); what was owed under it is not written. -/
def State.haspRefuse (s : State) (t : XlTarget) : State :=
  let mine := s.haspFaults.filter (fun e => e.1 == t)
  let s := { s with
    haspFaults := s.haspFaults.filter (fun e => e.1 != t)
    owed := s.owed.filter (fun o => match o with
      | .put f ctx va bs (some w) => !(w == t && (match s.vaPut f ctx va bs with | .fault x => x.stage2 | _ => false))
      | _ => true) }
  if mine.all (fun e => e.2.ofRing) then s
  else match t with
    | .group c p => s.killLaunch (s.team c (s.group c p).team).launch sXLATE
    | .cte c d => match tget none (s.core c).cte d with
      | some x => s.killLaunch (s.team c (s.group c x.gs).team).launch sXLATE
      | none => s
    | .copy f q slot => s.refuseCmd f q slot
    | .node r i => match s.launchBy (.node r i) with
      | some l => s.killLaunch l.id sXLATE
      | none => s.failNode r i sXLATE
    | .coll f comm tag => s.mapKey (isKey f comm tag) (fun k =>
        k.parkFails)

/-! ## Invalidation (R128, R129) -/

/-- The address an invalidation names. -/
def XlInv.addr (v : XlInv) : Nat := v.lo.toNat / 65536 * 65536 + v.hi.toNat % 2 ^ 23 * 2 ^ 32
/-- A translation of a function, by guest-physical and fabric page, falls under an invalidation. -/
def State.invHits (s : State) (v : XlInv) (f gpage fpage : Nat) : Bool :=
  match v.scope.toNat with
  | 0 => f == v.func && gpage == v.addr / 65536
  | 1 => f == v.func
  | 2 => true
  | _ => fpage == (s.func v.func).vdn.toNat * 2 ^ 28 + v.addr / 65536
/-- The sectors of a page at a place written back and dropped from every cache (R128). -/
def State.flushPage (s : State) (l : Loc) : State :=
  match l with
  | .home _ | .pool _ | .far _ _ =>
    let page := (match l with | .home p => p | .pool a | .far a _ => 2 ^ 64 + a | _ => 0) / 65536
    let s := s.cores.foldl (fun s e => e.2.l1.foldl (fun s k => if k.1 / 2048 == page then s.l1Back e.1 k.1 true else s) s) s
    s.l2Flush 0 (fun i _ => (2 ^ 64 + i * 32) / 65536 == page) true
  | _ => s
/-- A write to XL_INV_CTRL: only Hasp's counts, and none while BUSY. -/
def State.xlInv (s : State) (who : Requester) (v : W32) : State :=
  if who != .hasp || s.inv.busy then s
  else
    let i := { s.inv with flush := v.getLsbD 30, scope := v.extractLsb' 28 2, func := v.toNat % 64 }
    if !v.getLsbD 31 then { s with inv := i }
    else
      let s := s.haspWrites
      let hit (f g a : Nat) : Bool := s.invHits i f g a
      let users := s.usersOf (fun f _ _ g a => hit f g a)
      let engines := s.engineReqs (fun _ q => i.scope == 2 || i.scope == 3 || q.sfunc.toNat == i.func)
      let gone := (s.cores.flatMap (fun e => e.2.tlb) ++ s.l2tlb.flatMap (fun e => e.2)).filter (fun e => hit e.func e.gpage (e.sfa / 65536))
      let page := i.addr / 65536
      let mine (e : Nat × Nat × W64) : Bool := e.1 == i.func && e.2.1 == page
      let olds := if i.scope == 3 then
          [tget 0 (s.func i.func).place page] ++ (s.pcache.flatMap (fun d => d.2.filter mine)).map (fun e => e.2.2)
        else []
      let locs := if i.flush then
          gone.map (fun e => e.loc) ++ olds.map (fun e => if plPool e then Loc.pool (plLoc e) else Loc.home (plLoc e))
        else []
      let s := s.dropXl (fun e => hit e.func e.gpage (e.sfa / 65536))
      let pc := s.pcache.map (fun d => (d.1, d.2.filter (fun e => match i.scope.toNat with
        | 0 => true
        | 1 => e.1 != i.func
        | 2 => false
        | _ => !mine e)))
      let s := { s with inv := { i with busy := true, users, engines, locs }, pcache := pc.filter (fun d => !d.2.isEmpty) }
      locs.foldl (fun s l => s.flushPage l) s
/-- A cache still holds a sector of a page (R129). -/
def State.holdsPage (s : State) (l : Loc) : Bool :=
  match l with
  | .home _ | .pool _ | .far _ _ =>
    let page := (match l with | .home p => p | .pool a | .far a _ => 2 ^ 64 + a | _ => 0) / 65536
    s.cores.any (fun e => e.2.l1.any (fun k => k.1 / 2048 == page)) || s.l2.any (fun k => (2 ^ 64 + k.1 * 32) / 65536 == page)
  | _ => false
/-- The function of what a report to Hasp names. -/
def State.targetFunc (s : State) : XlTarget → Option Nat
  | .group c p => some (s.team c (s.group c p).team).func
  | .cte c d => (tget none (s.core c).cte d).map (fun x => (s.team c (s.group c x.gs).team).func)
  | .copy f _ _ | .coll f _ _ => some f
  | .node r _ => (s.graphs.find? (fun g => g.id == r)).map (fun g => g.func)
/-- An invalidation covers a fault of a function. -/
def XlInv.covers (i : XlInv) (f : Nat) (k : XlFault) : Bool :=
  match i.scope.toNat with
  | 0 => f == i.func && k.gpa.toNat / 65536 == i.addr / 65536
  | 1 => f == i.func
  | 2 => true
  | _ => k.stage2
/-- The step of a tier move that an invalidation ends (R135). -/
def TierOpen.invDone (t : TierOpen) (i : XlInv) : TierOpen :=
  if i.scope == 3 && i.flush && t.func == i.func && t.page == i.addr / 65536 then { t with inv := true } else t
/-- BUSY clears once the accesses that used a removed entry are complete and, with FLUSH, no cache holds a line of an old
location; what is parked under it tries again, and a report it covers is answered (R129, R133). -/
def State.xlInvDone (s : State) : State :=
  let i := s.inv
  let live := i.users.any (fun u => (tget {} s.groups u.1).acc.any (fun a => a.id == u.2)) || s.engineLive i.engines ||
    s.tilesUse (fun f _ _ g a => s.invHits i f g a)
  if !i.busy || live then s
  else
    let s := (i.locs.filter s.holdsPage).foldl (fun s l => s.flushPage l) s
    if !i.locs.isEmpty && s.streams.any (fun x => (x.out ++ x.queue).any (fun y => match y.2 with | .evict _ => true | _ => false)) then s
    else
      let s := s.replayParked (fun f _ k => i.covers f k)
      { s with
        inv := { i with busy := false, users := [], engines := [], locs := [] }
        tiers := (s.tiers.map (fun (t : TierOpen) => t.invDone i)).filter (fun t => !(t.written && t.inv))
        haspFaults := s.haspFaults.filter (fun e => e.2.ofRing || (match s.targetFunc e.1 with
          | some f => !i.covers f e.2
          | none => false)) }.pay

/-! ## Tier moves (R135, R136) -/

/-- The header of a pre-copy engine's requests (R51): one engine on each die. -/
def State.preHdr (s : State) (die : Nat) : Packet :=
  { svdn := (s.func 0).vdn, score := BitVec.ofNat 10 (577 + 2 * die), sclu := BitVec.ofNat 10 (577 + 2 * die) }
def State.tierOf (s : State) (f page : Nat) : Option TierOpen := s.tiers.find? (fun t => t.func == f && t.page == page)
/-- One of Hasp's steps in moving a page of a partition: each waits until the step before it is over. None begins while
the function leaves (R153). -/
def State.tierMove (s : State) (f page : Nat) (stage : TierStage) : State :=
  let e := tget 0 (s.func f).place page
  let put (s : State) (e : W64) : State := s.setFunc f { s.func f with place := tput 0 (s.func f).place page e }
  let set (s : State) (t : TierOpen) : State :=
    { s with tiers := s.tiers.map (fun x => if x.func == f && x.page == page then t else x) }
  match stage, s.tierOf f page with
  | .open_ transit, none =>
    if plV e && !(s.mig.dir != 0 && s.mig.func == f) then
      { put s (e ||| (if transit then 0x1000000000000000 else 0x2000000000000000)) with
        tiers := s.tiers ++ [{ func := f, page }] }
    else s
  | .copy toPool loc, some t =>
    if !t.inv || t.copied.isSome || (!toPool && s.reservedPage (loc / 65536)) then s
    else
      let src : Loc := if plPool e then .pool (plLoc e) else .home (plLoc e)
      let die := if plPool e then 0 else homeDie (plLoc e)
      match s.locBytes src 65536 with
      | none => s.askSectors 0 f 0 src 65536
      | some b =>
        let s := set s { t with copied := some loc }
        if toPool then (upto 256).foldl (fun s i =>
          s.sendReq (pkWrite (s.preHdr die) (loc + 256 * i) ((b.drop (256 * i)).take 256)) (.tier f page)) s
        else s.homeWrite loc b
  | .finish toPool loc, some t =>
    let sending := s.streams.any (fun x => (x.out ++ x.queue).any (fun y => y.2 == .tier f page))
    if t.copied != some loc || sending || t.written then s
    else set (put s (BitVec.ofNat 64 (2 ^ 63 + (if toPool then 2 ^ 62 else 0) + loc / 65536 * 65536))) { t with inv := false, written := true }
  | _, _ => s

/-! ## Errors (R142, R145) -/

/-- What a patrol finds: corrections counted, and sectors that become poison, logged and not contained. -/
def State.patrol (s : State) (corrected : Nat) (bad : List Nat) (site : ErrSite) : State :=
  let s := { s with mecCe := satInc s.mecCe corrected }
  (bad.filter (fun k => decide (k < 2 ^ 35))).foldl (fun s k =>
    if s.poison.contains k then s
    else { s with poison := k :: s.poison, weak := s.weak.erase k }.mecError 0 (BitVec.ofNat 32 (k / 8)) (classOf site.own.toNat site.priv) false true site.func) s
/-- A dirty line of a core's cache ways or of the home slices is lost: its error is one class higher than that of the
line's data, and contained at once. A line of HBM data in L2, which no table of the model holds (log 26), leaves bytes that
the spec does not say. -/
def State.lineLost (s : State) (site : ErrSite) (k : Nat) : State :=
  let core := site.src == 2
  let place : W32 := if core then BitVec.ofNat 32 site.core else site.place
  let lost (s : State) (cls : ErrClass) (f ctx : Nat) : State :=
    (s.mecError site.src.toNat place cls true false f).contain cls
      (some (site.core, site.gs)) f ctx 0
  match (if core then s.l1Get site.core k else tget none s.l2 k) with
  | some y =>
    if y.dirty == 0 then s
    else lost (if core then s.l1Set site.core k none else { s with l2 := tput none s.l2 k none }) (classOf y.own y.priv).up y.func y.ctx
  | none =>
    if site.src == 1 && decide (k < 2 ^ 35) then
      let r := s.fresh
      lost (r.2.homeWrite (k * 32) (leBytes 32 r.1)) (classOf site.own.toNat site.priv).up site.func site.ctx
    else s

def execWalkComplete (s : State) : Host.Outcome State Fault Refusal := .next (s.walkDone s.inp.die s.inp.k)
def execParkedRetry (s : State) : Host.Outcome State Fault Refusal := .next (s.parkedRetry s.inp.core s.inp.gs)
def execFlimExpire (s : State) : Host.Outcome State Fault Refusal := .next (s.flimExpire s.inp.target)
def execHaspStage2Refuse (s : State) : Host.Outcome State Fault Refusal := .next (s.haspRefuse s.inp.target)
def execXlInv (s : State) : Host.Outcome State Fault Refusal := .next (s.xlInv s.inp.who s.inp.v)
def execXlInvComplete (s : State) : Host.Outcome State Fault Refusal := .next s.xlInvDone
def execTierMove (s : State) : Host.Outcome State Fault Refusal := .next (s.tierMove s.inp.func s.inp.page s.inp.stage)
def execPatrolScrub (s : State) : Host.Outcome State Fault Refusal := .next (s.patrol s.inp.count s.inp.bad s.inp.site)
def execDirtyLineLost (s : State) : Host.Outcome State Fault Refusal := .next (s.lineLost s.inp.site s.inp.page)

end Sys2Proof.Machine
end

