-- ==== Sys2Proof/Machine/Part.lean ====
section
/-! DEFINITION. The Hasp mailbox (R98), partitions and their resize (R95, R96, R110, R111), and capability faults of the
firmware cores (R113, R114). -/

namespace Sys2Proof.Machine

/-! ## The mailbox (R98) -/

def mailCmd (r : MailReq) : Nat := r.toNat % 256
def mailFunc (r : MailReq) : Nat := bits r.toNat 8 6
def mailQuota (r : MailReq) : Nat := bits r.toNat 32 11
/-- Word i of a request. -/
def mailWord (r : MailReq) (i : Nat) : Nat := bits r.toNat (64 * i) 64

def mOK : Byte := 0x00
def mOVERLAP : Byte := 0x01
def mBADRECT : Byte := 0x02
def mQUOTA : Byte := 0x03
def mBUSY : Byte := 0x04
def mNOFUNC : Byte := 0x05
def mBADCMD : Byte := 0x06
def mREFUSED : Byte := 0x07
def mNODEST : Byte := 0x08

/-- Hasp answers a request: the response whole, then HMB_DONE. -/
def State.answer (s : State) (r : MailReq) (status : Byte) : State :=
  { s with mail := { req := r, busy := false, judged := false, done := true
                     resp := BitVec.ofNat 128 (status.toNat + mailCmd r * 2 ^ 8 + mailFunc r * 2 ^ 16) } }
/-- A request is taken up, or goes on where it is the one in hand; any other is ignored while DONE stands or one is in
hand, and every one while the device is halted (R19, R144). -/
def State.takeMail (s : State) (r : MailReq) : Option State :=
  if !s.accepting then none
  else if s.mail.busy then (if s.mail.req == r then some s else none)
  else if s.mail.done then none
  else some { s with mail := { s.mail with req := r, busy := true, judged := false } }
/-- A request with a command code handled. -/
def State.onMail (s : State) (code : Nat) (k : State → MailReq → State) : State :=
  let r := s.inp.mail
  if mailCmd r != code then s
  else match s.takeMail r with
    | some s => k s r
    | none => s
/-- The command codes Hasp knows. -/
def mailKnown (c : Nat) : Bool :=
  [0x10, 0x11, 0x20, 0x21, 0x22, 0x23, 0x28, 0x29, 0x30, 0x31, 0x32, 0x33].contains c
def State.badCmd (s : State) : State :=
  let r := s.inp.mail
  if mailKnown (mailCmd r) then s
  else match s.takeMail r with
    | some s => s.answer r mBADCMD
    | none => s

/-! ## Rectangles (R96, R98) -/

/-- The rectangle words of a request that are valid. -/
def rectWords (r : MailReq) : List Nat := ((upto 16).map (fun i => bits r.toNat (64 + 32 * i) 32)).filter (fun w => bitOf w 31)
def rectOf (w : Nat) : Rect :=
  { die := bits w 24 2, row := bits w 20 4, col := bits w 16 4, rows := bits w 8 4 + 1, cols := bits w 0 4 + 1 }
/-- A rectangle leaves its die, or a reserved bit is set. -/
def rectBad (w : Nat) : Bool :=
  let r := rectOf w
  bits w 26 5 != 0 || bits w 12 4 != 0 || bits w 4 4 != 0 || decide (12 < r.row + r.rows) || decide (12 < r.col + r.cols)
def Rect.meets (a b : Rect) : Bool :=
  a.die == b.die && decide (a.row < b.row + b.rows) && decide (b.row < a.row + a.rows) &&
  decide (a.col < b.col + b.cols) && decide (b.col < a.col + a.cols)
/-- Some rectangle meets one of another VF, or another of its own. -/
def State.rectsMeet (s : State) (f : Nat) (rs : List Rect) : Bool :=
  (upto 64).any (fun g => g != f && g != 0 && (s.func g).rects.any (fun b => rs.any (fun a => a.meets b))) ||
  rs.zipIdx.any (fun a => rs.zipIdx.any (fun b => decide (a.2 < b.2) && a.1.meets b.1))
/-- The refusal of a request's rectangles. -/
def State.rectRefusal (s : State) (f : Nat) (r : MailReq) : Option Byte :=
  let ws := rectWords r
  if ws.any rectBad then some mBADRECT
  else if s.rectsMeet f (ws.map rectOf) then some mOVERLAP
  else none

/-! ## Partitions (R95, R110, R111) -/

/-- A stage-2 leaf under a table names an offset at or above a limit in a VDN. -/
def State.s2Above (s : State) (f vdn limit : Nat) : List Nat → Nat → Bool
  | [], _ => false
  | level :: rest, tbl => (upto 8192).any (fun i =>
      let d := s.desc 0 f (tbl + 8 * i)
      bitOf d 0 && (if bitOf d 1 then
          let base := bits d 16 44 * 65536
          base / 2 ^ 44 == vdn && decide (limit < base % 2 ^ 44 + lvlBytes level)
        else s.s2Above f vdn limit rest (bits d 16 24 * 65536)))
/-- The function takes part in a migration or checkpoint here. -/
def State.migrating (s : State) (f : Nat) : Bool := (s.mig.dir != 0 && s.mig.func == f) || s.mig.inFunc == some f
def State.enabled (s : State) (f : Nat) : Bool := (s.func f).vfOn && (s.func f).part
/-- The teams that must leave cores whose function changes, as whole clusters and grids (R110). -/
def State.displaced (s : State) (f : Nat) (rs : List Rect) : List (Nat × Nat) :=
  let has (c : Nat) : Bool := rs.any (fun r => r.has c)
  s.teamsOf (fun c t => (t.func == f && !has c) || (t.func == 0 && has c))
/-- Launches that never had cores to be checked against are checked, and PF0's, whose cores change too (R96, R172). -/
def State.checkLates (s : State) (f : Nat) : State := (s.checkLate f).checkLate 0
/-- Teams asked to leave, and no placement on their cores meanwhile. -/
def State.emptyOut (s : State) (out : List (Nat × Nat)) : State :=
  let units := out.flatMap (fun x => s.fellows x.1 x.2)
  s.stopTeams (units.filter (fun x => !(s.team x.1 x.2).stopping && !(s.team x.1 x.2).term))
/-- Cached translations to offsets of a partition, and what a die's placement cache holds of it, removed (R111). -/
def State.dropOffsets (s : State) (f : Nat) : State :=
  let vdn := (s.func f).vdn.toNat
  let s := s.dropXl (fun e => e.sfa / 2 ^ 44 == vdn)
  { s with pcache := (s.pcache.map (fun d => (d.1, d.2.filter (fun e => e.1 != f)))).filter (fun d => !d.2.isEmpty) }
/-- An access translated to an offset of a partition at or above a quota is under way. -/
def State.usesAbove (s : State) (f quota : Nat) : Bool :=
  let vdn := (s.func f).vdn.toNat
  let hit (a : Nat) : Bool := a / 2 ^ 28 == vdn && decide (quota * 8192 ≤ a % 2 ^ 28)
  !(s.usersOf (fun _ _ _ _ a => hit a)).isEmpty || s.tilesUse (fun _ _ _ _ a => hit a)
/-- PART_SET once it is not refused: the answer comes when the cores it removes are empty, and nothing is under way to
memory it takes. -/
def State.partWork (s : State) (r : MailReq) : State :=
  let f := mailFunc r
  let quota := mailQuota r
  let rs := (rectWords r).map rectOf
  let out := s.displaced f rs
  if !out.isEmpty then
    let s := s.emptyOut out
    let s := s.setFunc f { s.func f with placeOff := true }
    s.setFunc 0 { s.func 0 with placeOff := true }
  else if (s.func f).part && quota < (s.func f).quota && s.usesAbove f quota then s
  else
    let s := s.giveMemory f quota
    let fn := s.func f
    let s := if fn.part then s.setFunc f { fn with rects := rs, placeOff := false }
      else (s.setFunc f { fn with rects := rs, placeOff := false, part := true, vdn := s.inp.vdn, s2root := s.inp.k, passed := none }).haspWrites
    let s := s.setFunc 0 { s.func 0 with placeOff := false }
    ((s.dropOffsets f).checkLates f).answer r mOK
/-- Why PART_SET is refused (R98). -/
def State.partRefusal (s : State) (r : MailReq) : Option Byte :=
  let f := mailFunc r
  let fn := s.func f
  let quota := mailQuota r
  if f == 0 || !fn.vfOn then some mNOFUNC
  else if fn.flr || s.migrating f then some mBUSY
  else match s.rectRefusal f r with
  | some st => some st
  | none =>
    if fn.part && quota < fn.quota && s.s2Above f fn.vdn.toNat (quota * 2 ^ 29) [1, 2, 3] fn.s2root then some mQUOTA else none
/-- PART_SET: judged once, when it is taken up. -/
def State.partSet (s : State) (r : MailReq) : State :=
  if s.mail.judged then s.partWork r
  else match s.partRefusal r with
  | some st => s.answer r st
  | none => { s with mail := { s.mail with judged := true } }.partWork r
/-- A page of a partition set to zero where it lies, with its dirty bits set (R137). -/
def State.zeroPage (s : State) (f : Nat) (e : W64) : State :=
  if !plV e then s
  else if plPool e then (upto 256).foldl (fun s i => s.sendRuns 0 f (plLoc e) [(256 * i, zeros 256)]) s
  else { s with mem := s.mem.filter (fun c => !(decide (plLoc e ≤ c.1) && decide (c.1 < plLoc e + 65536)))
                dirty := (upto 16).foldl (fun t i => tput false t (plLoc e / 4096 + i) true) s.dirty
                poison := s.poison.filter (fun k => k / 2048 != plLoc e / 65536)
                weak := s.weak.filter (fun k => k / 2048 != plLoc e / 65536) }
/-- Memory of a partition zeroed and given back, what the caches hold of it discarded. -/
def State.clearMemory (s : State) (f : Nat) : State :=
  let pages := (s.func f).place
  let gone (l : Loc) : Bool := pages.any (fun e => (if plPool e.2 then Loc.pool (plLoc e.2) else Loc.home (plLoc e.2)) == l)
  let base (k : Nat) : Loc := if keyFar k then .pool (keySfa k / 65536 * 65536) else .home (k * 32 / 65536 * 65536)
  let cores : Tbl Core := s.cores.map (fun e => (e.1, { e.2 with l1 := e.2.l1.filter (fun k => !gone (base k.1)) }))
  let s := { s with cores, l2 := s.l2.filter (fun k => !gone (.pool (k.1 * 32 / 65536 * 65536))) }
  let s := pages.foldl (fun s e => s.zeroPage f e.2) s
  s.setFunc f { s.func f with place := [], quota := 0 }
/-- PART_CLEAR: every core removed, memory zeroed, and no quota; judged once. -/
def State.clearWork (s : State) (r : MailReq) : State :=
  let f := mailFunc r
  let out := s.teamsOf (fun _ t => t.func == f)
  if !out.isEmpty then
    let s := s.emptyOut out
    s.setFunc f { s.func f with placeOff := true }
  else if s.usesAbove f 0 then s
  else
    let s := s.setFunc f { s.func f with rects := [], placeOff := false, passed := none }
    ((((s.clearMemory f).dropOffsets f).dropXl (fun e => e.func == f)).checkLates f).answer r mOK
def State.partClear (s : State) (r : MailReq) : State :=
  let f := mailFunc r
  if s.mail.judged then s.clearWork r
  else if f == 0 || !s.enabled f then s.answer r mNOFUNC
  else if (s.func f).flr || s.migrating f then s.answer r mBUSY
  else { s with mail := { s.mail with judged := true } }.clearWork r

/-! ## Firmware capabilities (R113, R114) -/

/-- Bits of a capability. -/
def capBase (c : Nat) : Nat := c / 2 ^ 64
def capLen (c : Nat) : Nat := bits c 24 40
def capKind (c : Nat) : Nat := bits c 20 4
def capPerm (c : Nat) : Nat := bits c 16 4
def capOwner (c : Nat) : Nat := bits c 0 6
/-- A capability lies within another's bounds and permissions, which allow copies to be made. -/
def capWithin (c parent : Nat) : Bool :=
  bitOf parent 16 && decide (capBase parent ≤ capBase c) && decide (capBase c + capLen c ≤ capBase parent + capLen parent) &&
  capPerm c &&& capPerm parent == capPerm c && capKind c == capKind parent && capOwner c == capOwner parent
/-- The capability of an access and its tag: loaded from firmware memory with the tag kept beside it, or held in a
register. -/
def State.capOf (s : State) (a : CapAccess) : Nat × Bool :=
  match a.granule with
  | some g => (numAt s.mem (16 * g) 16, tget false s.capTags g)
  | none => (a.cap.toNat, a.tagSet)
/-- A capability permits an access (R113): its tag is set, its reserved bits are zero, its kind and permissions allow the
access, which lies in its bounds; a ring's is one Hasp has given (R114), a context's serves its owner, and a copy made
of it lies within it. DESIGN CHOICE (log 42): a sealed capability permits no access. -/
def State.capPermits (s : State) (a : CapAccess) : Bool :=
  let (c, tag) := s.capOf a
  tag && bits c 6 10 == 0 && decide (capKind c < 4) && capKind c == a.kind.toNat && (capPerm c &&& a.perm.toNat) == a.perm.toNat &&
  decide (capBase c ≤ a.addr) && decide (a.addr + a.size ≤ capBase c + capLen c) &&
  (capKind c != 1 || s.ringCaps.any (fun e => e.2 == some (BitVec.ofNat 128 c))) &&
  (capKind c != 3 || capOwner c == a.owner.toNat) &&
  (match a.derive with | some d => bits d.toNat 6 10 == 0 && capWithin d.toNat c | none => true)
/-- A permitted access: a copy made of the capability is stored, with its tag (R113). -/
def State.capStore (s : State) (a : CapAccess) : State :=
  match a.derive with
  | some d =>
    if a.addr % 16 == 0 && a.size == 16 && a.perm.getLsbD 2 then
      let s := s.homeWrite a.addr (leBytes 16 d.toNat)
      { s with capTags := tput false s.capTags (a.addr / 16) true }
    else s
  | none => s
/-- The scheduler of a firmware core starts again: each queue it served halts at its QHEAD (R114). -/
def State.restartFw (s : State) (fw : Nat) : State :=
  let s := (s.serving.filter (fun e => e.1 == fw)).foldl (fun s e =>
      let x := s.queue e.2.1 e.2.2
      s.setQueue e.2.1 e.2.2 (x.halt sCAPFAULT.toNat (x.head.toNat % x.size))) s
  { s with serving := s.serving.filter (fun e => e.1 != fw) }.emit (.report 0x114)
/-- An access that its capability does not permit: the command in hand retires with CAPFAULT and its queue halts, or the
firmware core's scheduler starts again; only the seven that run the scheduler firmware take part (R112). -/
def State.capFault (s : State) (fw : Nat) (a : CapAccess) (cmd : Option (Nat × Nat × Nat)) : State :=
  if s.capPermits a then s.capStore a
  else if fw = 0 || 8 ≤ fw then s
  else match cmd.bind (fun c => s.endCmd c.1 c.2.1 c.2.2 sCAPFAULT) with
    | some s => s
    | none => s.restartFw fw

def execPartSet (s : State) : Host.Outcome State Fault Refusal := .next (s.onMail 0x10 (fun s r => s.partSet r))
def execPartClear (s : State) : Host.Outcome State Fault Refusal := .next (s.onMail 0x11 (fun s r => s.partClear r))
def execBadcmd (s : State) : Host.Outcome State Fault Refusal := .next s.badCmd
def execFirmwareCapabilityFault (s : State) : Host.Outcome State Fault Refusal :=
  .next (s.capFault s.inp.fw s.inp.acc s.inp.cmd)

end Sys2Proof.Machine
end

