-- ==== Sys2Proof/Machine/Mig.lean ====
section
/-! DEFINITION. Live migration, checkpoint and restore (R148 to R170), and function resets (R106 to R109). -/

namespace Sys2Proof.Machine

/-! ## The neutral state image of a function (R166, R167) -/

/-- A queue's register image in a 64-byte block (R99, R166). -/
def queueBlock (x : Queue) : List Byte :=
  leBytes 8 x.base.toNat ++ leBytes 4 x.cfg.toNat ++ leBytes 4 x.head.toNat ++ leBytes 4 x.done.toNat ++ leBytes 4 x.tail.toNat ++
  fieldTo 40 x.err.toNat 4
def queueOfBlock (b : List Byte) : Queue :=
  { base := BitVec.ofNat 64 (atB b 0 8), cfg := BitVec.ofNat 32 (atB b 8 4), head := BitVec.ofNat 32 (atB b 12 4)
    done := BitVec.ofNat 32 (atB b 16 4), tail := BitVec.ofNat 32 (atB b 20 4), err := BitVec.ofNat 32 (atB b 24 4) }
/-- The saved teams of a function. -/
def State.savedOf (s : State) (f : Nat) : List SavedTeam := s.savedTeams.filter (fun x => x.team.func == f)
/-- One core's record from the teams that were on it, or a saved team's. -/
def teamsImage (score : Nat) (ts : List SavedTeam) : List Byte :=
  let wins := ts.flatMap (fun x => x.team.win.map (fun w => (w.2, Shutter.scratch, bankImage (fun i => tget {} x.scr (w.1 * 4096 + i)))))
  let fifs := ts.flatMap (fun x => x.team.fifo.map (fun w =>
    (w.2, Shutter.fifo, fifoImage (((x.fifos.find? (fun q => q.1 == w.1)).map Prod.snd).getD {}))))
  let all := wins ++ fifs
  let at_ (b : Nat) : Option (Nat × Shutter × List Byte) := all.find? (fun e => e.1 == b)
  let tiles := sortBy (fun n => n) (ts.flatMap (fun x => x.team.tiles))
  let tile (t i : Nat) : W32 := match ts.find? (fun x => x.team.tiles.contains t) with
    | some x => tget 0 x.acc (x.team.tiles.idxOf t * 4096 + i)
    | none => 0
  let fifo (b : Nat) : Fifo := (ts.findSome? (fun x => (x.team.fifo.find? (fun w => w.2 == b)).bind (fun w =>
    (x.fifos.find? (fun q => q.1 == w.1)).map Prod.snd))).getD {}
  let x0 := ts.head?
  let b := coreRecord
    { score, crow := (x0.map (fun x => x.crow)).getD 0, ccol := (x0.map (fun x => x.ccol)).getD 0
      ngrp := (ts.map (fun x => x.groups.length)).foldl (· + ·) 0
      shut := (upto 32).map (fun b => match at_ b with | some e => e.2.1 | none => .cache)
      banks := (upto 32).filterMap (fun b => (at_ b).map (fun e => e.2.2)), fifos := (upto 32).map fifo
      cbaddr := (x0.map (fun x => x.cbaddr)).getD 0, hist := (x0.map (fun x => x.hist)).getD []
      cte := ts.flatMap (fun x => x.cte.map Prod.snd), tiles, tile
      latch := ((ts.find? (fun x => !x.latch.arrivals.isEmpty)).map (fun x => x.latch)).getD {} }
  b ++ zeros ((64 - b.length % 64) % 64) ++ ts.flatMap (fun x => x.groups.flatMap (fun g => groupImage g.2 x.team g.1))
/-- The teams of a command that are still to place: those of its launch, or of its graph's launches. -/
def State.teamsLeft (s : State) (f q slot : Nat) : Nat :=
  let mine (l : Launch) : Bool := match l.owner with
    | .queue f' q' n => f' == f && q' == q && n == slot
    | .node r _ => s.graphs.any (fun g => g.id == r && g.func == f && g.q == q && g.slot == slot)
  (s.launches.filter mine).foldl (fun (n : Nat) l =>
    n + (l.total - l.next) * (l.lrec.cx * l.lrec.cy) + (s.savedTeams.filter (fun x => x.launch == l.id && l.saved.contains x.set)).length) 0
/-- A collective's record: its key and number, its state, its latch, and how far its data phase has come. -/
def KeyEnt.imageFields (k : KeyEnt) : List Nat :=
  let b (x : Bool) : Nat := if x then 1 else 0
  [k.comm.toNat, k.tag.toNat, match k.num with | some n => n.toNat | none => 0, k.prev.toNat, b k.first,
   b k.issued, b k.num.isSome, b k.void_, b k.begun, b k.granted, b k.retired, b k.orphan,
   match k.desc.bind (fun d => d.latch) with | some a => 2 ^ 32 + a.toNat | none => 0,
   b k.begunSent, b k.begunAck, k.sent, k.acked.length, b k.srcFail, b k.dstFail] ++ k.acked ++
  k.got.flatMap (fun e => [e.1.1, e.1.2, e.2.length] ++ e.2.map BitVec.toNat)
/-- The function section. -/
def State.functionSection (s : State) (f : Nat) : List Byte :=
  let fn := s.func f
  let cmds := (upto 64).flatMap (fun q => ((s.queue f q).cmds.filter (fun c => c.started)).map (fun c => (q, c)))
  let b := (upto 64).flatMap (fun q => queueBlock (s.queue f q)) ++
    cmds.flatMap (fun e => openBytes 0x1661 32 [e.1, e.2.slot, e.2.kind, s.teamsLeft f e.1 e.2.slot, e.2.done]) ++
    openBytes 0x1662 32 [match fn.passed with | some n => 2 ^ 32 + n.toNat | none => 0] ++
    (s.keys.filter (fun k => k.func == f)).flatMap (fun k => openBytes 0x1663 64 k.imageFields)
  b ++ zeros ((64 - b.length % 64) % 64)
/-! ## Requirements (R157) -/

/-- What one team asks of its core, as a requirement of its cluster's shape. -/
def Team.asks (t : Team) (slots : Nat) : ShapeReq :=
  { cx := t.cx, cy := t.cy, count := 1, slots, tiles := t.tiles.length, banks := t.win.length + t.fifo.length, bars := t.nbar }
/-- The greatest of two requirements of one shape. -/
def ShapeReq.join (a b : ShapeReq) : ShapeReq :=
  { cx := max a.cx b.cx, cy := max a.cy b.cy, count := 1, slots := max a.slots b.slots, tiles := max a.tiles b.tiles
    banks := max a.banks b.banks, bars := max a.bars b.bars }
/-- The requirements of a function's resident and saved clusters. -/
def State.reqsOf (s : State) (f : Nat) : Requirements :=
  let here := s.teamsOf (fun _ t => t.func == f)
  let live := (distinct (here.map (fun x => (s.team x.1 x.2).placed))).map (fun n =>
    ((here.filter (fun x => (s.team x.1 x.2).placed == n)).map (fun x =>
      (s.team x.1 x.2).asks ((s.liveAt x.1).filter (fun e => e.2.team == x.2)).length)).foldl ShapeReq.join {})
  let saved := s.savedOf f
  let kept := (distinct (saved.map (fun x => x.set))).flatMap (fun k =>
    (savedClusters (saved.filter (fun x => x.set == k))).map (fun ps =>
      (ps.filterMap (fun p => p.saved.map (fun x => x.team.asks x.groups.length))).foldl ShapeReq.join {}))
  { func := f, w := 5, cwid := 8, quota := (s.func f).quota, shapes := live ++ kept }
/-- The fields of requirements, in the order of R158. -/
def reqFields (r : Requirements) : List Nat :=
  [r.func, r.w, r.cwid] ++ r.shapes.flatMap (fun x => [x.cx, x.cy, x.count, x.slots, x.tiles, x.banks, x.bars]) ++ [r.quota]
/-- The whole image of a function whose teams are saved. -/
def State.nsi (s : State) (f : Nat) : List Byte :=
  let ts := s.savedOf f
  let cores := sortBy (fun n => n) (distinct (ts.filterMap (fun x => x.score)))
  let rest := ts.filter (fun x => x.score.isNone)
  let body := s.functionSection f ++ cores.flatMap (fun c => teamsImage c (ts.filter (fun x => x.score == some c))) ++
    rest.flatMap (fun x => teamsImage 0xFFFF [x])
  let nest := (s.launches.filter (fun l => l.func == f)).foldl (fun (m : Nat) l => max m l.maxnest) 0
  leBytes 4 0x4E534901 ++ leBytes 2 1 ++ leBytes 1 5 ++ leBytes 1 8 ++ fieldTo 2 nest 2 ++ fieldTo 2 f 1 ++
  fieldTo 4 (s.func f).vdn.toNat 2 ++ fieldTo 2 cores.length 2 ++ fieldTo 2 ((ts.map (fun x => x.groups.length)).foldl (· + ·) 0) 2 ++
  fieldTo 4 rest.length 2 ++ leBytes 8 (256 + body.length) ++ openBytes 0x1664 32 (reqFields (s.reqsOf f)) ++
  leBytes 48 (Config.sha384 body).toNat ++ zeros (256 - 0x70) ++ body
/-- Bytes padded to 64 KiB units. -/
def padUnits (b : List Byte) : List Byte := b ++ zeros ((65536 - b.length % 65536) % 65536)

/-! ## The stream (R154, R155) -/

/-- A record header. -/
def recHdr (kind ctrl len blk : Nat) : List Byte := leBytes 8 (kind * 2 ^ 62 + ctrl * 2 ^ 54 + len * 2 ^ 32 + blk)
/-- Blocks of a function's partition, as block number and place. -/
def State.partBlocks (s : State) (f : Nat) : List (Nat × W64) :=
  (s.func f).place.flatMap (fun e => (upto 16).map (fun i => (e.1 * 16 + i, e.2)))
/-- One stream request on VC 4; without a port the stream is in error. -/
def State.streamReq (s : State) (p : Packet) : State :=
  s.sendReq p (.stream s.mig.pos)
/-- The sender of a stream's bytes: the pre-copy engine of a die, on its four streams in turn. -/
def State.streamHdr (s : State) (die : Nat) : Packet := { s.preHdr die with strm := BitVec.ofNat 2 (s.mig.pos / 256) }
/-- The HBM address of an offset into the preserved regions in rising order (R22, R169). -/
def State.preservedAt (s : State) (off : Nat) : Option Nat :=
  let rs := sortBy (fun (r : Nat × Nat) => r.1) s.boot.preserved
  (rs.foldl (fun (acc : Nat × Option Nat) r => match acc.2 with
    | some _ => acc
    | none => if acc.1 < r.2 * mib512 then (acc.1, some (r.1 * mib512 + acc.1)) else (acc.1 - r.2 * mib512, none)) (off, none)).2
/-- Stream bytes sent: to the destination as MSTREAM, to a pool node as WRITE, or into preserved HBM. -/
def State.streamChunk (s : State) (die : Nat) (b : List Byte) : State :=
  let m := s.mig
  let next (s : State) : State := { s with mig := { s.mig with pos := m.pos + b.length } }
  if m.dir == 1 then
    next (s.streamReq { s.streamHdr die with
      op := oMSTREAM, daddr := m.dest ++ BitVec.ofNat 44 m.pos, w3 := BitVec.ofNat 64 m.func, data := b
      len := BitVec.ofNat 5 (unitCount b.length) })
  else if m.tvdn != 0xFFFF then
    next (s.streamReq (pkWrite (s.streamHdr die) (m.tvdn.toNat * 2 ^ 44 + m.toff + m.pos) b))
  else
    match s.preservedAt (m.toff + m.pos) with
    | some pa => next (s.homeWrite pa b)
    | none => { s with mig := { s.mig with err := true } }
/-- Stream bytes in packets of 256. -/
def State.streamOut (s : State) (die : Nat) (b : List Byte) : State :=
  (upto ((b.length + 255) / 256)).foldl (fun s i => s.streamChunk die ((b.drop (256 * i)).take 256)) s
/-- The scan of bitmap words, each an exchange with zero: what they held (R139). -/
def State.scanWords (s : State) (ws : List Nat) : List (Nat × BitVec 64) × State :=
  ws.foldl (fun (acc : List (Nat × BitVec 64) × State) w => let r := acc.2.scanWord w; (acc.1 ++ [(w, r.1)], r.2)) ([], s)
/-- One pre-copy pass (R139, R153): every word that covers the function's HBM pages is scanned, and the blocks whose bit was
set, or all of them, are copied, each by the engine of its die. -/
def State.copyPass (s : State) (f : Nat) (all : Bool) : State × Nat :=
  let mine := (s.partBlocks f).filter (fun e => plV e.2 && !plPool e.2)
  let pa (e : Nat × W64) : Nat := plLoc e.2 + e.1 % 16 * 4096
  let r := s.scanWords (distinct (mine.map (fun e => pa e / 2 ^ 18)))
  let bs := mine.filter (fun e => all || r.1.any (fun w => w.1 == pa e / 2 ^ 18 && w.2.getLsbD (pa e / 4096 % 64)))
  (bs.foldl (fun s e => s.streamOut (homeDie (pa e)) (recHdr 0 0 0 e.1 ++ bytesAt s.mem (pa e) 4096)) r.2, bs.length)
/-- The words of a coded block's tokens, which use up its bytes; none where they break off. -/
def decodeTokens : Nat → List Byte → List Nat → Option (List Nat)
  | _, [], ws => some ws
  | 0, _ :: _, _ => none
  | n + 1, t :: b, ws =>
    let k := t.toNat % 128 + 1
    if t.getLsbD 7 then
      (if b.length < 8 then none else decodeTokens n (b.drop 8) (ws ++ List.replicate k (leNat (b.take 8))))
    else if b.length < 8 * k then none
    else decodeTokens n (b.drop (8 * k)) (ws ++ (upto k).map (fun i => leNat ((b.drop (8 * i)).take 8)))
/-- A block of the incoming partition written; none at or above the quota. -/
def State.blockIn (s : State) (f blk : Nat) (b : List Byte) : Option State :=
  if (s.func f).quotaBytes ≤ blk * 4096 then none
  else match s.placed 0 f (blk * 4096) with
    | .home pa => some (s.homeWrite pa b)
    | .pool a => some (s.locWrite 0 f (.pool a) b)
    | _ => some s
def State.blocksIn (s : State) (f : Nat) : List (Nat × List Byte) → Option State
  | [] => some s
  | e :: es => match s.blockIn f e.1 e.2 with
    | some s => s.blocksIn f es
    | none => none
/-- What one record says (R154). -/
inductive StreamRec where
  | blocks (l : List (Nat × List Byte))
  | pass
  | nsi (b : List Byte)
  | mon (b : List Byte)
  | stop
/-- The bytes that follow a record's header. -/
def recNeed (h : Nat) : Nat :=
  let len := bits h 32 22
  match h / 2 ^ 62 with
  | 0 => 4096
  | 1 => 0
  | 2 => (len + 7) / 8 * 8
  | _ => if bits h 54 8 == 2 || bits h 54 8 == 3 then len * 65536 else 0
/-- A record by its header and the bytes that follow it; none is a stream error (R155). -/
def streamRecOf (h : Nat) (b : List Byte) : Option StreamRec :=
  let len := bits h 32 22
  let blk := h % 2 ^ 32
  match h / 2 ^ 62 with
  | 0 => some (.blocks [(blk, b)])
  | 1 => if len == 0 then none else some (.blocks ((upto len).map (fun i => (blk + i, zeros 4096))))
  | 2 => match decodeTokens len (b.take len) [] with
    | some ws => if ws.length == 512 then some (.blocks [(blk, ws.flatMap (fun w => leBytes 8 w))]) else none
    | none => none
  | _ => match bits h 54 8 with
    | 1 => some .pass
    | 2 => some (.nsi b)
    | 3 => some (.mon b)
    | 4 => some .stop
    | _ => none
/-- How decoding of what has arrived goes on. -/
inductive Decoded where
  | more (s : State)
  | partly (s : State)
  | bad
/-- One record decoded, when it is here whole. -/
def State.recIn (s : State) (f : Nat) : Decoded :=
  let b := s.mig.inBytes
  let h := leNat (b.take 8)
  let n := recNeed h
  let rest := b.drop 8
  let s' : State := { s with mig := { s.mig with inBytes := rest.drop n } }
  if b.length < 8 || rest.length < n then .partly s
  else match streamRecOf h (rest.take n) with
  | none => .bad
  | some (.blocks l) => (match s'.blocksIn f l with
    | some t => .more t
    | none => .bad)
  | some .pass => .more s'
  | some (.nsi x) => .more { s' with mig := { s'.mig with inNsi := x } }
  | some (.mon x) => .more { s' with mig := { s'.mig with inMon := x } }
  | some .stop => .partly { s' with mig := { s'.mig with inEnd := true } }
def State.recsIn (s : State) (f : Nat) : Nat → Option State
  | 0 => some s
  | n + 1 => match s.recIn f with
    | .more s => s.recsIn f n
    | .partly s => some s
    | .bad => none
/-- The records of an image in memory, from an offset to the end of the stream: the NSI and the blocks. -/
def readImage (read : Nat → Nat → Option (List Byte)) : Nat → Nat → List Byte → List (Nat × List Byte) → Option (List Byte × List (Nat × List Byte))
  | 0, _, _, _ => none
  | n + 1, off, nsi, bs => (read off 8).bind (fun h =>
      let h := leNat h
      (read (off + 8) (recNeed h)).bind (fun b => match streamRecOf h b with
        | none => none
        | some (.blocks l) => readImage read n (off + 8 + recNeed h) nsi (bs ++ l)
        | some (.nsi x) => readImage read n (off + 8 + recNeed h) x bs
        | some .stop => some (nsi, bs)
        | some _ => readImage read n (off + 8 + recNeed h) nsi bs))

/-! ## Messages between Hasps (R52) -/

/-- An HMSG about a function, with a code and data. DESIGN CHOICE (log 43): the codes of this module. -/
def State.haspData (s : State) (dest : BitVec 16) (code f : Nat) (b : List Byte) : State :=
  s.sendMsg 7 { svdn := (s.func 0).vdn, daddr := dest ++ (0 : BitVec 44), score := Config.haspScore, sclu := Config.haspScore, op := oHMSG
                w3 := BitVec.ofNat 64 (code + f * 2 ^ 8), len := 8, data := b }
def State.hasp (s : State) (dest : BitVec 16) (code f : Nat) : State := s.haspData dest code f (zeros 128)
/-- MIG_IN, and the answer that its partition is reserved; the function is here; a partition is refused; requirements; they
are met; an FLR is held; a fault after the switch; the stream failed or the migration is abandoned. -/
def hMIGIN : Nat := 0x23
def hDONE : Nat := 0xF0
def hREFUSED : Nat := 0xF1
def hREQS : Nat := 0xF2
def hMET : Nat := 0xF3
def hFLR : Nat := 0xF4
def hFAULT : Nat := 0xF5
def hOVER : Nat := 0xF6
/-- Bits of MIG_EVENT set, with a management event record of the bits that are set when one was clear (R44, R149). -/
def State.migEvent (s : State) (bit : Nat) : State :=
  let m := s.mig
  if m.event.getLsbD bit then s
  else
    let e := m.event ||| BitVec.ofNat 7 (2 ^ bit)
    ({ s with mig := { m with event := e } } : State).record 0x170010 (e.setWidth 32)
def evDONE : Nat := 0
def evREFUSED : Nat := 1
def evABORTED : Nat := 2
def evRETURNED : Nat := 3
def evSTOPLATE : Nat := 4
def evCKPT : Nat := 5
def evMAXSTOP : Nat := 6

/-! ## Old homes (R65, R66) -/

/-- HOLD of an entry set or cleared, and its EPOCH (R49). -/
def vtSetHold (e : BitVec 128) (h : Bool) : BitVec 128 :=
  let e := e &&& ~~~(BitVec.ofNat 128 (2 ^ 61))
  if h then e ||| BitVec.ofNat 128 (2 ^ 61) else e
def vtSetEpoch (e : BitVec 128) (ep : BitVec 16) : BitVec 128 :=
  (e &&& ~~~(BitVec.ofNat 128 (0xFFFF * 2 ^ 32))) ||| BitVec.ofNat 128 (ep.toNat * 2 ^ 32)
/-- The entry by which an old home forwards: the update's, or the table's once it is written. -/
def State.newEntry (s : State) (vdn : BitVec 16) : BitVec 128 :=
  match s.vdnUpds.find? (fun u => u.vdn == vdn) with
  | some u => u.entry
  | none => tget 0 s.vdnTab vdn.toNat
/-- A packet sent on to the new home, marked as forwarded; none without a port. -/
def State.forward (s : State) (p : Packet) : Option State :=
  match s.egress (s.newEntry (BitVec.ofNat 16 p.vdn)) with
  | [] => none
  | port :: _ => some (s.portQueue port (opVc p.op) { p with fwd := true })
/-- The hold queue of a VDN forwarded in arrival order as far as a port is up. -/
def State.forwardHeld (s : State) (vdn : BitVec 16) : Nat → State
  | 0 => s
  | n + 1 => match s.holdq.find? (fun q => q.vdn == vdn.toNat) with
    | none => s
    | some q => match s.forward q with
      | some t => ({ t with holdq := t.holdq.erase q }).forwardHeld vdn n
      | none => s
def State.ackVdn (s : State) (u : VdnUpd) (status : Byte) : State :=
  s.sendMsg 7 { svdn := (s.func 0).vdn, daddr := u.src ++ (0 : BitVec 44), score := Config.haspScore, sclu := Config.haspScore, op := oACK
                w3 := u.vdn.setWidth 64, epoch := vtEpoch u.entry, status }
/-- A VDN_UPDATE. -/
def State.updatePacket (s : State) (dest vdn : BitVec 16) (entry : BitVec 128) : Packet :=
  { svdn := (s.func 0).vdn, daddr := dest ++ (0 : BitVec 44), score := Config.haspScore, sclu := Config.haspScore, op := oUPDATE
    w3 := vdn.setWidth 64, epoch := vtEpoch entry, len := 1, data := leBytes 16 entry.toNat }
/-- The destination's update of a VDN that has not been acknowledged is turned away: the entry stands as it was, and nothing
more is forwarded (R162). -/
def State.undoUpdate (s : State) (vdn : BitVec 16) : State :=
  let s := { s with fwdWin := s.fwdWin.filter (fun v => v != vdn) }
  match s.vdnUpds.find? (fun u => u.vdn == vdn) with
  | none => s
  | some u =>
    ({ s with vdnUpds := s.vdnUpds.filter (fun y => y.vdn != vdn)
              vdnTab := tput 0 s.vdnTab vdn.toNat (vtSetHold (tget 0 s.vdnTab vdn.toNat) false) } : State).ackVdn u stAccess

/-! ## What caches hold of a function (R165) -/

/-- Every L1 and home-slice line of a function dropped. -/
def State.dropLines (s : State) (f : Nat) : State :=
  let other (k : Nat × Option Sector) : Bool := match k.2 with | some x => x.func != f | none => false
  let cores : Tbl Core := s.cores.map (fun e => (e.1, { e.2 with l1 := e.2.l1.filter other }))
  { s with cores, l2 := s.l2.filter other }
/-- TLBs, walker caches, L1 and L2 hold nothing of a function. -/
def State.dropFunc (s : State) (f : Nat) : State :=
  let s := (s.dropLines f).dropXl (fun e => e.func == f)
  { s with pcache := (s.pcache.map (fun d => (d.1, d.2.filter (fun e => e.1 != f)))).filter (fun d => !d.2.isEmpty) }

/-! ## The source (R153 to R162) -/

/-- The hold at this home ends; what it held is to be executed here (R66, R159). -/
def State.unhold (s : State) (vdn : BitVec 16) : State := { s with homeHold := s.homeHold.filter (fun v => v != vdn) }
/-- Stops of a function's teams in progress are given up. -/
def State.releaseStops (s : State) (f : Nat) : State :=
  let teams : Tbl Team := s.teams.map (fun e => if e.2.func == f then (e.1, { e.2 with stopping := false }) else e)
  ({ s with teams } : State).endStops
/-- The outgoing operation is over and the dirty bits it holds are free; the function goes on unless it stays stopped, and a
reset held for it is applied (R109). -/
def State.endOut (s : State) (keep : Bool) : State :=
  let f := s.mig.func
  let fn := s.func f
  let held := s.mig.flrHeld
  let s := (s.undoUpdate fn.vdn).releaseStops f
  let s := s.setFunc f { s.func f with
    dirtyUse := if s.mig.dir == 1 then 0 else fn.dirtyUse, fetchOff := keep || fn.flr, placeOff := keep }
  let s := { s with mig := { s.mig with
    dir := 0, phase := 0, err := false, stopnow := false, accepted := false, switched := false, flrHeld := false } }
  let s := s.unhold fn.vdn
  if held then s.flrStart f else s
/-- The migration fails: with the point of no return behind it the function stays stopped and both devices report it; else
it is abandoned in phases 1 and 2 and the function returned later, and the destination releases its partition (R155,
R161). -/
def State.failOut (s : State) (bit : Nat) : State :=
  let m := s.mig
  if m.switched then (s.emit (.report 0x161)).hasp m.dest hFAULT m.func
  else
    let s := if m.dir == 1 then s.hasp m.dest hOVER m.func else s
    let r := s.mail.req
    let s := if m.dir == 1 && m.phase == 0 && s.mail.busy then s.answer r mBUSY else s
    (s.endOut false).migEvent (if m.phase ≤ 2 then evABORTED else bit)
/-- The requests of a mailbox word that start an outgoing operation. -/
def State.busyOut (s : State) (f : Nat) : Bool := s.mig.dir != 0 || (s.func f).flr || (s.func f).dirtyUse != 0 || s.mig.inFunc == some f
/-- A rectangle as R98 encodes it. -/
def rectWordOf (r : Rect) : Nat :=
  2 ^ 31 + r.die * 2 ^ 24 + r.row * 2 ^ 20 + r.col * 2 ^ 16 + (r.rows - 1) * 2 ^ 8 + (r.cols - 1)
/-- The MIG_IN a source sends: the function with its quota and rectangles, and its own PF0's VDN (R148, R153). -/
def State.migInReq (s : State) (f : Nat) : MailReq :=
  let fn := s.func f
  BitVec.ofNat 1024 (hMIGIN + f * 2 ^ 8 + fn.quota * 2 ^ 32 +
    (fn.rects.zipIdx.map (fun e => rectWordOf e.1 * 2 ^ (64 + 32 * e.2))).foldl (· + ·) 0 + (s.func 0).vdn.toNat * 2 ^ 576)
/-- MIG_OUT: checked, the dirty bits claimed, and the destination asked for a partition; the answer comes with its reply. -/
def State.migOut (s : State) (r : MailReq) : State :=
  let f := mailFunc r
  let dest := BitVec.ofNat 16 (mailWord r 1)
  let ports := BitVec.ofNat 18 (mailWord r 3)
  let w2 := mailWord r 2
  if s.mig.dir == 1 && s.mig.func == f && s.mig.phase == 0 then s
  else if f == 0 || !s.enabled f then s.answer r mNOFUNC
  else if s.busyOut f then s.answer r mBUSY
  else if !vtValid (tget 0 s.vdnTab dest.toNat) || ports == 0 then s.answer r mREFUSED
  else
    let s := s.setFunc f { s.func f with dirtyUse := 1 }
    let s := { s with mig := { s.mig with
      func := f, dir := 1, phase := 0, pass := 0, resid := 0, dest, stopblk := w2 % 2 ^ 32, maxpass := bits w2 32 8, ports
      stopnow := false, accepted := false, switched := false, pos := 0, err := false } }
    s.haspData dest hMIGIN f (leBytes 128 (s.migInReq f).toNat)
/-- The destination has reserved a partition. -/
def State.destReady (s : State) : State :=
  if s.mig.dir == 1 && s.mig.phase == 0 then
    { s with mig := { s.mig with phase := 1 } }.answer s.mail.req mOK
  else s
/-- The destination has not answered MIG_IN. -/
def State.noDest (s : State) (f : Nat) : State :=
  if s.mig.dir == 1 && s.mig.phase == 0 && s.mig.func == f then
    let r := s.mail.req
    ((s.hasp s.mig.dest hOVER f).endOut false).answer r mNODEST
  else s
/-- A pass of phase 1 ends (R153, R156): the stop decision where it is due, and the requirements sent (R157). -/
def State.passEnd (s : State) (f : Nat) : State :=
  let m := s.mig
  if m.dir != 1 || m.phase != 1 || m.func != f then s
  else if m.err then s.failOut evABORTED
  else
    let r := s.copyPass f (m.pass == 0)
    let s := r.1.streamOut 0 (recHdr 3 1 0 0)
    let pass := satInc m.pass
    let s := { s with mig := { s.mig with pass, resid := BitVec.ofNat 32 r.2 } }
    let below := decide (r.2 ≤ m.stopblk) || m.stopnow
    let last := m.maxpass != 0 && decide (m.maxpass ≤ pass.toNat)
    if !below && !last then s
    else
      let s := if below then s else s.migEvent evMAXSTOP
      let s := s.setFunc f { s.func f with placeOff := true }
      let s := { s with mig := { s.mig with phase := 2, accepted := false } }
      (s.haspData m.dest hREQS f (openBytes 0x157 128 (reqFields (s.reqsOf f)))).emit (.report 0x157)
/-- MIG_STOPNOW. -/
def State.stopNow (s : State) (r : MailReq) : State :=
  if s.mig.dir == 1 && s.mig.func == mailFunc r && s.mig.phase == 1 then
    { s with mig := { s.mig with stopnow := true } }.answer r mOK
  else s.answer r mREFUSED
/-- MIG_ABORT of a migration that has not reached its switch. -/
def State.migAbort (s : State) (r : MailReq) : State :=
  if s.mig.dir == 1 && s.mig.func == mailFunc r && decide (s.mig.phase ≤ 5) then (s.failOut evABORTED).answer r mOK
  else s.answer r mREFUSED
/-- Quiesce begins: the home holds, fetch stops and every team stops (R159); teams saved before stay pre-empted ones. -/
def State.quiesce (s : State) (f : Nat) : State :=
  let fn := s.func f
  let s := s.setFunc f { fn with fetchOff := true, placeOff := true }
  let s := { s with mig := { s.mig with phase := 3 }, homeHold := if s.homeHold.contains fn.vdn then s.homeHold else fn.vdn :: s.homeHold
                    savedTeams := s.savedTeams.map (fun (x : SavedTeam) => if x.team.func == f then { x with score := none } else x) }
  s.stopTeams (s.teamsOf (fun _ t => t.func == f && !t.term))
/-- Quiesce begins once the pre-check is accepted and no tier move of the function is in progress (R153). -/
def State.quiesceDue (s : State) : State :=
  let m := s.mig
  if m.dir == 1 && m.phase == 2 && m.accepted && !s.tiers.any (fun t => t.func == m.func) then s.quiesce m.func else s
/-- The destination's answer to the pre-check at the source (R158). -/
def State.preAnswer (s : State) (ok : Bool) : State :=
  if s.mig.dir != 1 || s.mig.phase != 2 then s
  else if s.mig.err then s.failOut evABORTED
  else if ok then { s with mig := { s.mig with accepted := true } }.quiesceDue
  else (s.endOut false).migEvent evREFUSED
/-- Every local request of the function has its response but those of frozen streams, and its caches are clean. -/
def State.drained (s : State) (f : Nat) : Bool :=
  s.streams.all (fun x => !(x.out ++ (if x.freeze.isSome then [] else x.queue)).any (fun y => y.1.sfunc.toNat == f && (match y.2 with
    | .stream _ => false
    | _ => true))) && !s.heldIds.any (fun y => y.1.sfunc.toNat == f)
/-- Some request of the stream is without a response. -/
def State.streaming (s : State) : Bool :=
  s.streams.any (fun x => (x.out ++ x.queue).any (fun y => match y.2 with | .stream _ => true | _ => false))
/-- Commands fetched and not started stay in their rings: QHEAD goes back to the first (R159, R166). -/
def Queue.unfetch (x : Queue) : Queue :=
  match x.cmds.find? (fun c => !c.started) with
  | none => x
  | some c => { x with head := BitVec.ofNat 32 c.slot, cmds := x.cmds.filter (fun c => c.started) }
/-- What a function's stage-2 tables hold, as addresses and descriptors. -/
def State.s2Fields (s : State) (f : Nat) : List Nat → Nat → List Nat
  | [], _ => []
  | _ :: rest, tbl => (upto 8192).flatMap (fun i =>
      let d := s.desc 0 f (tbl + 8 * i)
      if !bitOf d 0 then []
      else [tbl + 8 * i, d] ++ (if bitOf d 1 then [] else s.s2Fields f rest (bits d 16 24 * 65536)))
/-- Hasp's monitor records: the stage-2 tables, the placement map and the partition record (R160). -/
def State.monitor (s : State) (f : Nat) : List Byte :=
  let fn := s.func f
  let part := [fn.quota, fn.vdn.toNat, fn.s2root, fn.weight, fn.rects.length] ++ fn.rects.map rectWordOf
  let fields := part ++ [fn.place.length] ++ fn.place.flatMap (fun e => [e.1, e.2.toNat]) ++ s.s2Fields f [1, 2, 3] fn.s2root
  openBytes 0x160 ((fields.length / 8192 + 1) * 65536) fields
/-- Phase 4 begins (R160, R169): nothing of the function is left in a cache, and the NSI goes out, from a migration with
Hasp's records after it. -/
def State.ship (s : State) (f : Nat) : State :=
  let s := s.dropFunc f
  let s := s.setFunc f { s.func f with queues := (s.func f).queues.map (fun e => (e.1, e.2.unfetch)) }
  let b := padUnits (s.nsi f)
  let s := s.streamOut 0 (recHdr 3 2 (b.length / 65536) 0 ++ b)
  let s := if s.mig.dir == 1 then
      let m := s.monitor f
      s.streamOut 0 (recHdr 3 3 (m.length / 65536) 0 ++ m)
    else s
  { s with mig := { s.mig with phase := 4, blocks := 0 } }
/-- The blocks of a checkpoint from where it stands, and its end: a block that a pool node holds is read first (R169). -/
def State.imageBlocks (s : State) (f : Nat) : List (Nat × W64) → State
  | [] => ({ s with mig := { s.mig with phase := 5 } } : State).streamOut 0 (recHdr 3 4 0 0)
  | e :: es =>
    let at_ := plLoc e.2 + e.1 % 16 * 4096
    let l := if plPool e.2 then Loc.pool at_ else .home at_
    let next (s : State) : State := { s with mig := { s.mig with blocks := s.mig.blocks + 1 } }
    if !plV e.2 then (next s).imageBlocks f es
    else match s.locBytes l 4096 with
      | none => s.askSectors 0 f 0 l 4096
      | some d => (next (s.streamOut (if plPool e.2 then 0 else homeDie at_) (recHdr 0 0 0 e.1 ++ d))).imageBlocks f es
/-- Phase 4 ends once what was shipped is answered: a migration goes on with its final copy, a checkpoint with the
partition's blocks. -/
def State.shipped (s : State) : State :=
  let m := s.mig
  if m.phase != 4 || s.streaming then s
  else if m.err then s.failOut evRETURNED
  else if m.dir == 1 then { s with mig := { m with phase := 5 } }
  else s.imageBlocks m.func ((s.partBlocks m.func).drop m.blocks)
/-- Quiesce as far as it is (R159): every team saved, what the device itself was to write written, every cache written back
and every request answered; then phase 4. -/
def State.quiesced (s : State) (f : Nat) : State :=
  let m := s.mig
  if m.func != f || !(m.dir == 1 || m.dir == 3) then s
  else if m.phase == 2 then s.quiesceDue
  else if m.phase == 4 then s.shipped
  else if m.phase != 3 then s
  else if m.err then s.failOut evRETURNED
  else if !(s.teamsOf (fun _ t => t.func == f)).isEmpty || s.owed.any (fun o => o.func == f) then s
  else
    let s := (s.publish f).l2Flush 0 (fun _ x => x.func == f) false
    if s.drained f then s.ship f else s
/-- Quiesce misses its limit: the function is released as it stands (R159), and a reset held for it abandons the migration
(R109). -/
def State.stopLate (s : State) (f : Nat) : State :=
  let m := s.mig
  if m.phase != 3 || m.func != f then s
  else
    let s := s.migEvent evSTOPLATE
    if m.dir != 1 then s.endOut false
    else
      let fn := s.func f
      let s := (s.setFunc f { fn with fetchOff := fn.flr, placeOff := false }).releaseStops f
      let s := s.unhold fn.vdn
      let s := { s with mig := { s.mig with phase := 1, accepted := false } }
      if m.flrHeld then s.failOut evABORTED else s
/-- Phase 5 ends: one pass and the end of the stream; a checkpoint is done once its writes are acknowledged (R160, R169). -/
def State.finalCopy (s : State) (f : Nat) : State :=
  let m := s.mig
  if m.phase != 5 || m.func != f then s
  else if m.err then s.failOut evRETURNED
  else if m.dir == 1 then
    let r := s.copyPass f false
    let s := r.1.streamOut 0 (recHdr 3 4 0 0)
    { s with mig := { s.mig with phase := 6, resid := BitVec.ofNat 32 r.2 } }
  else if s.streaming then s
  else (s.endOut m.keep).migEvent evCKPT
/-- The destination stops answering (R161). -/
def State.destTimeout (s : State) (f : Nat) : State :=
  if s.mig.dir == 1 && s.mig.func == f && s.mig.phase != 0 && decide (s.mig.phase ≤ 6) then s.failOut evRETURNED else s
/-- DONE from the destination: the blackout noted, cores scrubbed and memory released (R163); pages in the pool are the
destination's now. The window of the old home stays open as long as it is. -/
def State.outDone (s : State) (micros : W32) : State :=
  let f := s.mig.func
  if s.mig.dir != 1 || !s.mig.switched then s
  else
    let fn := s.func f
    let ids := (s.launches.filter (fun l => l.func == f)).map (fun l => l.id)
    let s := { s with
      launches := s.launches.filter (fun l => l.func != f), savedTeams := s.savedTeams.filter (fun x => !ids.contains x.launch)
      graphs := s.graphs.filter (fun g => g.func != f), keys := s.keys.filter (fun k => k.func != f)
      earlySegs := s.earlySegs.filter (fun e => e.1 != f) }
    let s := (s.coresOf f).foldl (fun s c => s.beginScrub c) s
    let s := (s.setFunc f { s.func f with place := fn.place.filter (fun e => !plPool e.2) }).clearMemory f
    let s := s.setFunc f { vfOn := fn.vfOn, weight := fn.weight, ctime := fn.ctime, cfg := fn.cfg }
    let open_ := s.fwdWin.contains fn.vdn
    { s with mig := { s.mig with
      dir := if open_ then 1 else 0, phase := if open_ then 8 else 0, switched := false, flrHeld := false, black := micros } }.migEvent evDONE

/-! ## The destination (R148, R158, R162, R163) -/

/-- Why MIG_IN is refused. -/
def State.migInRefusal (s : State) (r : MailReq) : Option Byte :=
  let f := mailFunc r
  let fn := s.func f
  if f == 0 || !fn.vfOn then some mNOFUNC
  else if s.mig.inFunc.isSome || fn.part || fn.flr then some mBUSY
  else s.rectRefusal f r
/-- A partition reserved for a function to come, and its source told; PF0's teams on its cores stop as in a resize (R110). Its
VDN leads here only from the switch on. -/
def State.reserveIn (s : State) (r : MailReq) : State :=
  let f := mailFunc r
  let src := BitVec.ofNat 16 (mailWord r 9)
  let rs := (rectWords r).map rectOf
  let s := s.emptyOut (s.displaced f rs)
  let s := s.giveMemory f (mailQuota r)
  let s := s.setFunc f { s.func f with rects := rs, s2root := s.inp.k, fetchOff := true, placeOff := true }
  let s := { s with mig := { s.mig with inFunc := some f, inVdn := s.inp.vdn, inSrc := src, inPos := 0, inAhead := [], inBytes := []
                                        inNsi := [], inMon := [], inEnd := false, inPhase := 1, inFlr := false } }
  s.hasp src hMIGIN f
/-- MIG_IN from PF0. -/
def State.migIn (s : State) (r : MailReq) : State :=
  match s.migInRefusal r with
  | some st => s.answer r st
  | none => (s.reserveIn r).answer r mOK
/-- The incoming partition is released. -/
def State.dropIn (s : State) : State :=
  match s.mig.inFunc with
  | none => s
  | some f =>
    let s := s.clearMemory f
    let s := s.setFunc f { s.func f with rects := [], fetchOff := false, placeOff := false, part := false }
    { s with vdnOut := s.vdnOut.filter (fun o => o.vdn != s.mig.inVdn)
             mig := { s.mig with inFunc := none, inEnd := false, inBytes := [], inAhead := [], inPhase := 0, inFlr := false } }
/-- The stream has failed: the source is told, and the partition released (R155). -/
def State.failIn (s : State) (code : Nat) : State :=
  match s.mig.inFunc with
  | none => s
  | some f => (s.hasp s.mig.inSrc code f).dropIn
/-- A part's requirements are met by a partition (R158). -/
def State.reqsOk (s : State) (f : Nat) (r : Requirements) : Bool :=
  r.w == 5 && decide (r.cwid ≤ 8) && decide (r.quota ≤ (s.func f).quota) &&
  r.shapes.all (fun x => (upto 576).any (fun o => match s.shapeAt f o x.cx x.cy with
    | some cs => cs.all (fun c =>
        let u := s.usage c
        decide (u.groups.length + x.slots ≤ 64) && decide (u.tiles + x.tiles ≤ 256) && decide (u.banks + x.banks ≤ 31) &&
        decide (u.bars + x.bars ≤ 64))
    | none => false))
/-- MIG_PRECHECK: the destination checks what the source's message says and answers it, or the source has its answer. -/
def State.precheck (s : State) (r : Requirements) (answer : Option Bool) : State :=
  match answer with
  | some ok => s.preAnswer ok
  | none => match s.mig.inFunc with
    | none => s
    | some f =>
      if s.reqsOk f r then ({ s with mig := { s.mig with inPhase := 2 } } : State).hasp s.mig.inSrc hMET f else s.failIn hREFUSED
/-- Bytes of the stream that are next in order taken from those that came ahead. -/
def State.pullAhead (s : State) : Nat → State
  | 0 => s
  | n + 1 => match s.mig.inAhead.find? (fun e => e.1 == s.mig.inPos) with
    | none => s
    | some e => { s with mig := { s.mig with
        inPos := s.mig.inPos + e.2.length, inBytes := s.mig.inBytes ++ e.2
        inAhead := s.mig.inAhead.filter (fun x => x != e) } }.pullAhead n
/-- The update by which the partition moves here, its EPOCH one higher: to the source alone first (R162). -/
def State.switchStart (s : State) : State :=
  let vdn := s.mig.inVdn
  let entry := vtSetEpoch s.inp.upd.entry (vtEpoch (tget 0 s.vdnTab vdn.toNat) + 1)
  let out : VdnOut := { vdn, entry, first := some s.mig.inSrc, wait := []
                        later := (s.inp.members.getD []).filter (fun d => d != s.mig.inSrc) }
  let s := { s with vdnOut := s.vdnOut ++ [out], mig := { s.mig with inPhase := 6 } }
  s.sendMsg 7 (s.updatePacket s.mig.inSrc vdn entry)
/-- Stream bytes arrive (R155, R162); an error ends the reservation and is told to the source. -/
def State.streamIn (s : State) (p : Packet) : State :=
  match s.mig.inFunc with
  | none => s
  | some f =>
    if s.mig.inEnd || p.w3.toNat % 64 != f then s
    else
      let off := p.off
      let s := if off < s.mig.inPos % 2 ^ 44 then s
        else { s with mig := { s.mig with inAhead := s.mig.inAhead ++ [(off + s.mig.inPos / 2 ^ 44 * 2 ^ 44, p.data)] } }
      let s := s.pullAhead (s.mig.inAhead.length + 1)
      match s.recsIn f (s.mig.inBytes.length + 1) with
      | none => s.failIn hOVER
      | some s =>
        if !s.mig.inEnd then s
        else
          let b := s.mig.inNsi
          let len := atB b 0x18 8
          if atB b 0x40 48 == (Config.sha384 ((b.take len).drop 256)).toNat then s.switchStart
          else s.failIn hOVER
/-- The source has passed the point of no return: the function is here (R162). -/
def State.homeHere (s : State) : State :=
  match s.mig.inFunc with
  | none => s
  | some f =>
    let fn := s.func f
    s.setFunc f { fn with part := true, vdn := s.mig.inVdn
                          place := (Config.imagePlaces s.mig.inMon).foldl (fun t e => if plPool e.2 then tput 0 t e.1 e.2 else t) fn.place }

/-! ## Resume (R163, R165, R170) -/

/-- The records of an image become the function's launches, graph runs, saved teams, queues and keys, and the value last
passed on its order chain; teams that were on cores are marked with the core, to be loaded at once. -/
def State.loadImage (s : State) (f : Nat) (b : List Byte) : State :=
  let n := s.nextLaunch
  let m := s.nextSaved
  let owner : CopyRef → CopyRef
    | .queue _ q slot => .queue f q slot
    | .node r i => .node (n + r) i
  let ls := (Config.imageLaunches b).map (fun l =>
    { l with id := n + l.id, func := f, owner := owner l.owner, saved := l.saved.map (· + m), resident := [], startMs := s.ms })
  let gs := (Config.imageGraphs b).map (fun g => { g with id := n + g.id, func := f })
  let group (x : Nat) (g : (Nat × Group) × Nat) : Nat × Group :=
    let o := g.1.2
    let r := groupOf (b.drop (Config.imageAt b x g.2)) o.nreg
    (g.1.1, { r with
      acc := o.acc, nextId := o.nextId, wait := o.wait, saved := o.saved, strs := o.strs, edits := o.edits, impr := o.impr, park := o.park })
  let team (x : SavedTeam × Nat) : SavedTeam :=
    let t := x.1
    let tm := { t.team with func := f }
    { t with id := m + t.id, set := m + t.set, launch := n + t.launch, team := tm, groups := t.groups.zipIdx.map (group x.2) }
  let ts := (Config.imageTeams b).zipIdx.map team
  let qs : Tbl Queue := (upto 64).foldl (fun t q =>
    let r := queueOfBlock ((b.drop (256 + 64 * q)).take 64)
    tput {} t q { r with cmds := Config.imageCmds b q }) []
  let ks := (Config.imageKeys b).map (fun (k : KeyEnt) =>
    { k with func := f, desc := k.desc.map (fun d => { d with launch := n + d.launch }) })
  let top := (ls.map (fun l => l.id) ++ gs.map (fun g => g.id)).foldl max n
  let s := (s.dropFunc f).setFunc f { s.func f with queues := qs, passed := Config.imagePassed b }
  { s with
    launches := s.launches ++ ls, graphs := s.graphs ++ gs, savedTeams := s.savedTeams ++ ts, keys := s.keys ++ ks
    nextLaunch := top + 1, nextSaved := (ts.map (fun t => max t.id t.set)).foldl max m + 1 }
/-- The sets of a function's teams still to be put back where they ran. -/
def State.toLoad (s : State) (f : Nat) : List Nat :=
  distinct (((s.savedOf f).filter (fun x => x.score.isSome)).map (fun x => x.set))
/-- One set put on cores, where there is room for its clusters. -/
def State.loadSet (s : State) (k : Nat) : State :=
  match s.launches.find? (fun l => l.saved.contains k) with
  | none => { s with savedTeams := s.savedTeams.map (fun (x : SavedTeam) => if x.set == k then { x with score := none } else x) }
  | some l =>
    let l := { l with saved := k :: l.saved.filter (fun j => j != k) }
    let s := { s with launches := s.launches.map (fun (x : Launch) => if x.id == l.id then l else x) }
    match s.plan l with
    | some p => (s.carryBy l p some).1
    | none => s
def State.loadSeats (s : State) (f : Nat) : State := (s.toLoad f).foldl (fun s k => s.loadSet k) s

/-! ## Checkpoint and restore (R169, R170) -/

def State.ckpt (s : State) (r : MailReq) : State :=
  let f := mailFunc r
  if f == 0 || !s.enabled f then s.answer r mNOFUNC
  else if s.busyOut f then s.answer r mBUSY
  else
    let s := { s with mig := { s.mig with
      func := f, dir := 3, phase := 2, tvdn := BitVec.ofNat 16 (mailWord r 1), toff := mailWord r 2 % 2 ^ 44, keep := bitOf (mailWord r 3) 0
      pos := 0, blocks := 0, err := false, switched := false, accepted := false } }
    (s.quiesce f).answer r mOK
/-- The image a restore names, with its NSI: read from the preserved regions; from a pool node by Hasp, whose reading the
event brings (log 43). -/
def State.imageAt (s : State) (f : Nat) (tvdn : BitVec 16) (toff : Nat) : Option (ImageInfo × List Byte) :=
  if tvdn != 0xFFFF then some (s.inp.img, s.inp.bytes)
  else
    let read (o n : Nat) : Option (List Byte) :=
      let as := (upto n).map (fun i => s.preservedAt (o + i))
      if as.all Option.isSome then some (as.map (fun a => byteAt s.mem (a.getD 0))) else none
    (readImage read ((s.func f).quotaBytes / 4096 + 3) toff [] []).map (fun x =>
      let b := x.1
      let len := atB b 0x18 8
      ({ magic := BitVec.ofNat 32 (atB b 0 4), version := BitVec.ofNat 16 (atB b 4 2)
         digestOk := atB b 0x40 48 == (Config.sha384 ((b.take len).drop 256)).toNat && atB b 6 1 == 5
         maxNest := atB b 8 2, req := Config.imageReqs b, blocks := x.2 }, b))
/-- RESTORE: the image checked before anything changes, then its blocks and records; the function resumes as from a
migration. -/
def State.restore (s : State) (r : MailReq) : State :=
  let f := mailFunc r
  let idle := !s.launches.any (fun l => l.func == f) && (s.teamsOf (fun _ t => t.func == f)).isEmpty
  if f == 0 || !s.enabled f then s.answer r mNOFUNC
  else if s.busyOut f then s.answer r mBUSY
  else match s.imageAt f (BitVec.ofNat 16 (mailWord r 1)) (mailWord r 2 % 2 ^ 44) with
  | none => s.answer r mREFUSED
  | some (i, b) =>
    if !idle || i.magic != 0x4E534901 || i.version != 1 || !i.digestOk || decide (255 ≤ i.maxNest) || !s.reqsOk f i.req then
      s.answer r mREFUSED
    else match (s.dropFunc f).blocksIn f i.blocks with
      | none => s.answer r mREFUSED
      | some s =>
        let s := s.setFunc f { s.func f with fetchOff := true, placeOff := true }
        let s := s.loadImage f b
        ({ s with mig := { s.mig with func := f, dir := 3, phase := 7, keep := false, err := false, switched := false } } : State).answer r mOK
/-- A message from another Hasp (R52, R148, R161, R163); micros is the blackout on this device's clock. -/
def State.haspMsg (s : State) (p : Packet) (micros : W32) : State :=
  let code := p.w3.toNat % 256
  let f := bits p.w3.toNat 8 6
  let out := s.mig.dir == 1 && p.svdn == s.mig.dest && s.mig.func == f
  let here := s.mig.inFunc == some f && p.svdn == s.mig.inSrc
  if code == hMIGIN then
    (if out && s.mig.phase == 0 then s.destReady
     else
       let r : MailReq := BitVec.ofNat 1024 (leNat p.data)
       match s.migInRefusal r with
       | some _ => s.hasp p.svdn hREFUSED f
       | none => s.reserveIn r)
  else if code == hDONE then (if out then s.outDone micros else s)
  else if code == hREFUSED then
    (if !out then s
     else if s.mig.phase == 0 then (let r := s.mail.req; (s.endOut false).answer r mREFUSED)
     else s.preAnswer false)
  else if code == hMET then (if out then s.preAnswer true else s)
  else if code == hFLR then (if here then { s with mig := { s.mig with inFlr := true } } else s)
  else if code == hFAULT then (if out || here then s.emit (.report 0x161) else s)
  else if code == hOVER then (if out then s.failOut evRETURNED else if here then s.dropIn else s)
  else s

/-! ## Function resets (R106 to R109) -/

/-- The FLR point: before a migration's stop phase the migration is abandoned, from then on the reset is held, and the
destination told. DESIGN CHOICE (log 43): a reset during a checkpoint or a restore is held until it is over. -/
def State.flr (s : State) (f : Nat) : State :=
  let m := s.mig
  if (s.func f).flr || (f != 0 && !(s.func f).vfOn) then s
  else if m.inFunc == some f then { s with mig := { m with inFlr := true } }
  else if m.func == f && m.dir == 1 && decide (m.phase < 3) then (s.failOut evABORTED).flrStart f
  else if m.func == f && (m.dir == 1 || m.dir == 3) && decide (m.phase < 8) then
    let s := { s with mig := { m with flrHeld := true } }
    if m.dir == 1 then s.hasp m.dest hFLR f else s
  else s.flrStart f
/-- Steps 3 to 5 of R107: every request answered, then the queues and the debug state as at reset. -/
def State.flrDone (s : State) (f : Nat) : State :=
  let fn := s.func f
  let mine := s.streams.any (fun x => (x.out ++ x.queue).any (fun y => y.1.sfunc.toNat == f)) ||
    s.heldIds.any (fun y => y.1.sfunc.toNat == f)
  if !fn.flr || mine || !(s.teamsOf (fun _ t => t.func == f)).isEmpty then s
  else s.setFunc f { fn with flr := false, fetchOff := false, placeOff := fn.placeOff && s.mail.busy, queues := [], probex := {}, holder := none
                             dirtyUse := if fn.dirtyUse == 2 then 0 else fn.dirtyUse }

def execMigOut (s : State) : Host.Outcome State Fault Refusal := .next (s.onMail 0x20 (fun s r => s.migOut r))
def execMigStopnow (s : State) : Host.Outcome State Fault Refusal := .next (s.onMail 0x21 (fun s r => s.stopNow r))
def execMigAbort (s : State) : Host.Outcome State Fault Refusal := .next (s.onMail 0x22 (fun s r => s.migAbort r))
def execMigIn (s : State) : Host.Outcome State Fault Refusal := .next (s.onMail 0x23 (fun s r => s.migIn r))
def execNodest (s : State) : Host.Outcome State Fault Refusal := .next (s.noDest s.inp.func)
def execCkpt (s : State) : Host.Outcome State Fault Refusal := .next (s.onMail 0x28 (fun s r => s.ckpt r))
def execPrecopyPassEnd (s : State) : Host.Outcome State Fault Refusal := .next (s.passEnd s.inp.func)
def execMigPrecheck (s : State) : Host.Outcome State Fault Refusal := .next (s.precheck s.inp.reqs s.inp.answer)
def execQuiesceDone (s : State) : Host.Outcome State Fault Refusal := .next (s.quiesced s.inp.func)
def execStoplate (s : State) : Host.Outcome State Fault Refusal := .next (s.stopLate s.inp.func)
def execFinalCopyDone (s : State) : Host.Outcome State Fault Refusal := .next (s.finalCopy s.inp.func)
def execMigDestTimeout (s : State) : Host.Outcome State Fault Refusal := .next (s.destTimeout s.inp.func)
def execFlr (s : State) : Host.Outcome State Fault Refusal := .next (s.flr s.inp.func)
def execFlrComplete (s : State) : Host.Outcome State Fault Refusal := .next (s.flrDone s.inp.func)

end Sys2Proof.Machine
end

