-- ==== Sys2Proof/Machine/Probex.lean ====
section
/-! DEFINITION. Probex (R290 to R305): rights, halts and edits of groups, causal trials, replay sessions and passes,
revocation; and the small events of a core's schedulers (R61, R191, R264, R405, R411). -/

namespace Sys2Proof.Machine

/-! ## Schedulers -/

/-- A group ready and not issued for 64 clocks wins its slot (R191). -/
def State.starveWin (s : State) (c slot : Nat) : State :=
  match (s.slotReady c slot).find? (fun p => decide (64 ≤ (s.group c p).starve)) with
  | some p => { s with cur := { core := c, gs := p, go := true } }
  | none => s
/-- The delay of a YIELD is over (R405). -/
def State.yieldEnd (s : State) (c p : Nat) : State :=
  let g := s.group c p
  if g.yieldClk == 1 then s.setGroup c p { g with yieldClk := 0 } else s
/-- A causal delay is over (R301). -/
def State.causalEnd (s : State) (c p : Nat) : State :=
  let g := s.group c p
  if g.causalClk == 1 then s.setGroup c p { g with causalClk := 0 } else s
/-- An imprecise fault of a kind is taken where the group is at a boundary and its core issues (R61, R411). -/
def State.deliverAt (s : State) (c p : Nat) (kind : Imprecise → Bool) : State :=
  let g := s.group c p
  if g.ready && !g.tm && !(s.core c).stop && !(s.team c g.team).term && (!g.allExited || s.exitsNext c p) then s.deliver c p kind else s

/-! ## Rights (R290, R304) -/

/-- The groups of a function's debug context. -/
def State.debugGroups (s : State) (f : Nat) : List (Nat × Nat) :=
  match (s.func f).probex.rights with
  | some (ctx, _) => (s.groups.filter (fun e => e.2.live && (s.team (e.1 / 64) e.2.team).func == f &&
      (s.team (e.1 / 64) e.2.team).ctx == ctx)).map (fun e => (e.1 / 64, e.1 % 64))
  | none => []
/-- A request about Probex can be taken: the function is there and is neither reset nor moving. -/
def State.probexBar (s : State) (f : Nat) : Option Byte :=
  if f == 0 || !s.enabled f then some mNOFUNC
  else if (s.func f).flr || s.migrating f then some mBUSY
  else none
def State.dbgGrant (s : State) (r : MailReq) : State :=
  let f := mailFunc r
  let ctx := bits (mailWord r 1) 0 8
  let x := (s.func f).probex
  match s.probexBar f with
  | some st => s.answer r st
  | none => match x.rights with
    | some (c, _) =>
      if c != ctx then s.answer r mBUSY
      else (s.setProbex f { x with rights := some (ctx, BitVec.ofNat 6 (bits (mailWord r 1) 8 6)) }).answer r mOK
    | none => (s.setProbex f { x with rights := some (ctx, BitVec.ofNat 6 (bits (mailWord r 1) 8 6)) }).answer r mOK
/-- A halted group goes on with its word, which matches no breakpoint again (R291). -/
def Group.release (g : Group) : Group := if g.halted then { g with halted := false, relHalt := true } else g
def State.releaseAll (s : State) (f : Nat) : State :=
  (s.debugGroups f).foldl (fun s x => s.setGroup x.1 x.2 (s.group x.1 x.2).release) s
/-- A session is closed and the dirty bits are released. -/
def State.closeSession (s : State) (f : Nat) : State :=
  let fn := s.func f
  let x := fn.probex
  let x := { x with session := none, snap := [], openRuns := [], log := [], left := [], enforce := false, pass := false, ending := false, passNo := 0 }
  s.setFunc f { fn with dirtyUse := if fn.dirtyUse == 2 then 0 else fn.dirtyUse, probex := x }
/-- Pending edits kept with the saved teams of a function. -/
def State.editsKept (s : State) (f : Nat) : Nat :=
  (s.savedTeams.filter (fun x => x.team.func == f)).foldl (fun (n : Nat) x =>
    x.groups.foldl (fun (n : Nat) g => n + g.2.edits.length) n) 0
/-- Every right is withdrawn (R304). -/
def State.dbgRevoke (s : State) (r : MailReq) : State :=
  let f := mailFunc r
  if f == 0 || !s.enabled f then s.answer r mNOFUNC
  else
    let s := s.releaseAll f
    let x := (s.func f).probex
    let had : Nat × Nat := match x.rights with | some (c, b) => (c, b.toNat) | none => (0, 0)
    let kept := s.editsKept f
    let s := s.tbRecord f had.1 0 0x0F 1 [had.2, kept] true
    let s := s.tbRecord f had.1 1 0x0F 1 [had.2, kept] true
    let s := s.closeSession f
    let x := (s.func f).probex
    let off (t : Tbl W32) (i : Nat) : Tbl W32 := tput 0 t i (tget 0 t i &&& 0x7FFFFFFF)
    (s.setProbex f { x with rights := none, trial := false, bp := (upto 16).foldl off x.bp, tbCtrl := (upto 2).foldl off x.tbCtrl }).answer r mOK

/-! ## Halts and edits (R292, R293) -/

/-- The group stands before a word it has come to. -/
def Group.atWord (g : Group) : Bool :=
  g.wait.isNone && g.pend.isNone && g.cstat.isNone && g.dread.isNone && g.impr.isEmpty && g.woff != 0 && decide (g.woff < g.blen)
/-- ALL: each group of the context halts, those inside a wait once they reach a boundary. -/
def State.haltAll (s : State) (f : Nat) : State :=
  if !s.holds f rHALT then s
  else (s.debugGroups f).foldl (fun s x =>
    let g := s.group x.1 x.2
    if g.halted then s
    else if g.atWord then s.halt x.1 x.2
    else s.setGroup x.1 x.2 { g with haltReq := true }) s
def State.haltRelease (s : State) (f : Nat) : State := if s.holds f rHALT then s.releaseAll f else s
/-- CORE and GSLOT of a PRB_HALT write. -/
def State.haltFields (s : State) (f : Nat) (v : W32) : State :=
  let x := (s.func f).probex
  if s.holds f rHALT then s.setProbex f { x with haltCore := bits v.toNat 16 10, haltGs := bits v.toNat 0 6 } else s
/-- ONE: the group named is released. -/
def State.haltOne (s : State) (f : Nat) (v : W32) : State :=
  let s := s.haltFields f v
  let x := (s.func f).probex
  if s.holds f rHALT && (s.debugGroups f).contains (x.haltCore, x.haltGs) then
    s.setGroup x.haltCore x.haltGs (s.group x.haltCore x.haltGs).release
  else s
/-- The saved team that holds the group of a core and slot. -/
def State.savedAt (s : State) (f ctx c gs : Nat) : Option SavedTeam :=
  (s.savedTeams.filter (fun x => x.team.func == f && x.team.ctx == ctx && x.core == c && x.groups.any (fun g => g.1 == gs))).getLast?
/-- PRB_EDIT with GO: an edit made at once, kept with a saved group, or refused. -/
def State.prbEdit (s : State) (f : Nat) (v : W32) : State :=
  let x := (s.func f).probex
  match x.rights with
  | none => s
  | some (ctx, r) =>
    if !r.getLsbD rEDIT then s
    else
      let e : Edit := { kind := v.extractLsb' 26 2, reg := v.extractLsb' 8 8, lane := v.extractLsb' 0 7, val := x.eval }
      let x := { x with editKind := e.kind, editReg := e.reg, editLane := e.lane }
      let done (s : State) (st : BitVec 2) : State := s.setProbex f { (s.func f).probex with editStat := st }
      let s := s.setProbex f x
      let c := x.haltCore
      let p := x.haltGs
      if (s.debugGroups f).contains (c, p) then
        let g := s.group c p
        if g.halted then done (s.setGroup c p (g.applyEdit e)) 0 else done s 3
      else match s.savedAt f ctx c p with
        | none => done s 3
        | some t => match t.groups.find? (fun g => g.1 == p) with
          | none => done s 3
          | some g =>
            if !g.2.halted then done s 3
            else if 15 ≤ g.2.edits.length then done s 2
            else
              let gs := t.groups.map (fun (y : Nat × Group) => if y.1 == p then (y.1, { y.2 with edits := y.2.edits ++ [e] }) else y)
              done { s with savedTeams := s.savedTeams.map (fun (y : SavedTeam) => if y.id == t.id then { y with groups := gs } else y) } 1

/-! ## Buffers and trials (R297, R301) -/

/-- TB_WPTR written: WRAP and OFFSET, whose bits 4:0 are zero. Software writes only zero (R295), and a full buffer then takes
records again; DESIGN CHOICE (log 44): so it does after any other write. -/
def State.wptrWrite (s : State) (f b : Nat) (v : W32) : State :=
  let x := (s.func f).probex
  if b < 2 && s.holds f rTRACE then
    s.setProbex f { x with tbWptr := tput 0 x.tbWptr b (v &&& 0xBFFFFFE0), tbFull := tput false x.tbFull b false }
  else s
def State.causalStart (s : State) (f : Nat) : State :=
  if s.holds f rPROF then s.setProbex f { (s.func f).probex with prog := [], trial := true } else s
/-- STOP: the trial record, with the clocks counted on die 0's control complex. -/
def State.causalStop (s : State) (f : Nat) (clocks : W64) : State :=
  let x := (s.func f).probex
  match x.rights with
  | some (ctx, r) =>
    if !x.trial || !r.getLsbD rPROF then s
    else (s.setProbex f { x with trial := false }).tbRecord f ctx 0 6 3
      ([x.causalLo, x.causalHi, x.causalDly, clocks.toNat] ++ (upto 8).map (fun i => (tget 0 x.prog i).toNat)) false
  | none => s

/-! ## Replay sessions (R299, R300, R303) -/

/-- The function has no running work. -/
def State.idle (s : State) (f : Nat) : Bool :=
  !s.launches.any (fun l => l.func == f) && !s.graphs.any (fun g => g.func == f) && (s.teamsOf (fun _ t => t.func == f)).isEmpty
/-- The place of a block of a partition. -/
def blockLoc (e : Nat × W64) : Loc :=
  if plPool e.2 then .pool (plLoc e.2 + e.1 % 16 * 4096) else .home (plLoc e.2 + e.1 % 16 * 4096)
/-- The blocks of a partition that have a place. -/
def State.blocksOf (s : State) (f : Nat) : List (Nat × Loc) :=
  ((s.partBlocks f).filter (fun e => plV e.2)).map (fun e => (e.1, blockLoc e))
/-- Bytes of a snapshot written at a target: a pool node, or preserved HBM. -/
def State.snapWrite (s : State) (tvdn : BitVec 16) (at_ : Nat) (b : List Byte) : State :=
  if tvdn == 0xFFFF then (match s.preservedAt at_ with
    | some pa => s.homeWrite pa b
    | none => s)
  else (upto ((b.length + 255) / 256)).foldl (fun s i =>
    s.sendReq (pkWrite (s.preHdr 0) (tvdn.toNat * 2 ^ 44 + at_ + 256 * i) ((b.drop (256 * i)).take 256)) .forwarded) s
/-- PROF_BEGIN: a snapshot of every block, and the dirty bits held. -/
def State.profBegin (s : State) (r : MailReq) : State :=
  let f := mailFunc r
  match s.probexBar f with
  | some st => s.answer r st
  | none =>
    if !s.holds f rPROF || !s.idle f then s.answer r mREFUSED
    else if (s.func f).dirtyUse != 0 then s.answer r mBUSY
    else
      let s := s.publish f
      let bs := s.blocksOf f
      match bs.find? (fun e => (s.locBytes e.2 4096).isNone) with
      | some e => s.askSectors 0 f 0 e.2 4096
      | none =>
        let tvdn := BitVec.ofNat 16 (mailWord r 1)
        let toff := mailWord r 2 % 2 ^ 44
        let snap := bs.foldl (fun (t : Tbl (List Byte)) e => tput [] t e.1 ((s.locBytes e.2 4096).getD [])) []
        let s := bs.zipIdx.foldl (fun s e =>
          s.snapWrite tvdn (toff + 4104 * e.2) (recHdr 0 0 0 e.1.1 ++ tget [] snap e.1.1)) s
        let s := s.snapWrite tvdn (toff + 4104 * bs.length) (recHdr 3 4 0 0)
        let fn := s.func f
        let x := { fn.probex with session := some (tvdn, toff), snap := snap, passNo := 0, pass := false, noReplay := false, log := [], openRuns := [], left := [] }
        (s.setFunc f { fn with dirtyUse := 2, probex := x }).answer r mOK
/-- PROF_END. -/
def State.profEnd (s : State) (r : MailReq) : State :=
  let f := mailFunc r
  if f == 0 || !s.enabled f then s.answer r mNOFUNC
  else if (s.func f).probex.session.isNone then s.answer r mREFUSED
  else (s.closeSession f).answer r mOK
/-- The HBM blocks of a function, as block number and HBM block. -/
def State.homeBlocks (s : State) (f : Nat) : List (Nat × Nat) :=
  (s.blocksOf f).filterMap (fun e => match e.2 with | .home pa => some (e.1, pa / 4096) | _ => none)
/-- START (R303): dirty bits, counters and MISMATCH cleared, and logging or enforcement begun. -/
def State.passStart (s : State) (f : Nat) : State :=
  let x := (s.func f).probex
  if !s.holds f rPROF || x.session.isNone || x.pass then s
  else
    let mine := (s.homeBlocks f).map Prod.snd
    let s := { s with dirty := s.dirty.filter (fun e => !mine.contains e.1) }
    s.setProbex f { x with
      pass := true, pcnt := [], mismatch := false, openRuns := if x.passNo == 0 then [] else x.openRuns
      log := if x.passNo == 0 then [] else x.log, enforce := x.passNo != 0 && !x.noReplay, left := x.log }
/-- The HBM blocks of a range of the debug context. -/
def State.rangeBlocks (s : State) (f ctx : Nat) (va : W64) (n : Nat) : List Nat :=
  (upto (n / 4096)).filterMap (fun i =>
    match (s.translate 0 f ctx (va + BitVec.ofNat 64 (4096 * i)) 1).1 with
    | .ok e => match e.loc.add (bits (va.toNat + 4096 * i) 0 16) with
      | .home pa => some (pa / 4096)
      | _ => none
    | .error _ => none)
/-- Blocks of a session's own buffers, dump slots and log areas, which END leaves as they are. -/
def State.sessionBlocks (s : State) (f ctx : Nat) : List Nat :=
  let x := (s.func f).probex
  (upto 2).flatMap (fun b => s.rangeBlocks f ctx (tget 0 x.tbBase b) (4096 * max 1 (tget 1 x.tbSize b))) ++
  s.rangeBlocks f ctx x.dumpBase (65536 * x.dumpLimit) ++ s.rangeBlocks f ctx x.logBase (256 * 4096 * x.logSlice)
/-- What a pass leaves of its order (R300): runs still open are logged after pass 1; entries left over break the order. -/
def State.closeOrder (s : State) (f : Nat) : State :=
  let x := (s.func f).probex
  if x.passNo == 0 then
    let s := x.openRuns.foldl (fun s r => s.logRun f r) s
    s.setProbex f { (s.func f).probex with openRuns := [] }
  else match (if x.enforce then x.left.flatMap Prod.snd else []) with
    | [] => s
    | r :: _ => s.mismatch f r.1 r.2.1.toNat 0
/-- END (R303): while a team of the function runs it waits. -/
def State.passDone (s : State) (f : Nat) : State :=
  let x := (s.func f).probex
  match x.rights with
  | none => s
  | some (ctx, r) =>
    if !x.pass || !(r.getLsbD rPROF || x.ending) then s
    else if !(s.teamsOf (fun _ t => t.func == f)).isEmpty then s.setProbex f { x with ending := true }
    else
      let s := s.closeOrder f
      let s := s.publish f
      let s := s.l2Flush 0 (fun _ y => y.func == f) false
      let keep := s.sessionBlocks f ctx
      let set := (s.homeBlocks f).filter (fun e => tget false s.dirty e.2 && !keep.contains e.2)
      let s := { s with dirty := s.dirty.filter (fun e => !(set.any (fun b => b.2 == e.1))) }
      let s := set.foldl (fun s e => s.homeWrite (e.2 * 4096) (tget [] (s.func f).probex.snap e.1)) s
      let s := s.dropLines f
      let x := (s.func f).probex
      let s := s.tbRecord f ctx 0 7 2 ([x.passNo + 1, x.pcntSel.toNat] ++ (upto 4).map (fun i => (tget 0 x.pcnt i).toNat) ++
        [set.length, if x.mismatch then 1 else 0]) false
      s.setProbex f { (s.func f).probex with pass := false, ending := false, enforce := false, passNo := x.passNo + 1 }
/-- The passes whose END waits end where they can. -/
def State.endPasses (s : State) : State :=
  (s.funcs.filter (fun e => e.2.probex.ending)).foldl (fun s e => s.passDone e.1) s
/-- An atomic of the context that waits at a slice for its turn: its location and requester. -/
def State.atomWaits (s : State) (f slice : Nat) : Option (Nat × W32) :=
  (s.debugGroups f).findSome? (fun x => (s.group x.1 x.2).acc.findSome? (fun a =>
    let atomic := match a.op with | .atom _ | .red _ => true | _ => false
    if !atomic || a.scope.code.toNat < 3 then none
    else a.parts.findSome? (fun l => match locKey8 l.loc with
      | some k =>
        let id := s.requester x.1 x.2 l.lane
        if slice8 k == slice && (s.replayGate f (s.team x.1 (s.group x.1 x.2).team).ctx k id).isNone then some (k, id) else none
      | none => none)))
/-- An atomic has waited too long: the pass's order is broken (R300). -/
def State.replayTimeout (s : State) (f slice : Nat) : State :=
  match s.atomWaits f slice with
  | some (k, id) =>
    let want := match nextEntry (s.func f).probex k with | some r => r.2.1.toNat | none => 0
    s.mismatch f k want id.toNat
  | none => s

def execStarvationWin (s : State) : Host.Outcome State Fault Refusal := .next (s.starveWin s.inp.core s.inp.slot)
def execYieldDelayExpire (s : State) : Host.Outcome State Fault Refusal := .next (s.yieldEnd s.inp.core s.inp.gs)
def execCausalDelayExpire (s : State) : Host.Outcome State Fault Refusal := .next (s.causalEnd s.inp.core s.inp.gs)
def execImpreciseFaultDelivery (s : State) : Host.Outcome State Fault Refusal :=
  .next (s.deliverAt s.inp.core s.inp.gs (fun _ => true))
def execRemoteAccessFault (s : State) : Host.Outcome State Fault Refusal :=
  .next (s.deliverAt s.inp.core s.inp.gs (fun i => i.cause == cRemote))
/-- CLEAR of SYNC_CLR (R264). -/
def execSyncClr (s : State) : Host.Outcome State Fault Refusal :=
  .next (if s.inp.v.getLsbD 0 then { s with syncDrop := 0 } else s)
def execDbgGrant (s : State) : Host.Outcome State Fault Refusal := .next (s.onMail 0x30 (fun s r => s.dbgGrant r))
def execDbgRevoke (s : State) : Host.Outcome State Fault Refusal := .next (s.onMail 0x31 (fun s r => s.dbgRevoke r))
def execProfBegin (s : State) : Host.Outcome State Fault Refusal := .next (s.onMail 0x32 (fun s r => s.profBegin r))
def execProfEnd (s : State) : Host.Outcome State Fault Refusal := .next (s.onMail 0x33 (fun s r => s.profEnd r))
def execPrbHaltAll (s : State) : Host.Outcome State Fault Refusal := .next (s.haltAll s.inp.func)
def execPrbHaltRelease (s : State) : Host.Outcome State Fault Refusal := .next (s.haltRelease s.inp.func)
def execPrbHaltOne (s : State) : Host.Outcome State Fault Refusal := .next (s.haltOne s.inp.func s.inp.v)
def execPrbEdit (s : State) : Host.Outcome State Fault Refusal := .next (s.prbEdit s.inp.func s.inp.v)
def execSampleInterval (s : State) : Host.Outcome State Fault Refusal := .next (s.sampleReach s.inp.core)
def execTbWptrWrite (s : State) : Host.Outcome State Fault Refusal := .next (s.wptrWrite s.inp.func s.inp.buf s.inp.v)
def execCausalStart (s : State) : Host.Outcome State Fault Refusal := .next (s.causalStart s.inp.func)
def execCausalStop (s : State) : Host.Outcome State Fault Refusal := .next (s.causalStop s.inp.func s.inp.clocks)
def execPassStart (s : State) : Host.Outcome State Fault Refusal := .next (s.passStart s.inp.func)
def execPassEnd (s : State) : Host.Outcome State Fault Refusal := .next (s.passDone s.inp.func)
def execReplayAtomicTimeout (s : State) : Host.Outcome State Fault Refusal := .next (s.replayTimeout s.inp.func s.inp.slice)

end Sys2Proof.Machine
end

