-- ==== Sys2Proof/Machine/Seq.lean ====
section
/-! DEFINITION. The collective sequencer as primary and standby (R70 to R79, R85 to R94). -/

namespace Sys2Proof.Machine

/-! ## Terms, roles and messages (R75 to R77, R88, R89, R94) -/

/-- a is after b in the window of 2^15 (R88). -/
def after16 (a b : BitVec 16) : Bool := let d := (a - b).toNat; decide (1 ≤ d) && decide (d < 2 ^ 15)
def rsOK : Byte := 0x00
def rsVOID : Byte := 0x01
def rsREFUSED : Byte := 0x02
def rsUNKNOWN : Byte := 0x03
def evFAILOVER : Nat := 0
def evSTEPDOWN : Nat := 1
def evNOSTANDBY : Nat := 2
def evWINDOW : Nat := 3
/-- A bit of CSQ_EVENT set; one newly set raises an event record of the bits that are set (R44, R94). -/
def State.seqEvent (s : State) (bit : Nat) : State :=
  if s.seq.event.getLsbD bit then s
  else
    let e := s.seq.event ||| BitVec.ofNat 4 (2 ^ bit)
    ({ s with seq := { s.seq with event := e } } : State).record 0x120004 (e.setWidth 32)
/-- A message of this device's sequencer to a VDN. -/
def State.seqOut (s : State) (op : Byte) (dest : BitVec 16) (m : SeqMsg) : State :=
  s.seqSend op true { m with svdn := (s.func 0).vdn, dvdn := dest, term := s.seq.term }
/-- A message kept for repeating has its answer. -/
def State.answeredMsg (s : State) (p : Byte → SeqMsg → Bool) : State :=
  { s with unanswered := s.unanswered.filter (fun e => !p e.1 e.2) }
/-- This device has a member of some communicator. -/
def State.anyMember (s : State) : Bool :=
  s.comms.any (fun e => e.2.any (fun v => (s.partOf v.toNat).isSome))
/-- The sequencer is off; role 11 acts as 00 (R92). -/
def State.seqOff (s : State) : Bool := s.seq.role != 1 && s.seq.role != 2
/-- The record of a message that is discarded (R75). DESIGN CHOICE (log 44): it names CSQ_EVENT. -/
def State.strayRecord (s : State) : State := s.record 0x120004 (s.seq.event.setWidth 32)
/-- A message for a device that is neither a member nor a sequencer. -/
def State.seqStray (s : State) : State := if s.seqOff && !s.anyMember then s.strayRecord else s
/-- A primary that sees a later term steps down, and sends nothing again (R89). -/
def State.stepDown (s : State) : State :=
  ({ s with seq := { s.seq with role := 0 } }.seqEvent evSTEPDOWN).answeredMsg (fun op _ => op == 0x11 || op == 0x19)
/-- A message for a standby that comes to another device. -/
def State.notStandby (s : State) (m : SeqMsg) : State :=
  if s.seq.role == 1 then (if after16 m.term s.seq.term then s.stepDown else s) else s.seqStray
/-- A message a primary acts on. -/
def State.asPrimary (s : State) (m : SeqMsg) (k : State → State) : State :=
  if s.seq.role != 1 then s.seqStray
  else if after16 m.term s.seq.term then s.stepDown
  else k s

/-! ## Messages arriving (R66, R76, R77) -/

/-- What becomes of a message that has come: it waits where it stands, it is held, sent on or turned away with its partition,
or it is for this device. -/
inductive Gate where
  | wait (s : State)
  | gone (s : State)
  | here
/-- A message for a partition that is migrating is treated as any other packet is (R66, R77), or held until the function is
here (R162). -/
def State.seqGate (s : State) (q : Packet) : Gate :=
  let v := BitVec.ofNat 16 q.vdn
  if s.homeHold.contains v then
    if 65536 ≤ s.holdq.length then .gone (s.respond (respTo q stMoved (vtEpoch (tget 0 s.vdnTab q.vdn) + 1) [] false))
    else .gone { s with holdq := s.holdq ++ [q] }
  else if s.fwdWin.contains v then
    let s := s.forwardHeld v (s.holdq.length + 1)
    if s.holdq.any (fun q' => q'.vdn == q.vdn) then .wait s
    else match s.forward q with
      | some t => .gone t
      | none => .wait s
  else if s.mig.inFunc.isSome && s.mig.inVdn == v then
    (if (s.partOf q.vdn).isNone then .wait s else .gone { s with heldColl := s.heldColl ++ [q] })
  else .here
/-- The messages held for VDNs that are held no longer, in order. -/
def State.freed (s : State) (vc : Nat) : Option Packet :=
  s.holdq.find? (fun q => opVc q.op == vc && !s.homeHold.contains (BitVec.ofNat 16 q.vdn) && !s.fwdWin.contains (BitVec.ofNat 16 q.vdn))
/-- A sequencer message acted on: the first of those held here that no hold keeps, of those that come back to this device, or
of its port's buffer, where it is of the operation; where there is none of these, the one the event brings. A device
that a fatal error has stopped takes none (R144). -/
def State.onSeq (s : State) (op : Byte) (k : State → SeqMsg → State) : State :=
  if s.boot.halt == .fatal then s else
  let mine (q : Packet) : Bool := q.op == op.setWidth 6
  let come (q : Packet) (m : SeqMsg) (rid : State → State) : State := match s.seqGate q with
    | .wait t => t
    | .gone t => rid t
    | .here => k (rid s) m
  match s.freed 5 with
  | some q => if mine q then come q (seqMsgOf q) (fun t => { t with holdq := t.holdq.erase q }) else s
  | none => match s.loopHead 5 with
    | some q => if mine q then come q (seqMsgOf q) (fun t => { t with loop := t.loop.erase q }) else s
    | none => match (s.port s.inp.port).headPacket 5 with
      | some (q, n) => if mine q then come q (seqMsgOf q) (fun t => t.dropUnits s.inp.port 5 n) else s
      | none => come (seqPacket op false s.inp.msg) s.inp.msg id

/-! ## Numbers (R73, R74, R78, R79) -/

def Mirror.code : Mirror → Byte
  | .assign => 0x10 | .void_ => 0x11 | .start => 0x12 | .retire => 0x13
def Mirror.ofCode (c : Byte) : Option Mirror :=
  if c == 0x10 then some .assign else if c == 0x11 then some .void_ else if c == 0x12 then some .start
  else if c == 0x13 then some .retire else none
def State.membersOf (s : State) (comm : BitVec 16) : List (BitVec 16) := tget [] s.comms comm.toNat
def State.numOf (s : State) (num : W32) : Option SeqNum := s.seq.nums.find? (fun n => n.num == num)
def State.numKey (s : State) (comm : BitVec 16) (tag : W32) : Option SeqNum :=
  s.seq.nums.find? (fun n => n.comm == comm && n.tag == tag)
def State.mapNum (s : State) (num : W32) (h : SeqNum → SeqNum) : State :=
  { s with seq := { s.seq with nums := s.seq.nums.map (fun n => if n.num == num then h n else n) } }
/-- SEQ_ASSIGN of a number to its member of a rank. -/
def State.sendAssign (s : State) (n : SeqNum) (rank : Nat) (vdn : BitVec 16) (result : Byte) : State :=
  let p := n.prevs.getD rank (true, 0)
  s.seqOut 0x11 vdn { comm := n.comm, tag := n.tag, num := n.num, prev := if p.1 then 0 else p.2, first := p.1, result }
def State.assignAll (s : State) (n : SeqNum) (result : Byte) : State :=
  (s.membersOf n.comm).zipIdx.foldl (fun s e => s.sendAssign n e.2 e.1 result) s
/-- FIRST and PREV of each member of a communicator for the next number. -/
def State.prevsOf (s : State) (comm : BitVec 16) : List (Bool × W32) :=
  (s.membersOf comm).map (fun v => match tget none s.seq.last v.toNat with
    | some p => (false, p)
    | none => (true, 0))
/-- NEXT given to a key, each member's chain grown by it. -/
def State.allocate (s : State) (num : W32) (comm : BitVec 16) (tag : W32) : State :=
  let n : SeqNum := { num, comm, tag, st := .assigned, prevs := s.prevsOf comm }
  let last := (s.membersOf comm).foldl (fun (t : Tbl (Option W32)) v => tput none t v.toNat (some num)) s.seq.last
  { s with seq := { s.seq with next := num + 1, nums := s.seq.nums ++ [n], last } }
/-- A transition that takes effect once the standby has it; at once where there is none (R78, R87). -/
def State.mirror (s : State) (num : W32) (kind : Mirror) (dest : BitVec 16) : State :=
  match s.numOf num with
  | none => s
  | some n =>
    let s := s.mapNum num (fun n => { n with pend := n.pend ++ [(kind, dest, s.seq.alone)] })
    if s.seq.alone then s else s.seqOut 0x19 s.seq.peer { comm := n.comm, tag := n.tag, num, result := kind.code }
/-- The transition of a number takes effect, with the messages that reveal it. -/
def State.takeEffect (s : State) (n : SeqNum) (kind : Mirror) (dest : BitVec 16) : State :=
  let s := s.mapNum n.num (fun n => { n with pend := n.pend.drop 1 })
  match kind with
  | .assign => if n.pend.any (fun e => e.1 == .void_) then s
    else (s.mapNum n.num (fun n => { n with shown := true })).assignAll n rsOK
  | .void_ =>
    ((s.mapNum n.num (fun n => { n with st := .voided, shown := true })).assignAll n rsVOID).seqOut 0x16 dest
      { comm := n.comm, tag := n.tag, num := n.num, result := rsOK }
  | .start => (s.mapNum n.num (fun n => { n with st := .started })).seqOut 0x14 dest { num := n.num, result := rsOK }
  | .retire =>
    let s := { s with seq := { s.seq with nums := s.seq.nums.filter (fun x => x.num != n.num) } }
    (s.membersOf n.comm).foldl (fun s v => s.seqOut 0x18 v { num := n.num })
      (s.answeredMsg (fun op m => op == 0x11 && m.num == n.num))
/-- The first number whose next transition may take effect; one that shows a number to the members does so in number order,
once every number before it is shown (R79). -/
def nextEffect : List SeqNum → Bool → Option (SeqNum × Mirror × BitVec 16)
  | [], _ => none
  | n :: ns, blocked => match n.pend with
    | [] => nextEffect ns (blocked || !n.shown)
    | (k, dest, ok) :: _ =>
      if ok && (n.shown || !blocked) then some (n, k, dest) else nextEffect ns (blocked || !n.shown)
/-- Transitions take effect as far as they may. -/
def State.reveal (s : State) : Nat → State
  | 0 => s
  | i + 1 => match nextEffect s.seq.nums false with
    | some (n, k, dest) => (s.takeEffect n k dest).reveal i
    | none => s
/-- The window is full (R73). -/
def State.windowFull (s : State) : Bool := decide (2 ^ 30 ≤ s.seq.nums.length)
/-- A key's first SEQ_REG or SEQ_CANCEL. -/
def State.newKey (s : State) (op : Byte) (m : SeqMsg) : State :=
  let num := s.seq.next
  let s := (s.allocate num m.comm m.tag).mirror num .assign m.svdn
  if op == 0x15 then s.mirror num .void_ m.svdn else s
/-- A waiting key takes a number that has become free. -/
def State.takeWaiting (s : State) : State :=
  match s.seq.waiting with
  | [] => s
  | (op, m) :: rest =>
    if s.windowFull then s
    else
      let s := { s with seq := { s.seq with waiting := rest } }
      if (s.numKey m.comm m.tag).isSome then s else s.newKey op m
/-- Effects, a waiting key, and its effects. -/
def State.seqSettle (s : State) : State := ((s.reveal 4096).takeWaiting).reveal 4096
/-- A key that holds no number: numbered now, or once the window allows. -/
def State.firstKey (s : State) (op : Byte) (m : SeqMsg) : State :=
  if s.windowFull then
    let known := s.seq.waiting.any (fun e => e.2.comm == m.comm && e.2.tag == m.tag)
    let s := if known then s else { s with seq := { s.seq with waiting := s.seq.waiting ++ [(op, m)] } }
    s.seqEvent evWINDOW
  else (s.newKey op m).seqSettle

/-! ## The primary's messages (R77, R78, R85) -/

/-- A number's transition of a kind is on its way to the standby. -/
def SeqNum.pends (n : SeqNum) (k : Mirror) : Bool := n.pend.any (fun e => e.1 == k)
def State.seqReg (s : State) (m : SeqMsg) : State := s.asPrimary m (fun s =>
  match s.rankOf m.comm m.svdn with
  | none => s.seqOut 0x11 m.svdn { comm := m.comm, tag := m.tag, result := rsUNKNOWN }
  | some r => match s.numKey m.comm m.tag with
    | none => s.firstKey 0x10 m
    | some n =>
      if !n.shown then s
      else s.sendAssign n r m.svdn (if n.st == .voided then rsVOID else rsOK))
def State.seqAack (s : State) (m : SeqMsg) : State := s.asPrimary m (fun s =>
  let s := s.answeredMsg (fun op x => op == 0x11 && x.num == m.num && x.dvdn == m.svdn && x.result == m.result)
  match s.numOf m.num with
  | none => if m.result == rsVOID then s.seqOut 0x18 m.svdn { num := m.num } else s
  | some n => match s.rankOf n.comm m.svdn with
    | none => s
    | some r =>
      if m.result == rsOK then s.mapNum m.num (fun n => { n with aacks := if n.aacks.contains r then n.aacks else r :: n.aacks })
      else if m.result == rsVOID && n.st == .voided then
        let va := if n.vacks.contains r then n.vacks else r :: n.vacks
        let s := s.mapNum m.num (fun n => { n with vacks := va })
        if (s.membersOf n.comm).length ≤ va.length && !n.pends .retire then (s.mirror m.num .retire m.svdn).seqSettle else s
      else s)
def State.seqBegin (s : State) (m : SeqMsg) : State := s.asPrimary m (fun s =>
  match s.numOf m.num with
  | none => s
  | some n =>
    let grant (st : Byte) : State := s.seqOut 0x14 m.svdn { num := m.num, result := st }
    if (s.rankOf n.comm m.svdn).isNone then grant rsUNKNOWN
    else match n.st with
      | .assigned => if n.pend.isEmpty then (s.mirror m.num .start m.svdn).seqSettle else s
      | .started => grant rsOK
      | .voided => grant rsVOID)
def State.seqCancel (s : State) (m : SeqMsg) : State := s.asPrimary m (fun s =>
  let result (num : W32) (st : Byte) : State := s.seqOut 0x16 m.svdn { comm := m.comm, tag := m.tag, num, result := st }
  if (s.rankOf m.comm m.svdn).isNone then result 0 rsUNKNOWN
  else match s.numKey m.comm m.tag with
    | none => s.firstKey 0x15 m
    | some n => match n.st with
      | .assigned => if n.pend.isEmpty then (s.mirror n.num .void_ m.svdn).seqSettle else s
      | .started => result n.num rsREFUSED
      | .voided => result n.num rsOK)
def State.seqRetire (s : State) (m : SeqMsg) : State := s.asPrimary m (fun s =>
  match s.numOf m.num with
  | none => s.seqOut 0x18 m.svdn { num := m.num }
  | some n => match s.rankOf n.comm m.svdn with
    | none => s
    | some r =>
      if n.st != .started then s
      else
        let rs := if n.retires.contains r then n.retires else r :: n.retires
        let s := s.mapNum m.num (fun n => { n with retires := rs })
        if (s.membersOf n.comm).length ≤ rs.length && !n.pends .retire then (s.mirror m.num .retire m.svdn).seqSettle else s)
/-- SEQ_MACK: the transition takes effect. -/
def State.seqMack (s : State) (m : SeqMsg) : State := s.asPrimary m (fun s =>
  let s := s.answeredMsg (fun op x => op == 0x19 && x.num == m.num && x.result == m.result)
  match Mirror.ofCode m.result with
  | none => s
  | some k =>
    (s.mapNum m.num (fun n => { n with pend := n.pend.map (fun e => if e.1 == k then (e.1, e.2.1, true) else e) })).seqSettle)

/-! ## The standby, failover and roles (R86, R87, R93) -/

/-- What a member's next number after a new one carries as its PREV before that one is known, and the numbers with the new one
put before it (R79). -/
def chainIn (num : W32) (members : BitVec 16 → List (BitVec 16)) (v : BitVec 16) : List SeqNum → Option (Bool × W32) × List SeqNum
  | [] => (none, [])
  | n :: ns =>
    let ms := members n.comm
    if after32 n.num num && ms.contains v then
      let i := ms.idxOf v
      (some (n.prevs.getD i (true, 0)), { n with prevs := n.prevs.zipIdx.map (fun e => if e.2 == i then (false, num) else e.1) } :: ns)
    else
      let r := chainIn num members v ns
      (r.1, n :: r.2)
/-- A number as the standby records it, in number order whatever the order its mirrors come in (R86): each member's chain goes
through it. -/
def State.allocateLate (s : State) (num : W32) (comm : BitVec 16) (tag : W32) : State :=
  let r := (s.membersOf comm).foldl (fun (acc : List (Bool × W32) × List SeqNum × Tbl (Option W32)) v =>
      let c := chainIn num s.membersOf v acc.2.1
      match c.1 with
      | some p => (acc.1 ++ [p], c.2, acc.2.2)
      | none => (acc.1 ++ [match tget none acc.2.2 v.toNat with | some p => (false, p) | none => (true, 0)], c.2,
          tput none acc.2.2 v.toNat (some num))) ([], s.seq.nums, s.seq.last)
  let n : SeqNum := { num, comm, tag, st := .assigned, prevs := r.1 }
  let nums := r.2.1.takeWhile (fun x => after32 num x.num) ++ n :: r.2.1.dropWhile (fun x => after32 num x.num)
  { s with seq := { s.seq with next := if after32 (num + 1) s.seq.next then num + 1 else s.seq.next, nums, last := r.2.2 } }
/-- SEQ_MIRROR: the transition recorded once, and answered once it is; one of a number whose assignment has not come here is
not recorded yet. -/
def State.seqMirror (s : State) (m : SeqMsg) : State :=
  if s.seq.role != 2 then s.notStandby m
  else
    let s := { s with seq := { s.seq with term := m.term } }
    match Mirror.ofCode m.result with
    | none => s
    | some k =>
      let known := (s.numOf m.num).isSome
      let over_ := s.seq.gone.contains m.num
      if k != .assign && !known && !over_ then s
      else
      let s := match k with
        | .assign => if known || over_ then s else s.allocateLate m.num m.comm m.tag
        | .void_ => s.mapNum m.num (fun n => { n with st := .voided })
        | .start => s.mapNum m.num (fun n => { n with st := .started })
        | .retire => if known then
            { s with seq := { s.seq with nums := s.seq.nums.filter (fun n => n.num != m.num), gone := m.num :: s.seq.gone } } else s
      s.seqSend 0x1A true { svdn := (s.func 0).vdn, dvdn := m.svdn, term := m.term, num := m.num, result := m.result }
def State.seqBeat (s : State) (m : SeqMsg) : State :=
  if s.seq.role != 2 then s.notStandby m else { s with seq := { s.seq with term := m.term, next := m.num } }
def State.beatTimer (s : State) : State :=
  if s.seq.role == 1 && !s.seq.alone then s.seqOut 0x1B s.seq.peer { num := s.seq.next } else s
/-- The standby becomes primary (R87). -/
def State.takeOver (s : State) : State :=
  if s.seq.role != 2 then s
  else
    let s := { s with seq := { s.seq with
      role := 1, term := s.seq.term + 1, alone := true, nums := s.seq.nums.map (fun (n : SeqNum) => { n with shown := true }) } }
    let s := (s.seqEvent evFAILOVER).seqEvent evNOSTANDBY
    let s := s.comms.foldl (fun s e => e.2.foldl (fun s v => s.seqOut 0x1C v {}) s) s
    s.seq.nums.foldl (fun s n =>
      let s := s.assignAll n (if n.st == .voided then rsVOID else rsOK)
      if n.st == .started then (s.membersOf n.comm).foldl (fun s v => s.seqOut 0x14 v { num := n.num, result := rsOK }) s else s) s
/-- CSQ_CTRL written by Hasp: ROLE under R93, and PEER; naming a peer gives a primary a standby again. -/
def State.roleWrite (s : State) (v : W32) : State :=
  let role := bits v.toNat 29 2
  let peer := v.extractLsb' 0 16
  let s := { s with seq := { s.seq with peer := peer, alone := s.seq.alone && s.seq.role != 1 } }
  if role == s.seq.role then s
  else if s.seqOff && role == 1 then
    { s with seq := { s.seq with role := 1, term := 1, next := 0, nums := [], gone := [], last := [], waiting := [], alone := false } }.answeredMsg
      (fun op _ => op == 0x11 || op == 0x19)
  else if !s.seq.nums.isEmpty then s.seqEvent evSTEPDOWN
  else { s with seq := { s.seq with role := role } }
/-- CE_SEQ written (R88). -/
def State.ceSeqWrite (s : State) (v : W32) : State :=
  { s with ceTerm := 1, seq := { s.seq with cePrimary := v.extractLsb' 16 16, ceStandby := v.extractLsb' 0 16 } }
/-- A communicator installed, or removed when it has no unretired number (R70). -/
def State.communicator (s : State) (comm : BitVec 16) (members : Option (List (BitVec 16))) : State :=
  match members with
  | some ms =>
    let twice := ms.zipIdx.any (fun a => ms.zipIdx.any (fun b => decide (a.2 < b.2) && a.1 == b.1))
    if ms.length < 2 || 4096 < ms.length || twice then s
    else { s with comms := tput [] s.comms comm.toNat ms }
  | none =>
    if s.seq.nums.any (fun n => n.comm == comm) || s.keys.any (fun k => k.comm == comm) then s
    else { s with comms := tput [] s.comms comm.toNat [] }
/-- A message with no answer for 1 ms goes out again (R77). -/
def State.seqRepeat (s : State) (k : Nat) : State :=
  match s.unanswered[k]? with
  | some (op, m) => s.sendMsg 5 (s.seqPkt op (op == 0x11 || op == 0x19) m)
  | none => s

def execSeqReg (s : State) : Host.Outcome State Fault Refusal := .next (s.onSeq 0x10 State.seqReg)
def execSeqAack (s : State) : Host.Outcome State Fault Refusal := .next (s.onSeq 0x12 State.seqAack)
def execSeqBegin (s : State) : Host.Outcome State Fault Refusal := .next (s.onSeq 0x13 State.seqBegin)
def execSeqCancel (s : State) : Host.Outcome State Fault Refusal := .next (s.onSeq 0x15 State.seqCancel)
def execSeqRetire (s : State) : Host.Outcome State Fault Refusal := .next (s.onSeq 0x17 State.seqRetire)
def execSeqMack (s : State) : Host.Outcome State Fault Refusal := .next (s.onSeq 0x1A State.seqMack)
def execSeqMirror (s : State) : Host.Outcome State Fault Refusal := .next (s.onSeq 0x19 State.seqMirror)
def execSeqBeat (s : State) : Host.Outcome State Fault Refusal := .next (s.onSeq 0x1B State.seqBeat)
def execSeqBeatTimer (s : State) : Host.Outcome State Fault Refusal := .next s.beatTimer
def execSeqBeatTimeout (s : State) : Host.Outcome State Fault Refusal := .next s.takeOver
/-- TAKEOVER written to CSQ_CTRL: the standby's own failover, without the wait for a missing beat. -/
def execTakeover (s : State) : Host.Outcome State Fault Refusal := .next s.takeOver
def execSeqMessageRepeat (s : State) : Host.Outcome State Fault Refusal := .next (s.seqRepeat s.inp.k)
def execCsqRoleWrite (s : State) : Host.Outcome State Fault Refusal := .next (s.roleWrite s.inp.v)
def execCeSeqWrite (s : State) : Host.Outcome State Fault Refusal := .next (s.ceSeqWrite s.inp.v)
def execCommunicatorInstall (s : State) : Host.Outcome State Fault Refusal := .next (s.communicator s.inp.comm s.inp.members)

end Sys2Proof.Machine
end

