-- ==== Sys2Proof/Machine/Engine.lean ====
section
/-! DEFINITION. The collective engine as a member (R80 to R83, R88, R90, R108, R459 to R463, R475): the order chain,
the data phase, the ring of an all-reduce, and the answers to programs. -/

namespace Sys2Proof.Machine

/-! ## Messages to a member (R88) -/

/-- A message names the number it is about. -/
def msgNumbered (e : Byte × SeqMsg) : Bool := e.1 == 0x13 || e.1 == 0x17
/-- The place of a message among those sent again: by number in the order of R73, after those that have none. -/
def resendKey (es : List (Byte × SeqMsg)) (e : Byte × SeqMsg) : Nat :=
  let ref : W32 := ((es.find? msgNumbered).map (fun x => x.2.num)).getD 0
  if msgNumbered e then (e.2.num - ref + 0x80000000).toNat + 1 else 0
/-- Messages without an answer go to a new primary with its term, in number order where a number is known. -/
def State.resendAll (s : State) : State :=
  let mine (op : Byte) : Bool := op == 0x10 || op == 0x13 || op == 0x15 || op == 0x17
  let upd (e : Byte × SeqMsg) : Byte × SeqMsg :=
    if mine e.1 then (e.1, { e.2 with term := s.ceTerm, dvdn := s.seq.cePrimary }) else e
  let s := { s with unanswered := s.unanswered.map upd }
  let es := s.unanswered.filter (fun e => mine e.1)
  (sortBy (resendKey es) es).foldl (fun s e => s.sendMsg 5 (s.seqPkt e.1 false e.2)) s
/-- The partition a message names is a member: of the communicator an assignment is for, of some communicator for the
others. An answer of UNKNOWN goes to one that is not (R75, R77). -/
def State.memberOf (s : State) (op : Byte) (m : SeqMsg) : Bool :=
  m.result == rsUNKNOWN ||
  (if op == 0x11 then (s.membersOf m.comm).contains m.dvdn else s.comms.any (fun e => e.2.contains m.dvdn))
/-- A message of a sequencer to the engine: its term is adopted, or it is discarded, or acted on for a function. A primary of
this device with an earlier term steps down by it (R89). -/
def State.asMember (s : State) (op : Byte) (m : SeqMsg) (k : State → Nat → State) : State :=
  let s := if s.seq.role == 1 && after16 m.term s.seq.term then s.stepDown else s
  match (if s.memberOf op m then s.partOf m.dvdn.toNat else none) with
  | none => if s.seqOff then s.strayRecord else s
  | some f =>
    if m.term == s.ceTerm then k s f
    else if after16 m.term s.ceTerm && (op == 0x1C || m.svdn == s.seq.cePrimary || m.svdn == s.seq.ceStandby) then
      k ({ s with ceTerm := m.term, seq := { s.seq with cePrimary := m.svdn } }.resendAll) f
    else s

/-! ## The order chain (R81, R82) -/

def State.keyNum (s : State) (f : Nat) (num : W32) : Option KeyEnt := s.keys.find? (fun k => k.func == f && k.num == some num)
def isNum (f : Nat) (num : W32) (k : KeyEnt) : Bool := k.func == f && k.num == some num
/-- The number after the last one passed. -/
def State.chainHead (s : State) (f : Nat) : Option KeyEnt :=
  s.keys.find? (fun k => k.func == f && k.num.isSome && !k.retired &&
    (match (s.func f).passed with
      | some p => !k.first && k.prev == p
      | none => k.first))
/-- The final result reaches the program, but for a function that was reset (R108, R460). -/
def State.finalResult (s : State) (f : Nat) (k : KeyEnt) (result : Byte) : State :=
  match k.desc with
  | some d => if k.orphan then s else s.completeColl f d result k.num
  | none => s
/-- A number is passed. -/
def State.passNum (s : State) (f : Nat) (num : W32) : State :=
  (s.setFunc f { s.func f with passed := some num }).mapKey (isNum f num) (fun k => { k with retired := true })
/-- A void number at the head is passed: acknowledged, and its COLL cancelled. -/
def State.passVoid (s : State) (f : Nat) (k : KeyEnt) (num : W32) : State :=
  let s := s.passNum f num
  let s := s.engineMsg f 0x12 0 0 num rsVOID
  if k.issued then s.finalResult f k rCANCELLED else s
/-- The descriptor by which a collective is taken part in for a function that was reset: its own, or, where none was issued,
one whose fields nothing gives (R108). -/
def KeyEnt.orphanDesc (k : KeyEnt) : CollDesc :=
  let x (i : Nat) : Nat := (Config.orphanField k.comm k.tag i).toNat
  { addr := 0, kind := 1 + x 0 % 5, op := x 1 % 3, count := 1 + x 2, src := 0, dst := 0, root := x 3
    dtype := if x 4 % 3 == 2 then 8 else x 4 % 3, latch := none, launch := 0, index := 0, ctx := 0 }
/-- The head of a function's chain begins, or is passed where it is void. -/
def State.beginNumber (s : State) (f : Nat) : State :=
  if s.wholeStop f then s
  else match s.chainHead f with
  | none => s
  | some k => match k.num with
    | none => s
    | some num =>
      if k.void_ then s.passVoid f k num
      else if (k.issued || k.orphan) && !k.begun then
        (s.mapKey (isNum f num) (fun k => { k with
          begun := true, desc := if k.orphan then some (k.desc.getD k.orphanDesc) else k.desc })).engineMsg f 0x13 k.comm k.tag num 0
      else s
/-- The number was passed before. -/
def State.passedBefore (s : State) (f : Nat) (num : W32) : Bool :=
  match (s.func f).passed with
  | some p => !after32 num p
  | none => false
/-- The members of a key's communicator, and the rank of the function among them. -/
def State.ringOf (s : State) (f : Nat) (k : KeyEnt) : Option (List (BitVec 16) × Nat) :=
  (s.rankOf k.comm (s.func f).vdn).map (fun r => (s.membersOf k.comm, r))
/-- A segment arrives: kept under the rank whose it is, once; one whose number is not known here yet waits for it. -/
def State.segmentIn (s : State) (f : Nat) (num : W32) (hop seg16 : Nat) (ws : List W32) : State :=
  match s.keyNum f num with
  | none =>
    if s.passedBefore f num || s.earlySegs.contains (f, num, hop, seg16, ws) then s
    else { s with earlySegs := s.earlySegs ++ [(f, num, hop, seg16, ws)] }
  | some k => match s.ringOf f k with
    | none => s
    | some (ms, r) =>
      let p := max 1 ms.length
      let rank := (r + p - hop % p) % p
      let have_ := (k.got.filter (fun e => e.1.1 == rank)).length
      let ahead := (seg16 + 65536 - have_ % 65536) % 65536
      if 32768 ≤ ahead || k.got.any (fun e => e.1 == (rank, have_ + ahead)) then s
      else s.mapKey (isNum f num) (fun k => { k with got := k.got ++ [((rank, have_ + ahead), ws)] })
/-- The segments that waited for a number. -/
def State.earlyIn (s : State) (f : Nat) (num : W32) : State :=
  let mine := s.earlySegs.filter (fun e => e.1 == f && e.2.1 == num)
  let s := { s with earlySegs := s.earlySegs.filter (fun e => !(e.1 == f && e.2.1 == num)) }
  mine.foldl (fun s e => s.segmentIn f num e.2.2.1 e.2.2.2.1 e.2.2.2.2) s
/-- SEQ_ASSIGN (R71, R77, R81, R82). -/
def State.seqAssign (s : State) (m : SeqMsg) : State := s.asMember 0x11 m (fun s f =>
  let reg (op : Byte) (x : SeqMsg) : Bool := op == 0x10 && x.svdn == m.dvdn && x.comm == m.comm && x.tag == m.tag
  let s := s.answeredMsg reg
  let key := s.keyOf f m.comm m.tag
  if m.result == rsUNKNOWN then
    match key with
    | some k => if k.num.isSome then s else
      { s.finalResult f k rUNKNOWN with keys := s.keys.filter (fun x => !isKey f m.comm m.tag x) }
    | none => s
  else
    let ack (s : State) : State := s.engineMsg f 0x12 0 0 m.num m.result
    let set (k : KeyEnt) : KeyEnt :=
      { k with num := some m.num, prev := m.prev, first := m.first, void_ := k.void_ || (m.result == rsVOID && !k.begun) }
    match key with
    | some k =>
      if k.num.isSome && k.num != some m.num then s
      else if k.retired then ack s
      else
        let s := (s.mapKey (isKey f m.comm m.tag) set).earlyIn f m.num
        if m.result == rsVOID then s else ack s
    | none =>
      if s.passedBefore f m.num then ack s
      else if 4096 ≤ s.keys.length then s
      else
        let s := ({ s with keys := s.keys ++ [set { func := f, comm := m.comm, tag := m.tag }] } : State).earlyIn f m.num
        if m.result == rsVOID then s else ack s)

/-! ## The data phase: elements (R90, R108, R458) -/

/-- The identity of a reduction (R108). -/
def identityOf (d : CollDesc) : W32 :=
  if d.dtype == 8 then (if d.op == 0 then 0x80000000 else 0x7FC00000)
  else if d.op == 0 then 0
  else if d.dtype == 0 then (if d.op == 1 then 0x7FFFFFFF else 0x80000000)
  else if d.op == 1 then 0xFFFFFFFF else 0
/-- One step of a reduction in rank order. -/
def reduceStep (d : CollDesc) (a b : W32) : W32 :=
  let op : BitVec 8 :=
    if d.dtype == 8 then (if d.op == 0 then 0x4A else if d.op == 1 then 0x4B else 0x4C)
    else if d.op == 0 then 0x40
    else if d.dtype == 0 then (if d.op == 1 then 0x41 else 0x42) else (if d.op == 1 then 0x43 else 0x44)
  BitVec.ofNat 32 (atomNew op 4 a.toNat b.toNat 0)
/-- One element reduced over the ranks in order. -/
def reduceRanks (d : CollDesc) : List W32 → W32
  | [] => 0
  | x :: xs => xs.foldl (reduceStep d) x
/-- What a member of a rank writes to DST, from each rank's SRC. -/
def collResult (d : CollDesc) (p r : Nat) (src : Nat → List W32) : List W32 :=
  let red (i : Nat) : W32 := reduceRanks d ((upto p).map (fun q => (src q).getD i 0))
  match d.kind with
  | 2 => (upto p).flatMap (fun q => (src q).take d.count)
  | 3 => (upto d.count).map (fun i => red (r * d.count + i))
  | 4 => (src d.root).take d.count
  | 5 => if r == d.root then (upto d.count).map red else []
  | _ => (upto d.count).map red
def wordsBytes (ws : List W32) : List Byte := ws.flatMap (fun w => leBytes 4 w.toNat)
def bytesWords : Nat → List Byte → List W32
  | 0, _ => []
  | n + 1, b => BitVec.ofNat 32 (leNat (b.take 4)) :: bytesWords n (b.drop 4)

/-! ## The data phase: memory (R134, R461) -/

/-- How an access of the engine ends. -/
inductive EngRes (α : Type) where
  | ok (x : α) (s : State)
  | later (s : State)
  | failed (s : State)
/-- A translation reaches local memory of the function. -/
def State.localOf (s : State) (f : Nat) (e : TlbEntry) : Bool :=
  e.sfa / 2 ^ 44 == (s.func f).vdn.toNat && (match e.loc with | .home _ | .pool _ => true | _ => false)
/-- A parked access of a collective (R134). -/
def State.parkColl (s : State) (f : Nat) (k : KeyEnt) (d : CollDesc) (x : XlFault) : State :=
  let r := s.parkNote f d.ctx (.coll f k.comm k.tag) k.park x 576 0
  r.1.mapKey (isKey f k.comm k.tag) (fun k => { k with park := some r.2 })
/-- The copies the cores hold of a range written back and dropped. -/
def State.dropCached (s : State) (l : Loc) (n : Nat) : State :=
  match locKey l with
  | none => s
  | some k0 => s.cores.foldl (fun s e => e.2.l1.foldl (fun s x =>
      if k0 ≤ x.1 && x.1 ≤ (match locKey (l.add (n - 1)) with | some k1 => k1 | none => k0) then s.l1Back e.1 x.1 true else s) s) s
/-- n bytes of SRC, in pieces inside a page. -/
def State.engRead (s : State) (f : Nat) (k : KeyEnt) (d : CollDesc) (va : W64) (n : Nat) : Nat → EngRes (List Byte)
  | 0 => .ok [] s
  | i + 1 =>
    if n == 0 then .ok [] s
    else
      let m := min n (65536 - va.toNat % 65536)
      match s.engXl 0 f d.ctx va 0 with
      | (.error (.need a), s) => .later (s.askSectors 0 f d.ctx (.pool a) 8)
      | (.error .transit, s) => .later s
      | (.error (.fault x), s) => .later (s.parkColl f k d x)
      | (.ok e, s) =>
        if e.windowed 0 then .later (s.parkColl f k d { stage2 := true, level := 3, kind := kPerm, va, gpa := 0, access := 0 })
        else if !s.localOf f e then .failed s
        else
          let l := e.loc.add (va.toNat % 65536)
          let s := s.dropCached l m
          if s.locPoisoned l m then .failed (match l with | .home pa => s.fwConsume f d.ctx pa e.own e.priv va | _ => s)
          else match s.locBytes l m with
          | none => .later (s.askSectors 0 f d.ctx l m)
          | some b => match s.engRead f k d (va + BitVec.ofNat 64 m) (n - m) i with
            | .ok b' s => .ok (b ++ b') s
            | other => other
/-- DST written in pieces inside a page; the pieces before a failure stand. -/
def State.engWrite (s : State) (f : Nat) (k : KeyEnt) (d : CollDesc) (va : W64) (b : List Byte) : Nat → EngRes Unit
  | 0 => .ok () s
  | i + 1 =>
    if b.isEmpty then .ok () s
    else
      let m := min b.length (65536 - va.toNat % 65536)
      match s.engXl 0 f d.ctx va 1 with
      | (.error (.need a), s) => .later (s.askSectors 0 f d.ctx (.pool a) 8)
      | (.error .transit, s) => .later s
      | (.error (.fault x), s) => .later (s.parkColl f k d x)
      | (.ok e, s) =>
        if e.windowed 1 then .later (s.parkColl f k d { stage2 := true, level := 3, kind := kPerm, va, gpa := 0, access := 1 })
        else if !s.localOf f e then .failed s
        else
          let l := e.loc.add (va.toNat % 65536)
          ((s.dropCached l m).locWrite 0 f l (b.take m)).engWrite f k d (va + BitVec.ofNat 64 m) (b.drop m) i
/-- Elements of a member's own SRC from one on; the identity once reading has failed, or for a reset function. -/
def State.ownElems (s : State) (f : Nat) (k : KeyEnt) (d : CollDesc) (i n : Nat) : EngRes (List W32) :=
  if k.srcFail || k.orphan then .ok (List.replicate n (identityOf d)) s
  else match s.engRead f k d (d.src + BitVec.ofNat 64 (4 * i)) (4 * n) (n / 16384 + 2) with
    | .ok b s => .ok (bytesWords n b) (s.mapKey (isKey f k.comm k.tag) (fun k => { k with park := none }))
    | .later s => .later s
    | .failed s => .ok (List.replicate n (identityOf d)) (s.mapKey (isKey f k.comm k.tag) (fun k => { k with srcFail := true }))

/-! ## The ring (R475) -/

def CollDesc.segs (d : CollDesc) : Nat := (d.count + 63) / 64
def CollDesc.segLen (d : CollDesc) (g : Nat) : Nat := min 64 (d.count - 64 * g)
/-- The header of an engine's packets for a function. -/
def State.engHdr (s : State) (f : Nat) : Packet :=
  { svdn := (s.func f).vdn, score := 576, sclu := 576, sfunc := BitVec.ofNat 6 f }
/-- A begun signal of a function's successor. -/
def State.begunIn (s : State) (f : Nat) (num : W32) : State :=
  if s.begunSeen.contains (f, num) then s else { s with begunSeen := s.begunSeen ++ [(f, num)] }
/-- The packet of a hop. -/
def State.hopPacket (s : State) (f : Nat) (num : W32) (dest : BitVec 16) (hop seg : Nat) (ws : List W32) : Packet :=
  let b := wordsBytes ws
  { s.engHdr f with
    op := oCDATA, daddr := dest ++ (0 : BitVec 44), w3 := BitVec.ofNat 64 (num.toNat * 2 ^ 32 + hop % 65536 * 2 ^ 16 + seg % 65536)
    data := b, len := BitVec.ofNat 5 (unitCount b.length) }
def State.begunPacket (s : State) (f : Nat) (num : W32) (dest : BitVec 16) : Packet :=
  { s.engHdr f with op := oCBEGUN, daddr := dest ++ (0 : BitVec 44), w3 := BitVec.ofNat 64 (num.toNat * 2 ^ 32) }
/-- A hop goes to the successor: over the fabric, or to a function of this device. -/
def State.sendHop (s : State) (f : Nat) (num : W32) (pos : Nat) (dest : BitVec 16) (hop seg : Nat) (ws : List W32) : State :=
  match s.partOf dest.toNat with
  | some f' => (s.segmentIn f' num hop (seg % 65536) ws).mapKey (isNum f num) (fun k =>
      { k with acked := if k.acked.contains pos then k.acked else pos :: k.acked })
  | none => s.sendReq (s.hopPacket f num dest hop seg ws) (.coll f num pos)
def State.sendBegun (s : State) (f : Nat) (num : W32) (dest : BitVec 16) : State :=
  match s.partOf dest.toNat with
  | some f' => (s.begunIn f' num).mapKey (isNum f num) (fun k => { k with begunAck := true })
  | none => s.sendReq (s.begunPacket f num dest) (.begun f num)
/-- A collective this engine runs as a ring. -/
def KeyEnt.ring (k : KeyEnt) : Option CollDesc :=
  match k.desc with
  | some d => if k.granted && !k.retired && d.kind == 1 then some d else none
  | none => none
/-- The next thing a key's ring sends, when it can; a read that has to wait leaves only its asking. -/
def State.ringStep (s : State) (k : KeyEnt) : Option State :=
  match k.ring, k.num, s.ringOf k.func k with
  | some d, some num, some (ms, r) =>
    let p := ms.length
    let pred := ms.getD ((r + p - 1) % p) 0
    let succ := ms.getD ((r + 1) % p) 0
    let f := k.func
    if s.wholeStop f then none
    else if !k.begunSent then some ((s.mapKey (isNum f num) (fun k => { k with begunSent := true })).sendBegun f num pred)
    else if d.segs * (p - 1) ≤ k.sent then none
    else
      let g := k.sent / (p - 1)
      let h := k.sent % (p - 1) + 1
      let send (s : State) (ws : List W32) : State :=
        (s.mapKey (isNum f num) (fun k => { k with sent := k.sent + 1 })).sendHop f num k.sent succ h g ws
      if h == 1 then
        if !s.begunSeen.contains (f, num) then none
        else match s.ownElems f k d (64 * g) (d.segLen g) with
          | .ok ws s =>
            some (send (s.mapKey (isNum f num) (fun k => { k with got := k.got ++ [((r, g), ws)] })) ws)
          | _ => none
      else (k.got.find? (fun e => e.1 == ((r + p + 1 - h) % p, g))).map (fun e => send s (e.2.take (d.segLen g)))
  | _, _, _ => none
/-- A read of SRC that has to wait asks for what it needs, or parks. -/
def State.ringWait (s : State) (k : KeyEnt) : State :=
  match k.ring, k.num, s.ringOf k.func k with
  | some d, some num, some (ms, _) =>
    let p := ms.length
    let g := k.sent / (p - 1)
    if k.begunSent && k.sent < d.segs * (p - 1) && k.sent % (p - 1) == 0 && s.begunSeen.contains (k.func, num) && !s.wholeStop k.func then
      match s.ownElems k.func k d (64 * g) (d.segLen g) with
      | .later s => s
      | _ => s
    else s
  | _, _, _ => s
/-- Every ring of the device goes on as far as it can. -/
def State.rings (s : State) : Nat → State
  | 0 => s
  | i + 1 => match s.keys.findSome? s.ringStep with
    | some s => s.rings i
    | none => s.keys.foldl (fun s k => s.ringWait k) s
/-- Each rank's SRC elements as the ring has brought them. -/
def KeyEnt.ringSrc (k : KeyEnt) (d : CollDesc) (q : Nat) : List W32 :=
  (upto d.segs).flatMap (fun g => ((k.got.find? (fun e => e.1 == (q, g))).map (fun e => e.2.take (d.segLen g))).getD [])
/-- Every element has come and every segment sent has its response. -/
def KeyEnt.ringOver (k : KeyEnt) (d : CollDesc) (p : Nat) : Bool :=
  k.begunAck && k.sent == d.segs * (p - 1) && k.acked.length == k.sent &&
  (upto p).all (fun q => decide ((k.got.filter (fun e => e.1.1 == q)).length = d.segs))
/-- A begun signal (hop 0) or a segment goes out again. -/
def State.segRepeat (s : State) (f : Nat) (num : W32) (hop seg : Nat) : State :=
  match s.keyNum f num with
  | none => s
  | some k => match k.ring, s.ringOf f k with
    | some d, some (ms, r) =>
      let p := ms.length
      if hop == 0 then (if k.begunSent && !k.begunAck then s.sendBegun f num (ms.getD ((r + p - 1) % p) 0) else s)
      else
        let pos := seg * (p - 1) + hop - 1
        if p ≤ hop || k.sent ≤ pos || k.acked.contains pos then s
        else match k.got.find? (fun e => e.1 == ((r + p + 1 - hop) % p, seg)) with
          | some e => s.sendHop f num pos (ms.getD ((r + 1) % p) 0) hop seg (e.2.take (d.segLen seg))
          | none => s
    | _, _ => s

/-! ## Grant, completion and release (R81 to R83, R460, R461) -/

/-- SEQ_GRANT: the data phase starts; a void number is passed; one unknown ends the collective. -/
def State.seqGrant (s : State) (m : SeqMsg) : State := s.asMember 0x14 m (fun s f =>
  let s := s.answeredMsg (fun op x => op == 0x13 && x.svdn == m.dvdn && x.num == m.num)
  match s.keyNum f m.num with
  | none => s
  | some k =>
    if !k.begun || k.granted || k.retired then s
    else if m.result == rsOK then (s.mapKey (isNum f m.num) (fun k => { k with granted := true })).rings 4096
    else if m.result == rsVOID then
      (s.mapKey (isNum f m.num) (fun k => { k with void_ := true })).passVoid f { k with void_ := true } m.num
    else
      let s := s.finalResult f k rUNKNOWN
      let s := s.setFunc f { s.func f with passed := some m.num }
      { s with keys := s.keys.filter (fun x => !isNum f m.num x) })
/-- What every rank brings: from the ring, or, for the other kinds, the other members' SRC as the event has them and
this member's own. -/
def State.bring (s : State) (k : KeyEnt) (d : CollDesc) (p r : Nat) (others : List (Nat × List W32)) : EngRes (Nat → List W32) :=
  if d.kind == 1 then
    if k.ringOver d p then .ok (fun q => k.ringSrc d q) s else .later s
  else match s.ownElems k.func k d 0 (d.srcN p) with
    | .ok own s => .ok (fun q => if q == r then own else ((others.find? (fun e => e.1 == q)).map Prod.snd).getD []) s
    | .later s => .later s
    | .failed s => .failed s
/-- The data phase of a key is over: DST, STATUS and the latch, SEQ_RETIRE, and the number passed. -/
def State.dataDone (s : State) (f : Nat) (comm : BitVec 16) (tag : W32) (others : List (Nat × List W32)) (peerErr : Bool) : State :=
  let s := s.rings 4096
  match s.keyOf f comm tag with
  | none => s
  | some k => match k.desc, k.num, s.ringOf f k with
    | some d, some num, some (ms, r) =>
      let p := ms.length
      if !k.granted || k.retired || s.wholeStop f then s
      else match s.bring k d p r others with
        | .later s => s
        | .failed s => s
        | .ok src s =>
          let k := (s.keyOf f comm tag).getD k
          let overAll (s : State) (result : Byte) : State :=
            let s := s.finalResult f k result
            (s.passNum f num).engineMsg f 0x17 comm tag num 0
          if k.orphan then overAll s rOK
          else if k.srcFail || k.dstFail then overAll s rERROR
          else match s.engWrite f k d d.dst (wordsBytes (collResult d p r src)) (d.dstN p / 16384 + 2) with
            | .ok _ s => overAll s (if peerErr then rPEERERR else rOK)
            | .later s => s
            | .failed s => overAll s rERROR
    | _, _, _ => s
/-- SEQ_CRESULT: CRESULT, the latch and cp of every CCANCEL of the key (R462). -/
def State.seqCresult (s : State) (m : SeqMsg) : State := s.asMember 0x16 m (fun s f =>
  let s := s.answeredMsg (fun op x => op == 0x15 && x.svdn == m.dvdn && x.comm == m.comm && x.tag == m.tag)
  let res : Byte := if m.result == rsOK then 0x01 else if m.result == rsREFUSED then 0x02 else 0x05
  let hit (x : Cancel) : Bool := x.comm == m.comm && x.tag == m.tag
  let s := s.cores.foldl (fun s e => (e.2.cancels.filter (fun x => hit x && (s.team e.1 (s.group e.1 x.gs).team).func == f)).foldl
    (fun s x => s.cancelDone e.1 x res) s) s
  { s with savedTeams := s.savedTeams.map (fun (t : SavedTeam) =>
      if t.team.func == f then { t with cancels := t.cancels.map (fun x => if hit x then { x with res := some res } else x) } else t) })
/-- SEQ_DONE: the key table entry is freed (R80). -/
def State.seqDone (s : State) (m : SeqMsg) : State := s.asMember 0x18 m (fun s f =>
  let s := s.answeredMsg (fun op x => op == 0x17 && x.svdn == m.dvdn && x.num == m.num)
  match s.keyNum f m.num with
  | some k => if k.retired then
      { s with keys := s.keys.filter (fun x => !isNum f m.num x), begunSeen := s.begunSeen.filter (fun e => e != (f, m.num)), earlySegs := s.earlySegs.filter (fun e => !(e.1 == f && e.2.1 == m.num)) } else s
  | none => s)
def State.seqTerm (s : State) (m : SeqMsg) : State := s.asMember 0x1C m (fun s _ => s)
/-- The answer to a CSTAT: its group writes TD and goes on (R463). -/
def State.cstatAnswer (s : State) (c p : Nat) : State :=
  let g := s.group c p
  match g.cstat with
  | none => s
  | some (td, comm, tag, sp) =>
    if !g.live then s
    else s.setGroup c p (({ g with cstat := none }.writeS true td (s.keyState (s.team c g.team).func comm tag)).advance sp)

/-- A message held for a function acted on once it is here (R163). -/
def State.seqArrive (s : State) (p : Packet) : State :=
  let m := seqMsgOf p
  match p.op.toNat with
  | 0x10 => s.seqReg m | 0x11 => s.seqAssign m | 0x12 => s.seqAack m | 0x13 => s.seqBegin m | 0x14 => s.seqGrant m
  | 0x15 => s.seqCancel m | 0x16 => s.seqCresult m | 0x17 => s.seqRetire m | 0x18 => s.seqDone m | 0x19 => s.seqMirror m
  | 0x1A => s.seqMack m | 0x1B => s.seqBeat m | 0x1C => s.seqTerm m
  | _ => s

def execSeqAssign (s : State) : Host.Outcome State Fault Refusal := .next (s.onSeq 0x11 State.seqAssign)
def execSeqGrant (s : State) : Host.Outcome State Fault Refusal := .next (s.onSeq 0x14 State.seqGrant)
def execSeqCresult (s : State) : Host.Outcome State Fault Refusal := .next (s.onSeq 0x16 State.seqCresult)
def execSeqDone (s : State) : Host.Outcome State Fault Refusal := .next (s.onSeq 0x18 State.seqDone)
def execSeqTerm (s : State) : Host.Outcome State Fault Refusal := .next (s.onSeq 0x1C State.seqTerm)
def execEngineBeginNumber (s : State) : Host.Outcome State Fault Refusal := .next (s.beginNumber s.inp.func)
def execCollDataPhaseComplete (s : State) : Host.Outcome State Fault Refusal :=
  .next (s.dataDone s.inp.func s.inp.comm s.inp.tag s.inp.others s.inp.flag)
def execCollSegmentRepeat (s : State) : Host.Outcome State Fault Refusal :=
  .next (s.segRepeat s.inp.func s.inp.num s.inp.hop s.inp.seg)
def execCstatAnswer (s : State) : Host.Outcome State Fault Refusal := .next (s.cstatAnswer s.inp.core s.inp.gs)

end Sys2Proof.Machine
end

