-- ==== Sys2Proof/Machine/Reissue.lean ====
section
/-! DEFINITION. A port that fails or is held down: what it had to send goes out over other ports (R35, R42, R57, R58). -/

namespace Sys2Proof.Machine

/-- The units of whole packets in a buffer; what a failed port had brought of one is dropped. -/
def wholeUnits : Nat → List (Bool × Unit16) → List (Bool × Unit16)
  | 0, _ => []
  | i + 1, us =>
    match us with
    | a :: b :: rest =>
      let n := (b.2.extractLsb' 53 5).toNat
      if n ≤ rest.length then a :: b :: (rest.take n ++ wholeUnits i (dropPad (rest.drop n))) else []
    | _ => []
/-- The requests of a stream that were on a failed port, in SSEQ order: over another port, or failed (R58). -/
def State.reissue (s : State) (x : Stream) : State :=
  let keep := x.out.filter (fun y => opRepeats y.1.op)
  let lost := x.out.filter (fun y => !opRepeats y.1.op)
  let ports := match keep with
    | y :: _ => s.reqPorts y.2 (s.reqEntry y.2 x.vdn.toNat)
    | [] => []
  match ({ x with out := [], port := none } : Stream).pickPort ports with
  | some port =>
    let s := s.setStream { x with out := keep, port := some port }
    let s := keep.foldl (fun s y => s.portQueue port (reqVc y.1 y.2) y.1) s
    lost.foldl (fun s y => s.finish y.2 y.1 stLink []) s
  | none =>
    let s := s.setStream { x with out := [], port := none }
    x.out.foldl (fun s y => s.finish y.2 y.1 stLink []) s
/-- A response or message the port still had goes another way. -/
def State.resendKept (s : State) (k : Kept) : State :=
  if k.vc == 1 then s.respond k.pkt else s.sendMsg k.vc k.pkt
/-- A port leaves service: both ends start again from the first number when it comes back. -/
def State.portGone (s : State) (p : Nat) (disable : Bool) : State :=
  let x := s.port p
  let rx := x.rxbuf.map (fun (e : Nat × List (Bool × Unit16)) => (e.1, wholeUnits e.2.length e.2))
  let s := s.setPort p { x with
    state := .failed, disable := disable, txq := [], kept := [], replay := [], resend := [], parReq := [], preq := [], repeated := []
    damaged := [], hold := [], rresend := none, resendFails := 0, served := none, order := none, worder := none, older := [], txSeq := 0, txAck := 0, rxSeq := 0
    rxHigh := 0xFFFFF, rxbuf := rx.filter (fun e => !e.2.isEmpty) }
  let s := (s.streams.filter (fun y => y.port == some p && !y.out.isEmpty)).foldl (fun s y => s.reissue y) s
  x.kept.foldl (fun s k => s.resendKept k) s
/-- Retraining has taken too long (R35). -/
def State.linkFailed (s : State) (p : Nat) : State :=
  let x := s.port p
  if x.state != .training then s else (s.portGone p x.disable).portEvent p eLINKFAIL
/-- DISABLE set holds a port down, its STATE reading failed; cleared, the port trains (R42). DESIGN CHOICE (log 38): the
port trains when DISABLE is cleared, and setting it on a port that is up raises LINK_DOWN and no LINK_FAIL, since no
training has failed. -/
def State.disablePort (s : State) (p : Nat) (hold : Bool) : State :=
  let x := s.port p
  if hold then (if x.disable then s else (s.linkDown p).portGone p true)
  else if x.disable then s.setPort p { x with disable := false, state := .training }
  else s

def execLinkFail (s : State) : Host.Outcome State Fault Refusal := .next (s.linkFailed s.inp.port)
def execEzlDisable (s : State) : Host.Outcome State Fault Refusal := .next (s.disablePort s.inp.port s.inp.flag)

end Sys2Proof.Machine
end

