-- ==== Sys2Proof/Machine/Regs.lean ====
section
/-! DEFINITION. The registers as software reaches them: the management window with its blocks (R42, R92, R98, R115,
R128, R147, R149, R182, R264, R306), a function's BAR0 (R97, R99), the notify pages (R48, R103), the configuration
registers, and register writes with the access codes of R5. -/

namespace Sys2Proof.Machine

/-- A field of a register, its value at a bit place. -/
def fld (x lo : Nat) : Nat := x * 2 ^ lo
def bitv (b : Bool) (lo : Nat) : Nat := if b then 2 ^ lo else 0
def w32 (x : Nat) : W32 := BitVec.ofNat 32 x
/-- A register word's half of a 64-bit value. -/
def half (x : W64) (hi : Bool) : W32 := if hi then hi32 x else lo32 x
/-- A 55-bit address register with one half written (R99, R306). DESIGN CHOICE (log 44): the low bits that the alignment
leaves out read zero, whatever is written to them. -/
def setHalf (x : W64) (hi : Bool) (v : W32) (low : Nat) : W64 :=
  if hi then BitVec.ofNat 64 (v.toNat % 2 ^ 23 * 2 ^ 32 + x.toNat % 2 ^ 32)
  else BitVec.ofNat 64 (bits x.toNat 32 23 * 2 ^ 32 + v.toNat / 2 ^ low * 2 ^ low)

/-! ## Ports (R42, R43) -/

def LinkState.code : LinkState → Nat
  | .down => 0 | .training => 1 | .up => 2 | .failed => 3
def Port.reg (x : Port) (off : Nat) : W32 :=
  if off == 0 then w32 (fld x.maxw.toNat 28 + bitv x.disable 27)
  else if off == 4 then w32 (fld x.state.code 29 + fld x.txw.toNat 27 + fld x.rxw.toNat 25 + fld x.txset.toNat 23 +
    fld x.rxset.toNat 21 + fld x.lanebad.toNat 5)
  else if off == 8 then x.event.setWidth 32
  else if 0x10 ≤ off && off < 0x30 then w32 (fld (tget 512 x.high ((off - 0x10) / 4)) 16 + tget 256 x.low ((off - 0x10) / 4))
  else if 0x40 ≤ off && off < 0x60 then tget 0 x.cnt ((off - 0x40) / 4)
  else 0
/-- EZL_CTRL: MAXW and DISABLE, then RETRAIN, then WIDEN, whose lanes pass or not as the event says. -/
def State.ezlCtrl (s : State) (p : Nat) (v : W32) : State :=
  let s := s.setPort p { s.port p with maxw := v.extractLsb' 28 2 }
  let s := s.disablePort p (v.getLsbD 27)
  let s := if v.getLsbD 31 then s.retrain p else s
  if v.getLsbD 30 then s.widen p s.inp.flag else s
def State.ezlWrite (s : State) (p off : Nat) (v : W32) : State :=
  if off == 0 then s.ezlCtrl p v
  else if off == 8 then s.setPort p { s.port p with event := (s.port p).event &&& ~~~(v.setWidth 5) }
  else if 0x10 ≤ off && off < 0x30 then s.wmarkWrite p ((off - 0x10) / 4) v
  else if off == 0x60 then s.clearCounts p v
  else s

/-! ## The smaller blocks -/

/-- The sequencer registers (R92, R93). -/
def State.csqRead (s : State) (off : Nat) : W32 :=
  let q := s.seq
  if off == 0 then w32 (fld q.role 29 + q.peer.toNat)
  else if off == 4 then q.event.setWidth 32
  else if off == 8 then q.term.setWidth 32
  else if off == 0xC then q.next
  else if off == 0x10 then w32 q.nums.length
  else if off == 0x20 then w32 (fld q.cePrimary.toNat 16 + q.ceStandby.toNat)
  else 0
def State.csqWrite (s : State) (off : Nat) (v : W32) : State :=
  if off == 0 then
    let s := s.roleWrite v
    if v.getLsbD 31 then s.takeOver else s
  else if off == 4 then { s with seq := { s.seq with event := s.seq.event &&& ~~~(v.setWidth 4) } }
  else if off == 0x20 then s.ceSeqWrite v
  else s
/-- The mailbox (R98): the request, the doorbell, the response and DONE. -/
def State.mailRead (s : State) (off : Nat) : W32 :=
  if off < 0x80 then s.mail.req.extractLsb' (8 * off) 32
  else if 0x90 ≤ off && off < 0xA0 then s.mail.resp.extractLsb' (8 * (off - 0x90)) 32
  else if off == 0xA0 then w32 (bitv s.mail.done 0)
  else 0
def putWord (r : MailReq) (off : Nat) (v : W32) : MailReq :=
  (r &&& ~~~(BitVec.ofNat 1024 (0xFFFFFFFF * 2 ^ (8 * off)))) ||| BitVec.ofNat 1024 (v.toNat * 2 ^ (8 * off))
def State.mailWrite (s : State) (off : Nat) (v : W32) : State :=
  let m := s.mail
  if off < 0x80 then (if m.busy then s else { s with mail := { m with req := putWord m.req off v } })
  else if off == 0x80 then (if m.busy || m.done then s else { s with mail := { m with busy := true } })
  else if off == 0xA0 then { s with mail := { m with done := m.done && !v.getLsbD 0 } }
  else s
/-- The firmware carve-out's registers (R115). -/
def State.fwcRead (s : State) (off : Nat) : W32 :=
  let b := s.boot
  if off == 0 then b.apert.setWidth 32
  else if off == 4 then w32 (fld b.fwcBase.toNat 16 + b.fwcSize.toNat)
  else if off == 8 then w32 (bitv b.measFail 1 + bitv b.locked 0)
  else if 0x40 ≤ off && off < 0x70 then b.measHasp.extractLsb' (8 * (off - 0x40)) 32
  else if 0x70 ≤ off && off < 0xA0 then b.measSched.extractLsb' (8 * (off - 0x70)) 32
  else 0
def State.fwcWrite (s : State) (off : Nat) (v : W32) : State :=
  if off == 0 then (if s.boot.locked then s else { s with boot := { s.boot with apert := v.setWidth 11 } })
  else if off == 4 then s.fwcRange v
  else s
/-- The invalidation registers (R128). -/
def State.invRead (s : State) (off : Nat) : W32 :=
  let i := s.inv
  if off == 0 then i.lo
  else if off == 4 then i.hi
  else if off == 8 then w32 (bitv i.flush 30 + fld i.scope.toNat 28 + i.func)
  else if off == 0xC then w32 (bitv i.busy 0)
  else 0
def State.invWrite (s : State) (off : Nat) (v : W32) : State :=
  if off == 0 then { s with inv := { s.inv with lo := v &&& 0xFFFF0000 } }
  else if off == 4 then { s with inv := { s.inv with hi := v &&& 0x7FFFFF } }
  else if off == 8 then s.xlInv .hasp v
  else s
/-- The error registers (R147). -/
def State.mecRead (s : State) (off : Nat) : W32 :=
  if off == 0 then s.mecCe else if off == 4 then s.mecUe else if off == 8 then s.mecLogA
  else if off == 0xC then s.mecLogB else 0
def State.mecWrite (s : State) (off : Nat) (v : W32) : State :=
  if off == 0xC && v.getLsbD 31 then { s with mecLogB := s.mecLogB &&& 0x7FFFFFFF } else s
/-- The migration registers (R149); an incoming migration shows DIR 10 while nothing goes out. -/
def State.migRead (s : State) (off : Nat) : W32 :=
  let m := s.mig
  if off == 0 then w32 (fld m.func 26 + fld (if m.dir == 0 && m.inFunc.isSome then 2 else m.dir) 24 +
    (if m.dir == 0 && m.inFunc.isSome then m.inPhase else m.phase) % 16)
  else if off == 4 then m.pass
  else if off == 8 then m.resid
  else if off == 0xC then m.black
  else if off == 0x10 then m.event.setWidth 32
  else 0
def State.migWrite (s : State) (off : Nat) (v : W32) : State :=
  if off == 0x10 then { s with mig := { s.mig with event := s.mig.event &&& ~~~(v.setWidth 7) } } else s
/-- The distributor's registers (R182). -/
def State.disRead (s : State) (off : Nat) : W32 :=
  if off == 0 then w32 s.age
  else if 0x100 ≤ off && off < 0x200 then w32 (s.func ((off - 0x100) / 4)).weight
  else if 0x200 ≤ off && off < 0x300 then (s.func ((off - 0x200) / 4)).ctime
  else 0
def State.disWrite (s : State) (off : Nat) (v : W32) : State :=
  if off == 0 then
    let s := if v.toNat % 65536 == 0 then (upto 64).foldl (fun s f =>
        if (s.func f).holder.isSome then s.setFunc f { s.func f with holder := none } else s) s else s
    { s with age := v.toNat % 65536 }
  else if 0x100 ≤ off && off < 0x200 then
    s.setFunc ((off - 0x100) / 4) { s.func ((off - 0x100) / 4) with weight := v.toNat % 256 }
  else if 0x200 ≤ off && off < 0x300 then s.setFunc ((off - 0x200) / 4) { s.func ((off - 0x200) / 4) with ctime := v }
  else s

/-! ## Probex (R306) -/

/-- A register of a trace buffer. -/
def Probex.tbRead (x : Probex) (b off : Nat) : W32 :=
  if off == 0 then half (tget 0 x.tbBase b) false
  else if off == 4 then half (tget 0 x.tbBase b) true
  else if off == 8 then w32 (tget 1 x.tbSize b)
  else if off == 0xC then tget 0 x.tbCtrl b
  else if off == 0x10 then tget 0 x.tbWptr b
  else if off == 0x14 then tget 0 x.tbLost b
  else 0
def State.probexRead (s : State) (f off : Nat) : W32 :=
  let x := (s.func f).probex
  if off == 0 then (match x.rights with | some (c, r) => w32 (2 ^ 31 + fld c 16 + r.toNat) | none => 0)
  else if off == 4 then w32 (fld x.haltCore 16 + x.haltGs)
  else if off == 8 then w32 (bitv x.mismatch 31 + bitv x.logfull 30 + bitv x.trial 29 + bitv x.pass 28 +
    ((s.debugGroups f).filter (fun y => (s.group y.1 y.2).halted)).length % 65536)
  else if off == 0xC then w32 (fld x.editStat.toNat 29 + fld x.editKind.toNat 26 + fld x.editReg.toNat 8 + x.editLane.toNat)
  else if off == 0x10 then half x.eval false
  else if off == 0x14 then half x.eval true
  else if 0x20 ≤ off && off < 0x60 then tget 0 x.bp ((off - 0x20) / 4)
  else if 0x80 ≤ off && off < 0xC0 then x.tbRead ((off - 0x80) / 0x20) (off % 0x20)
  else if off == 0xC0 then x.sampleInt
  else if off == 0xC4 then half x.dumpBase false
  else if off == 0xC8 then half x.dumpBase true
  else if off == 0xCC then w32 (fld x.dumpLimit 16 + x.dumpCnt % 65536)
  else if off == 0xD0 then w32 x.causalLo
  else if off == 0xD4 then w32 x.causalHi
  else if off == 0xD8 then w32 x.causalDly
  else if 0x100 ≤ off && off < 0x140 then half (tget 0 x.prog ((off - 0x100) / 8)) (off % 8 == 4)
  else if off == 0x140 then x.pcntSel.setWidth 32
  else if 0x148 ≤ off && off < 0x168 then half (tget 0 x.pcnt ((off - 0x148) / 8)) (off % 8 == 4)
  else if off == 0x170 then w32 (x.passNo % 256)
  else if off == 0x180 then half x.logBase false
  else if off == 0x184 then half x.logBase true
  else if off == 0x188 then w32 x.logSlice
  else 0
/-- A trace buffer register written, with TRACE; base, size and mode stand while the buffer is enabled. -/
def State.tbWrite (s : State) (f b off : Nat) (v : W32) : State :=
  let x := (s.func f).probex
  let c := tget 0 x.tbCtrl b
  let en := c.getLsbD 31
  if !s.holds f rTRACE then s
  else if off == 0 || off == 4 then
    (if en then s else s.setProbex f { x with tbBase := tput 0 x.tbBase b (setHalf (tget 0 x.tbBase b) (off == 4) v 12) })
  else if off == 8 then (if en then s else s.setProbex f { x with tbSize := tput 1 x.tbSize b (v.toNat % 2 ^ 19) })
  else if off == 0xC then
    if en && v.getLsbD 30 != c.getLsbD 30 then s
    else s.setProbex f { x with tbCtrl := tput 0 x.tbCtrl b ((v &&& 0xC000FFFF) ||| (c &&& 0x20000000 &&& ~~~v)) }
  else if off == 0x10 then s.wptrWrite f b v
  else s
/-- PRB_HALT: CORE and GSLOT, then ALL, RELEASE and ONE. -/
def State.haltWrite (s : State) (f : Nat) (v : W32) : State :=
  let s := s.haltFields f v
  let s := if v.getLsbD 31 then s.haltAll f else s
  let s := if v.getLsbD 30 then s.haltRelease f else s
  if v.getLsbD 29 then s.haltOne f v else s
/-- A Probex register written; one whose right is not held is left as it is (R290). -/
def State.probexWrite (s : State) (f off : Nat) (v : W32) : State :=
  let x := (s.func f).probex
  let with_ (r : Nat) (y : Probex) : State := if s.holds f r then s.setProbex f y else s
  if off == 4 then s.haltWrite f v
  else if off == 8 then with_ rREPLAY { x with mismatch := x.mismatch && !v.getLsbD 31, logfull := x.logfull && !v.getLsbD 30 }
  else if off == 0xC then
    if v.getLsbD 31 then s.prbEdit f v
    else with_ rEDIT { x with editKind := v.extractLsb' 26 2, editReg := v.extractLsb' 8 8, editLane := v.extractLsb' 0 7 }
  else if off == 0x10 then with_ rEDIT { x with eval := hi32 x.eval ++ v }
  else if off == 0x14 then with_ rEDIT { x with eval := v ++ lo32 x.eval }
  else if 0x20 ≤ off && off < 0x60 then
    if s.holds f rHALT || s.holds f rREAD then s.setProbex f { x with bp := tput 0 x.bp ((off - 0x20) / 4) (v &&& 0xB00FFFFF) } else s
  else if 0x80 ≤ off && off < 0xC0 then s.tbWrite f ((off - 0x80) / 0x20) (off % 0x20) v
  else if off == 0xC0 then with_ rREAD { x with sampleInt := v }
  else if off == 0xC4 || off == 0xC8 then with_ rREAD { x with dumpBase := setHalf x.dumpBase (off == 0xC8) v 16 }
  else if off == 0xCC then with_ rREAD { x with dumpLimit := bits v.toNat 16 16, dumpCnt := bits v.toNat 0 16 }
  else if off == 0xD0 then with_ rPROF { x with causalLo := v.toNat % 2 ^ 20 }
  else if off == 0xD4 then with_ rPROF { x with causalHi := v.toNat % 2 ^ 20 }
  else if off == 0xD8 then with_ rPROF { x with causalDly := v.toNat % 2 ^ 10 }
  else if off == 0xDC then
    let s := if v.getLsbD 31 then s.causalStart f else s
    if v.getLsbD 30 then s.causalStop f s.inp.clocks else s
  else if off == 0x140 then with_ rPROF { x with pcntSel := v.extractLsb' 0 16 }
  else if off == 0x170 then
    let s := if v.getLsbD 31 then s.passStart f else s
    if v.getLsbD 30 then s.passDone f else s
  else if off == 0x180 || off == 0x184 then with_ rREPLAY { x with logBase := setHalf x.logBase (off == 0x184) v 12 }
  else if off == 0x188 then with_ rREPLAY { x with logSlice := v.toNat % 65536 }
  else s

/-! ## The management window -/

/-- A 32-bit register of the management window read. -/
def State.mgmtRead (s : State) (off : Nat) : W32 :=
  let b := off / 0x10000
  let o := off % 0x10000
  if b == 0x10 || b == 0x11 then (if off < 0x112000 then (s.port ((off - 0x100000) / 0x1000)).reg (off % 0x1000) else 0)
  else if b == 0x12 then s.csqRead o
  else if b == 0x13 then s.mailRead o
  else if b == 0x14 then s.fwcRead o
  else if b == 0x15 then s.invRead o
  else if b == 0x16 then s.mecRead o
  else if b == 0x17 then s.migRead o
  else if b == 0x18 then s.disRead o
  else if b == 0x19 then (if o == 0 then s.syncDrop else 0)
  else if b == 0x1A then s.probexRead (o / 0x400) (o % 0x400)
  else 0
/-- A 32-bit register of the management window written by PF0 or Hasp, in the blocks each may write. -/
def State.mgmtWrite (s : State) (who : Requester) (off : Nat) (v : W32) : State :=
  let b := off / 0x10000
  let o := off % 0x10000
  let hasp := who == .hasp
  if b == 0x10 || b == 0x11 then (if off < 0x112000 then s.ezlWrite ((off - 0x100000) / 0x1000) (off % 0x1000) v else s)
  else if b == 0x12 then (if hasp then s.csqWrite o v else s)
  else if b == 0x13 then s.mailWrite o v
  else if b == 0x14 then s.fwcWrite o v
  else if b == 0x15 then (if hasp then s.invWrite o v else s)
  else if b == 0x16 then s.mecWrite o v
  else if b == 0x17 then (if hasp then s.migWrite o v else s)
  else if b == 0x18 then (if hasp then s else s.disWrite o v)
  else if b == 0x19 then (if o == 4 && v.getLsbD 0 then { s with syncDrop := 0 } else s)
  else if b == 0x1A then s.probexWrite (o / 0x400) (o % 0x400) v
  else s

/-! ## BAR0 (R97, R99) -/

def Queue.reg (x : Queue) (off : Nat) : W32 :=
  if off == 0 then half x.base false
  else if off == 4 then half x.base true
  else if off == 8 then x.cfg
  else if off == 0xC then x.head
  else if off == 0x10 then x.done
  else if off == 0x14 then x.tail
  else if off == 0x18 then x.err
  else 0
def State.bar0Read (s : State) (f off : Nat) : W32 := if off < 0x1000 then (s.queue f (off / 0x40)).reg (off % 0x40) else 0
def State.queueWrite (s : State) (f q off : Nat) (v : W32) : State :=
  let x := s.queue f q
  if off == 0 || off == 4 then s.setQueue f q { x with base := setHalf x.base (off == 4) v 12 }
  else if off == 8 then s.qcfgWrite f q v
  else if off == 0x18 then s.qerrWrite f q v
  else s
/-- A store to BAR0: a queue register, or the alias of a notify page. -/
def State.bar0Write (s : State) (f off size : Nat) (v : W32) : State :=
  if off < 0x1000 then (if size == 4 && off % 4 == 0 then s.queueWrite f (off / 0x40) (off % 0x40) v else s)
  else if 0x100000 ≤ off && off < 0x140000 then s.notify f ((off - 0x100000) / 0x1000) (off % 0x1000) size v
  else s

/-! ## Accesses of several bytes -/

/-- n bytes of 32-bit registers from an offset. -/
def regBytes (rd : Nat → W32) (off n : Nat) : List Byte :=
  (upto n).map (fun i => (rd ((off + i) / 4 * 4)).extractLsb' (8 * ((off + i) % 4)) 8)
/-- The whole aligned words among bytes stored from an offset, as offset and value. -/
def wholeWords (off : Nat) (bs : List Byte) : List (Nat × W32) :=
  let skip := (4 - off % 4) % 4
  (upto ((bs.length - skip) / 4)).map (fun i => (off + skip + 4 * i, BitVec.ofNat 32 (leNat ((bs.drop (skip + 4 * i)).take 4))))
/-- Who a request of a function counts as (R48). -/
def whoOf (f : Nat) : Requester := if f == 0 then .pf0 else .func f
/-- A store to the window by a function (R48): none where it is refused. A word of the management window not stored
whole is left as it is. -/
def State.windowStore (s : State) (f off : Nat) (bs : List Byte) : Option State :=
  if off < 0x1000000 then
    if f != 0 then none else some ((wholeWords off bs).foldl (fun s e => s.mgmtWrite .pf0 e.1 e.2) s)
  else if off < 0x2000000 then
    let n := (off - 0x1000000) / 0x1000
    if f == 0 || f == n / 64 then some (s.notify (n / 64) (n % 64) (off % 0x1000) bs.length (BitVec.ofNat 32 (leNat bs))) else none
  else none
/-- A read of the window by a function: the management window for PF0, zeros from a page the function may store to. -/
def State.windowLoad (s : State) (f off n : Nat) : Option (List Byte) :=
  if off < 0x1000000 then (if f != 0 then none else some (regBytes s.mgmtRead off n))
  else if off < 0x2000000 && (f == 0 || f == (off - 0x1000000) / 0x1000 / 64) then some (List.replicate n 0)
  else none

/-! ## Configuration and BARs (R69, R95, R97, R106, R115) -/

/-- A configuration register. -/
def State.cfgRead (s : State) (f i : Nat) : W32 := (tget none (s.func f).cfg i).getD (Config.cfgReset f i)
/-- SR-IOV's enable and its count make VFs present or absent. -/
def State.vfSet (s : State) : State :=
  let on := (s.cfgRead 0 Config.cfgVfEnable.1).getLsbD Config.cfgVfEnable.2
  let n := (s.cfgRead 0 Config.cfgNumVfs).toNat % 65536
  (upto 64).foldl (fun s f => if f == 0 || (s.func f).vfOn == (on && decide (f ≤ n)) then s
    else s.setFunc f { s.func f with vfOn := on && decide (f ≤ n) }) s
/-- A configuration write: the enabled bytes of the bits software may set; VFs come or go, or a reset begins. -/
def State.cfgWrite (s : State) (f i : Nat) (v : W32) (be : BitVec 4) : State :=
  let old := s.cfgRead f i
  let bytes : W32 := BitVec.ofNat 32 ((upto 4).foldl (fun (n : Nat) b => if be.getLsbD b then n + 255 * 2 ^ (8 * b) else n) 0)
  let flrBit : W32 := if i == Config.cfgFlr.1 then BitVec.ofNat 32 (2 ^ Config.cfgFlr.2) else 0
  let m := Config.cfgMask f i &&& bytes &&& ~~~flrBit
  let s := s.setFunc f { s.func f with cfg := tput none (s.func f).cfg i (some ((old &&& ~~~m) ||| (v &&& m))) }
  let s := if f == 0 && s.accepting then s.vfSet else s
  if v &&& flrBit &&& bytes != 0 then s.flr f else s
/-- A function the host can address. -/
def State.present (s : State) (f : Nat) : Bool := f == 0 || (s.func f).vfOn
/-- A BAR read; none is a completer abort. BAR codes 0, 1 and 2 are BAR0, BAR2 and BAR4. -/
def State.barRead (s : State) (f bar off n : Nat) : Option (List Byte) :=
  if !s.present f then none
  else if bar == 0 then some (regBytes (s.bar0Read f) off n)
  else if f == 0 && bar == 1 then some (regBytes s.mgmtRead off n)
  else if f == 0 && bar == 2 then
    (if s.boot.locked then none else some (bytesAt s.mem (s.boot.apert.toNat * mib256 + off) n))
  else some (List.replicate n 0)
/-- A BAR write. -/
def State.barWrite (s : State) (f bar off : Nat) (bs : List Byte) : Option State :=
  if !s.present f then none
  else if bar == 0 then
    if bs.length == 8 then
      some ((wholeWords off bs).foldl (fun s e => if e.1 < 0x1000 then s.bar0Write f e.1 4 e.2 else s)
        (if 0x1000 ≤ off then s.bar0Write f off 8 (BitVec.ofNat 32 (leNat bs)) else s))
    else some (s.bar0Write f off bs.length (BitVec.ofNat 32 (leNat bs)))
  else if f == 0 && bar == 1 then some ((wholeWords off bs).foldl (fun s e => s.mgmtWrite .pf0 e.1 e.2) s)
  else if f == 0 && bar == 2 then
    (if s.boot.locked then none else some (s.homeWrite (s.boot.apert.toNat * mib256 + off) bs))
  else some s

/-! ## The bridge (R68, R69) -/

/-- The bridge's own header on VC 6. DESIGN CHOICE (log 40): R51 gives a bridge no SCORE; the model takes that of die 0's
collective engine, 576. -/
def State.busHdr (s : State) (n : Nat) : Packet :=
  { svdn := (s.func 0).vdn, score := 576, sclu := 576, sfunc := BitVec.ofNat 6 n }
/-- A request for a group slot's device: refused without a path. -/
def State.busSend (s : State) (slot func : Nat) (wr : Bool) (m : BitVec 12 × BitVec 8) (p : Packet) : State :=
  let vdn := Config.groupVdn m.1 m.2
  s.sendReq { p with daddr := vdn ++ p.daddr.extractLsb' 0 44 } (.bridge slot func wr)
/-- The host's answer for an access to the bridge's own endpoint. -/
def State.hostGets (s : State) (slot func : Nat) (b : Option (List Byte)) : State :=
  match b with
  | some b => s.emit (.hostAnswer slot func true (BitVec.ofNat 64 (leNat b)))
  | none => s.emit (.hostAnswer slot func false 0)
def State.hostDone (s : State) (slot func : Nat) (r : Option State) : State :=
  match r with
  | some t => t.emit (.hostAnswer slot func true 0)
  | none => s.emit (.hostAnswer slot func false 0)
/-- A configuration request of the host: served here for slot 0, carried on VC 6 for another member, aborted for an
empty slot. -/
def State.hostConfig (s : State) (slot func off : Nat) (wr : Option (W32 × BitVec 4)) : State :=
  if !s.boot.bridge then s
  else if slot == s.boot.slot.toNat then
    if !s.present func then s.hostGets slot func none
    else match wr with
      | none => s.hostGets slot func (some (leBytes 4 (s.cfgRead func (off / 4)).toNat))
      | some (v, be) => s.hostDone slot func (some (s.cfgWrite func (off / 4) v be))
  else match tget none s.group8 slot with
    | none => s.hostGets slot func none
    | some m =>
      let a : BitVec 60 := BitVec.ofNat 60 (func % 64 * 4096 + off / 4 * 4 % 4096)
      match wr with
      | none => s.busSend slot func false m { s.busHdr 0 with op := oCFGRD, daddr := a }
      | some (v, be) => s.busSend slot func true m
          { s.busHdr 0 with op := oCFGWR, daddr := a, len := 1, data := leBytes 16 (v.toNat + be.toNat * 2 ^ 32) }
/-- An MMIO request of the host. -/
def State.hostMmio (s : State) (slot func bar off size : Nat) (wr : Option W64) : State :=
  if !s.boot.bridge then s
  else if slot == s.boot.slot.toNat then
    match wr with
    | none => s.hostGets slot func (s.barRead func bar off size)
    | some v => s.hostDone slot func (s.barWrite func bar off (leBytes size v.toNat))
  else match tget none s.group8 slot with
    | none => s.hostGets slot func none
    | some m =>
      let a : BitVec 60 := BitVec.ofNat 60 (func % 64 * 2 ^ 38 + bar % 4 * 2 ^ 36 + off % 2 ^ 28)
      match wr with
      | none => s.busSend slot func false m { s.busHdr 0 with op := oMMIORD, daddr := a, w3 := BitVec.ofNat 64 (size % 16) }
      | some v => s.busSend slot func true m
          { s.busHdr 0 with op := oMMIOWR, daddr := a, w3 := BitVec.ofNat 64 (size % 16), len := 1, data := leBytes 16 v.toNat }

/-- A register write, by whoever makes it: the management window takes PF0 and Hasp only. -/
def State.regWrite (s : State) (who : Requester) (space : RegSpace) (off size : Nat) (v : W32) : State :=
  match space with
  | .mgmt => (match who with
    | .func _ => s
    | w => if size == 4 && off % 4 == 0 && off < 0x1000000 then s.mgmtWrite w off v else s)
  | .bar0 f => s.bar0Write f off size v

def execRegisterWrite (s : State) : Host.Outcome State Fault Refusal :=
  .next (s.regWrite s.inp.who s.inp.space s.inp.off s.inp.size s.inp.v)
def execHostConfigRequest (s : State) : Host.Outcome State Fault Refusal :=
  .next (s.hostConfig s.inp.bus.toNat s.inp.func s.inp.off s.inp.cfgWr)
def execHostMmioRequest (s : State) : Host.Outcome State Fault Refusal :=
  .next (s.hostMmio s.inp.bus.toNat s.inp.func s.inp.bar.toNat s.inp.off s.inp.size s.inp.mmioWr)

end Sys2Proof.Machine
end

