-- ==== Sys2Proof/Machine/Fabric.lean ====
section
/-! DEFINITION. The target side of the fabric (R45 to R48, R52 to R54, R59, R60, R66, R146, R263), the responses and
freezes at a source (R53, R59 to R61, R67), and the update of a VDN (R65, R66, R162). -/

namespace Sys2Proof.Machine

/-! ## Packets arriving -/

/-- What becomes of a packet: it is taken, or waits where it stands. -/
inductive Taken where
  | done (s : State)
  | later (s : State)
/-- A packet is the first of a VC's buffer, by its units. -/
def State.atHead (s : State) (port vc : Nat) (p : Packet) : Bool :=
  let us := packetUnits p
  ((tget [] (s.port port).rxbuf vc).take us.length).map Prod.snd == us
/-- The buffer an arriving packet stands first in. -/
def State.headVc (s : State) (p : Packet) : Option Nat :=
  ([opVc p.op] ++ (if p.op == oREAD || p.op == oWRITE then [4] else [])).find? (fun v => s.atHead s.inp.port v p)
/-- The first packet held for a VDN that is in hold no longer (R66). -/
def State.freedFor (s : State) (p : Packet) : Option Packet :=
  s.holdq.find? (fun q => q.vdn == p.vdn && !s.homeHold.contains (BitVec.ofNat 16 q.vdn) && !s.fwdWin.contains (BitVec.ofNat 16 q.vdn))
/-- An arriving packet of an operation acted on, and taken from where it stands unless it has to wait: from the hold queue
of its VDN once that is in hold no longer, before any that came later (R66), from those that come back to this device
(R50), or from its port's buffer. A device that a fatal error has stopped takes none (R144). -/
def State.onPacket (s : State) (op : BitVec 6) (k : State → Packet → Taken) : State :=
  let p := s.inp.pkt
  if p.op != op || s.boot.halt == .fatal then s
  else match s.freedFor p with
  | some q =>
    if q != p then s
    else match k s p with
      | .done t => { t with holdq := t.holdq.erase p }
      | .later t => t
  | none =>
    if s.loopHead (opVc op) == some p then
      match k s p with
      | .done t => { t with loop := t.loop.erase p }
      | .later t => t
    else match s.headVc p with
      | none => s
      | some vc => match k s p with
        | .done t => t.dropUnits s.inp.port vc (packetUnits p).length
        | .later t => t
/-- The one response to a request (R53): data only with OK. -/
def State.reply (s : State) (q : Packet) (status : Byte) (data : List Byte) : State :=
  s.respond (respTo q status 0 (if status == stOk then data else []) (status == stOk && opReads q))
def State.replyMoved (s : State) (q : Packet) (epoch : BitVec 16) : State :=
  s.respond (respTo q stMoved epoch [] false)
/-- a is after b among epochs (R49). -/
def after16e (a b : BitVec 16) : Bool := let d := (a - b).toNat; decide (1 ≤ d) && decide (d < 2 ^ 15)

/-! ## Old homes (R66) -/

/-- The partition a VDN names, where this device serves it: not once its update to another home has come. -/
def State.homed (s : State) (vdn : Nat) : Option Nat :=
  match s.partOf vdn with
  | some f =>
    if s.vdnUpds.any (fun u => u.vdn.toNat == vdn && !vtSelf u.entry) || (s.mig.dir == 1 && s.mig.switched && s.mig.func == f) then none
    else some f
  | none => none
/-- A request for a partition: held, forwarded, served by the partition's function, or turned away (R66): by a home that it
has left with the new EPOCH. -/
def State.atHome (s : State) (p : Packet) (k : State → Nat → Taken) : Taken :=
  let v := BitVec.ofNat 16 p.vdn
  if s.homeHold.contains v then
    if 65536 ≤ s.holdq.length then .done (s.replyMoved p (vtEpoch (tget 0 s.vdnTab p.vdn) + 1))
    else .done { s with holdq := s.holdq ++ [p] }
  else if s.fwdWin.contains v then
    let s := s.forwardHeld v (s.holdq.length + 1)
    if s.holdq.any (fun q => q.vdn == p.vdn) then .later s
    else match s.forward p with
      | some t => .done t
      | none => .later s
  else match s.homed p.vdn with
  | some f => k s f
  | none =>
    let e := tget 0 s.vdnTab p.vdn
    if s.mig.inFunc.isSome && s.mig.inVdn == v then .later s
    else if (s.partOf p.vdn).isSome then .done (s.replyMoved p (vtEpoch (s.newEntry v)))
    else if vtValid e && after16e (vtEpoch e) p.epoch then .done (s.replyMoved p (vtEpoch e))
    else .done (s.reply p stAccess [])

/-! ## Serving requests (R46, R48, R52, R54, R59, R60, R136, R146, R263) -/

/-- A range of a partition in pieces inside one 64 KiB page, as offset and length. -/
def pagePieces (off n : Nat) : List (Nat × Nat) :=
  let m := min n (65536 - off % 65536)
  if m == n then [(off, n)] else [(off, m), (off + m, n - m)]
/-- The pages among pieces that a request may not use now: every access in transit, a write in a window (R136). -/
def State.replayable (s : State) (f : Nat) (write : Bool) (ps : List (Nat × Nat)) : Option Nat :=
  (ps.map (fun x => x.1 / 65536)).find? (fun page =>
    let e := s.placeEntry 0 f page
    plV e && (plTransit e || (write && plWp e)))
/-- A request that meets a replayable condition (R59, R60): the freeze is recorded, or the stream listed, or the request
waits with its port's VCs 0 and 2 stopped. -/
def State.replayFault (s : State) (p : Packet) (f page : Nat) : Taken :=
  let v := BitVec.ofNat 16 p.vdn
  if (s.tfreezes.filter (fun z => !z.resumed)).length < Config.freezeRoom then
    let z : TFreeze := { sid := p.sid, vdn := v, sseq := p.sseq, sclu := p.sclu, func := f, page, hi := p.sseq }
    .done ({ s with tfreezes := s.tfreezes ++ [z] }.reply p stRfault [])
  else if s.retries.length < 256 then .done ({ s with retries := s.retries ++ [p.sid] }.reply p stRetry [])
  else match (if s.loopHead (opVc p.op) == some p || (s.freedFor p).isSome then none else s.headVc p) with
    | none => .later s
    | some vc =>
      let x := s.port s.inp.port
      .later (s.setPort s.inp.port { x with stopBits := x.stopBits ||| 5, fullHold := some vc })
/-- RESUME or ABORT for a recorded freeze. -/
def freezeEnd (z : TFreeze) (abort : Bool) : Packet :=
  { daddr := z.sid.svdn ++ (0 : BitVec 44), svdn := z.vdn, score := z.sid.score, sgrp := z.sid.sgrp, strm := z.sid.strm
    steam := z.sid.steam, sseq := z.sseq, sclu := z.sclu, op := if abort then oABORT else oRESUME
    status := if abort then stAborted else stOk }
/-- A record with one more request of its stream refused. -/
def TFreeze.refuse (z : TFreeze) (q : BitVec 16) : TFreeze := if after16 q z.hi then { z with hi := q } else z
/-- A request of a stream not frozen or listed here (R59, R60). What was on its way when a freeze ended is refused as what
came before it was, and let come again at once; the first request that comes again ends the record (log 39). -/
def State.unfrozen (s : State) (p : Packet) (k : State → Taken) : Taken :=
  let mine (z : TFreeze) : Bool := z.sid == p.sid && z.vdn.toNat == p.vdn
  match s.tfreezes.find? mine with
  | some z =>
    if z.resumed && !after16 p.sseq z.hi then k { s with tfreezes := s.tfreezes.filter (fun z => !mine z) }
    else
      let s := ({ s with tfreezes := s.tfreezes.map (fun z => if mine z then z.refuse p.sseq else z) } : State).reply p stRfault []
      .done (if z.resumed then s.sendMsg 1 (freezeEnd { z with sseq := p.sseq } false) else s)
  | none =>
  if s.retries.contains p.sid then
    if p.resend then k { s with retries := s.retries.erase p.sid } else .done (s.reply p stRetry [])
  else k s
/-- The places of a range of a partition, piece by piece; a piece at or above the quota, or with no place, has none. -/
def State.places (s : State) (f off n : Nat) : Option (List (Loc × Nat)) :=
  if (s.func f).quotaBytes < off + n then none
  else
    let ls := (pagePieces off n).map (fun x => (s.placed 0 f x.1, x.2))
    if ls.any (fun x => match x.1 with | .err _ => true | _ => false) then none else some ls
/-- The bytes of places, when this device holds them all. -/
def State.placesBytes (s : State) (ls : List (Loc × Nat)) : Option (List Byte) :=
  ls.foldr (fun x acc => match s.locBytes x.1 x.2, acc with
    | some b, some r => some (b ++ r)
    | _, _ => none) (some [])
/-- What places lack is asked of the pool. -/
def State.askPlaces (s : State) (f : Nat) (ls : List (Loc × Nat)) : State := ls.foldl (fun s x => s.askSectors 0 f 0 x.1 x.2) s
/-- A request that needs what places lack: the status of a fetch of it that has failed (R146), or the pool is asked. -/
def State.orLost (s : State) (p : Packet) (f : Nat) (ls : List (Loc × Nat)) : Taken :=
  match ls.findSome? (fun x => s.lostFill x.1 x.2) with
  | some (st, t) => .done (t.reply p st [])
  | none => .later (s.askPlaces f ls)
/-- An uncorrectable sector met for another device: logged only (R146). -/
def State.remotePoison (s : State) (f : Nat) (ls : List (Loc × Nat)) : State :=
  match ls.find? (fun x => s.locPoisoned x.1 x.2) with
  | some (.home pa, _) => s.mecError 0 (BitVec.ofNat 32 (pa / 256)) .context false false f
  | _ => s
/-- The check of a synchronising request from another device (R263); none where it mismatches. -/
def State.remoteSync (s : State) (l : Loc) (r : SyncRec) : Option State :=
  match locLine l with
  | none => some s
  | some k => if s.syncBad k r then none else some (s.syncSet k r)
/-- READ, WRITE and POSTED at the window: whole, or refused (R48). -/
def State.windowReq (s : State) (p : Packet) (off n : Nat) : Taken :=
  if 0x2000000 < off + n then .done (s.reply p stRange [])
  else if p.op == oREAD then
    match s.windowLoad p.sfunc.toNat off n with
    | some b => .done (s.reply p stOk b)
    | none => .done (s.reply p stAccess [])
  else if p.op == oWRITE || p.op == oPOSTED then
    match s.windowStore p.sfunc.toNat off (leBytes n (leNat p.data)) with
    | some t => .done (t.reply p stOk [])
    | none => .done (s.reply p stAccess [])
  else .done (s.reply p stAccess [])
/-- A partition offset of a request: memory, the window, or nothing (R46). -/
inductive Target where
  | memory | window (off : Nat) | nothing
  deriving DecidableEq, Repr
def State.targetOf (s : State) (f off : Nat) : Target :=
  if off < (s.func f).quotaBytes then .memory
  else if 0xF0000000000 ≤ off then .window (off - 0xF0000000000)
  else .nothing
/-- READ, WRITE and POSTED. -/
def State.memReq (s : State) (p : Packet) (f : Nat) : Taken :=
  let n := p.opx.toNat % 256 + 1
  let write := p.op != oREAD
  match s.targetOf f p.off with
  | .nothing => .done (s.reply p stRange [])
  | .window o => s.windowReq p o n
  | .memory => match s.places f p.off n with
    | none => .done (s.reply p stRange [])
    | some ls => match s.replayable f write (pagePieces p.off n) with
      | some page => s.replayFault p f page
      | none =>
        let go (s : State) : Taken :=
          if write then
            let b := leBytes n (leNat p.data)
            let s := (ls.foldl (fun (acc : State × List Byte) x => (acc.1.locWrite 0 f x.1 (acc.2.take x.2), acc.2.drop x.2)) (s, b)).1
            .done (s.reply p stOk [])
          else match s.placesBytes ls with
            | some b => .done (s.reply p stOk b)
            | none => s.orLost p f ls
        if !write && ls.any (fun x => s.locPoisoned x.1 x.2) then .done ((s.remotePoison f ls).reply p stUncorr [])
        else if !write && (s.placesBytes ls).isNone then s.orLost p f ls
        else if p.scope == 4 && p.op != oPOSTED then
          match ls.head? with
          | some (l, _) => (match s.remoteSync l (packetRec p) with
            | some s => go s
            | none => .done (s.reply p stAccess []))
          | none => go s
        else go s
/-- ATOMIC. -/
def State.atomReq (s : State) (p : Packet) (f : Nat) : Taken :=
  let aop := p.opx.toNat % 256
  let size := if p.opx.toNat / 256 == 2 then 4 else 8
  if p.opx.toNat / 256 < 2 || aop < 0x40 || 0x5B < aop || aop == 0x4E || aop == 0x4F then .done (s.reply p stAccess [])
  else match s.targetOf f p.off with
  | .nothing => .done (s.reply p stRange [])
  | .window o => .done (s.reply p (if o < 0x2000000 then stAccess else stRange) [])
  | .memory => match s.places f p.off size with
    | none => .done (s.reply p stRange [])
    | some ls => match s.replayable f true (pagePieces p.off size) with
      | some page => s.replayFault p f page
      | none => match ls.head? with
        | none => .done (s.reply p stRange [])
        | some (l, _) =>
          if s.locPoisoned l size then .done ((s.remotePoison f ls).reply p stUncorr [])
          else match s.sliceNum l size with
          | none => s.orLost p f ls
          | some old => match s.remoteSync l (packetRec p) with
            | none => .done (s.reply p stAccess [])
            | some s =>
              let w := 2 ^ (8 * size)
              let new := atomNew (BitVec.ofNat 8 aop) size old (p.w3.toNat % w) (leNat (p.data.take 8) % w)
              .done ((s.slicePut f 0 l size new).reply p stOk (leBytes 16 old))
/-- FSIG (R456): the store and then the add to the latch, which is a synchronising access at system scope. -/
def State.sigReq (s : State) (p : Packet) (f : Nat) : Taken :=
  let store := !p.opx.getLsbD 0
  let n := if p.opx.getLsbD 1 then 8 else 4
  let lat := p.w3.toNat % 2 ^ 44
  let isWin (o : Nat) : Bool := match s.targetOf f o with | .window o => decide (o < 0x2000000) | _ => false
  if isWin p.off || isWin lat then .done (s.reply p stAccess [])
  else match s.places f p.off n, s.places f lat 8 with
  | some ts, some ls =>
    match s.replayable f true (pagePieces p.off n ++ pagePieces lat 8) with
    | some page => s.replayFault p f page
    | none => match ls.head? with
      | none => .done (s.reply p stRange [])
      | some (l, _) =>
        if s.locPoisoned l 8 then .done ((s.remotePoison f ls).reply p stUncorr [])
        else match s.sliceNum l 8 with
        | none => s.orLost p f ls
        | some _ => match s.remoteSync l { packetRec p with scope := .system } with
          | none => .done (s.reply p stAccess [])
          | some s =>
            let s := if store then
                (ts.foldl (fun (acc : State × List Byte) x => (acc.1.locWrite 0 f x.1 (acc.2.take x.2), acc.2.drop x.2))
                  (s, leBytes n (leNat (p.data.take 8)))).1
              else s
            let old := (s.sliceNum l 8).getD 0
            .done ((s.slicePut f 0 l 8 ((old + leNat ((p.data.drop 8).take 8)) % 2 ^ 64)).reply p stOk [])
  | _, _ => .done (s.reply p stRange [])
/-- A request of the memory kind, through the old home's rules and the freezes. -/
def State.memoryPacket (s : State) (op : BitVec 6) (k : State → Packet → Nat → Taken) : State :=
  s.onPacket op (fun s p => s.atHome p (fun s f => s.unfrozen p (fun s => k s p f)))

/-! ## VC 6 (R69) -/

/-- CFGRD and CFGWR at a member. -/
def State.cfgPacket (s : State) (op : BitVec 6) : State :=
  s.onPacket op (fun s p =>
    let f := bits p.off 12 6
    let i := bits p.off 0 12 / 4
    if !s.present f then .done (s.reply p stAccess [])
    else if op == oCFGRD then .done (s.reply p stOk (leBytes 4 (s.cfgRead f i).toNat))
    else
      let d := leNat p.data
      .done ((s.cfgWrite f i (BitVec.ofNat 32 d) (BitVec.ofNat 4 (bits d 32 4))).reply p stOk []))
/-- MMIORD and MMIOWR at a member; a completer abort is answered as a refusal. -/
def State.mmioPacket (s : State) (op : BitVec 6) : State :=
  s.onPacket op (fun s p =>
    let f := bits p.off 38 6
    let bar := bits p.off 36 2
    let o := bits p.off 0 28
    let n := p.w3.toNat % 16
    if op == oMMIORD then
      match s.barRead f bar o n with
      | some b => .done (s.reply p stOk b)
      | none => .done (s.reply p stAccess [])
    else match s.barWrite f bar o (leBytes n (leNat p.data)) with
      | some t => .done (t.reply p stOk [])
      | none => .done (s.reply p stAccess []))
/-- HOSTRD and HOSTWR at the bridge, which alone reaches the host. -/
def State.hostPacket (s : State) (op : BitVec 6) : State :=
  s.onPacket op (fun s p =>
    let n := p.opx.toNat % 256 + 1
    if !s.boot.bridge then .done (s.reply p stAccess [])
    else if op == oHOSTRD then .done (s.reply p stOk (leBytes n (leNat s.inp.bytes)))
    else .done ((s.emit (.hostWrite p.w3 (leBytes n (leNat p.data)))).reply p stOk []))

/-! ## Collectives and streams of migrations (R155, R162, R475) -/

/-- A collective packet for a function of this device. -/
def State.collIn (s : State) (f : Nat) (p : Packet) : State :=
  let num : W32 := p.w3.extractLsb' 32 32
  if p.op == oCBEGUN then (s.begunIn f num).rings 4096
  else
    let seg := p.w3.toNat % 65536
    let ws := bytesWords (4 * p.len.toNat) p.data
    (s.segmentIn f num (bits p.w3.toNat 16 16) seg ws).rings 4096
/-- CDATA and CBEGUN: answered, and acted on once the function runs here. -/
def State.collPacket (s : State) (op : BitVec 6) : State :=
  s.onPacket op (fun s p => s.atHome p (fun s f =>
    let t := s.reply p stOk []
    if s.mig.inFunc == some f then .done { t with heldColl := t.heldColl ++ [p] } else .done (t.collIn f p)))
/-- MSTREAM for PF0 of this device. -/
def State.streamPacket (s : State) : State :=
  s.onPacket oMSTREAM (fun s p =>
    if s.homed p.vdn != some 0 then .done (s.reply p stAccess [])
    else .done ((s.streamIn p).reply p stOk []))

/-! ## Responses at the source (R53, R59 to R61, R67) -/

/-- Bytes a response brings for a request. -/
def respBytes (q : Packet) : Nat :=
  if q.op == oREAD || q.op == oHOSTRD then q.opx.toNat % 256 + 1
  else if q.op == oATOMIC then (if q.opx.toNat / 256 == 2 then 4 else 8)
  else if q.op == oCFGRD then 4
  else if q.op == oMMIORD then q.w3.toNat % 16
  else 0
/-- A request put back among those to be sent again, in SSEQ order. -/
def putBack (y : Packet × TxnOwner) : List (Packet × TxnOwner) → List (Packet × TxnOwner)
  | [] => [y]
  | z :: zs => if (y.1.sseq - z.1.sseq).toNat < 2 ^ 15 then z :: putBack y zs else y :: z :: zs
/-- The earlier of two sequence numbers (R55). -/
def firstSeq (a b : BitVec 16) : BitVec 16 := if (a - b).toNat < 2 ^ 15 then b else a
/-- The freeze after a request is refused for now; one that stands is kept, at its first request. -/
def Freeze.with_ (old : Option Freeze) (new : Freeze) : Freeze :=
  match old, new with
  | some (.rfault a), .rfault b => .rfault (firstSeq a b)
  | some (.retry a), .retry b => .retry (firstSeq a b)
  | some f, _ => f
  | none, f => f
/-- A stream whose freeze is over sends what it holds once all it has sent is answered. -/
def State.settleStream (s : State) (sid : StreamId) (vdn : BitVec 16) : State :=
  let x := s.stream sid vdn
  match x.freeze with
  | some (.ended _) => if x.out.isEmpty then s.sendHeld { x with freeze := none } (x.queue.length + 1) else s
  | none => if x.queue.isEmpty then s else s.sendHeld x (x.queue.length + 1)
  | _ => s
/-- A response: matched by stream, VDN and SSEQ; one that matches nothing is discarded. -/
def State.response (s : State) (p : Packet) : State :=
  let s := match (s.stream p.rsid p.svdn).out.find? (fun y => y.1.sseq == p.sseq) with
    | some (q, .fill ..) => if p.status == stOk then s.l2Room (q.daddr.toNat / 32) else s
    | _ => s
  let x := s.stream p.rsid p.svdn
  match x.out.find? (fun y => y.1.sseq == p.sseq) with
  | none => s
  | some (q, o) =>
    let x := { x with out := x.out.filter (fun y => y.1.sseq != p.sseq) }
    let overAll := match x.freeze with | some (.ended true) => true | _ => false
    let again (f : Freeze) : State :=
      if overAll then (s.setStream x).finish o q stAborted []
      else s.setStream { x with queue := putBack (q, o) x.queue, freeze := some (Freeze.with_ x.freeze f) }
    let s := if p.status == stOk then (s.setStream x).finish o q stOk (leBytes (respBytes q) (leNat p.data))
      else if p.status == stRfault then again (.rfault q.sseq)
      else if p.status == stRetry then again (.retry q.sseq)
      else if p.status == stMoved then again (.moved p.epoch)
      else (s.setStream x).finish o q (if p.status.toNat ≤ 8 then p.status else stAccess) []
    s.settleStream x.sid x.vdn
/-- What goes on once a request has ended: identities that were in use (R164), what the device itself has to write, and a
stream's next phase. -/
def State.settled (s : State) : State := s.freeIds.shipped.pay
def State.responsePacket (s : State) (op : BitVec 6) : State := s.onPacket op (fun s p => .done (s.response p).settled)
/-- A frozen stream is aborted: what it holds completes with ABORTED, and so does what is still answered RFAULT. -/
def State.abortStream (s : State) (sid : StreamId) (vdn : BitVec 16) : State :=
  let x := s.stream sid vdn
  let s := s.setStream { x with queue := [], freeze := some (.ended true) }
  let saved : List SavedTeam := s.savedTeams.map (fun t => t.failStream sid vdn stAborted)
  let s := { s with savedTeams := saved }
  (x.queue.foldl (fun s y => s.finish y.2 y.1 stAborted []) s).settleStream sid vdn
/-- A stream is frozen by RFAULT. -/
def Stream.faulted (x : Stream) : Option (BitVec 16) := match x.freeze with | some (.rfault q) => some q | _ => none
/-- RESUME and ABORT name the stream and the SSEQ of the freeze they end. -/
def State.freezeOver (s : State) (p : Packet) (abort : Bool) : State :=
  let x := s.stream p.rsid p.svdn
  if x.faulted != some p.sseq then s
  else if abort then s.abortStream x.sid x.vdn
  else (s.setStream { x with freeze := some (.ended false) }).settleStream x.sid x.vdn
/-- The function a VDN names is on its way here and does not run yet. -/
def State.incoming (s : State) (vdn : Nat) : Bool := s.mig.inFunc.isSome && s.mig.inVdn.toNat == vdn
/-- RESUME and ABORT; for a function that is not here yet they are held with its other packets (R162, R164). -/
def State.freezePacket (s : State) (op : BitVec 6) : State :=
  s.onPacket op (fun s p =>
    if s.incoming p.vdn then .done { s with heldColl := s.heldColl ++ [p] } else .done (s.freezeOver p (op == oABORT)).settled)
/-- 50 ms without either (R60). -/
def State.freezeTimeout (s : State) (sid : StreamId) (vdn : BitVec 16) : State :=
  if (s.stream sid vdn).faulted.isSome then (s.abortStream sid vdn).settled else s
/-- 50 µs after RFAULT_RETRY: the first request again, marked, and those after it. -/
def State.retryResend (s : State) (sid : StreamId) (vdn : BitVec 16) : State :=
  let x := s.stream sid vdn
  match x.freeze with
  | some (.retry _) =>
    if !x.out.isEmpty then s
    else
      let q := x.queue.map (fun y => ({ y.1 with resend := false }, y.2))
      let q := match q with
        | y :: ys => ({ y.1 with resend := true }, y.2) :: ys
        | [] => []
      s.sendHeld { x with freeze := none, queue := q } (q.length + 1)
  | _ => s

/-! ## Freezes at the target (R59, R60) -/

/-- The freezes recorded for a page end; their records stay until the streams go on (log 39). -/
def State.freezesEnd (s : State) (f page : Nat) (abort : Bool) : State :=
  let mine (z : TFreeze) : Bool := z.func == f && z.page == page && !z.resumed
  let zs := s.tfreezes.filter mine
  zs.foldl (fun s z => s.sendMsg 1 (freezeEnd z abort))
    { s with tfreezes := s.tfreezes.map (fun z => if mine z then { z with resumed := true } else z) }
/-- The condition of a page has cleared: its entry is out of the window, and the move is over with its last invalidation
(R135, R136). What the device itself has to write there goes on too. -/
def State.freezeClear (s : State) (f page : Nat) : State :=
  let e := tget 0 (s.func f).place page
  if plWp e || plTransit e || (s.tierOf f page).isSome then s else (s.freezesEnd f page false).pay

/-! ## Requests and messages held at the source (R50, R67) -/

/-- The entry lets requests through: streams that waited for it, and messages, go. -/
def State.heldSend (s : State) (vdn : BitVec 16) : State :=
  let e := tget 0 s.vdnTab vdn.toNat
  if vtHold e then s
  else
    let s := (s.streams.filter (fun x => x.vdn == vdn)).foldl (fun s x =>
      match x.freeze with
      | some (.moved ep) =>
        if x.out.isEmpty && (vtEpoch e == ep || after16e (vtEpoch e) ep) then s.sendHeld { x with freeze := none } (x.queue.length + 1) else s
      | none => if x.queue.isEmpty then s else s.sendHeld x (x.queue.length + 1)
      | _ => s) s
    let msgs := s.waitVdn.filter (fun p => p.vdn == vdn.toNat)
    let s := { s with waitVdn := s.waitVdn.filter (fun p => p.vdn != vdn.toNat) }
    (msgs.foldl (fun s p => s.sendMsg (opVc p.op) p) s).settled

/-! ## Updating a VDN (R65, R66, R162) -/

/-- The old home of a moving VDN starts to forward (R66). -/
def State.openForward (s : State) (vdn : BitVec 16) : State :=
  let s := { s with mig := { s.mig with phase := 6 }
                    homeHold := s.homeHold.filter (fun v => v != vdn)
                    fwdWin := if s.fwdWin.contains vdn then s.fwdWin else vdn :: s.fwdWin }
  s.forwardHeld vdn (s.holdq.length + 1)
/-- The record of an update from elsewhere than Hasp's source (R65). DESIGN CHOICE (log 44): it names MIG_EVENT. -/
def State.strayUpdate (s : State) : State := s.record 0x170010 (s.mig.event.setWidth 32)
/-- A VDN_UPDATE: from elsewhere than Hasp's source, or than the destination of the function that moves, it is discarded and
recorded; a source that has the function back, or whose stream has failed, refuses it (R161, R162); a repeat of one done is
acknowledged again; otherwise the entry goes on HOLD. -/
def State.vdnUpdate (s : State) (u : VdnMsg) : State :=
  let s := s.takeMsg 7 (fun q => q.op == oUPDATE && q.w3.toNat % 65536 == u.vdn.toNat && q.svdn == u.src)
  let moving := s.mig.dir == 1 && (s.func s.mig.func).vdn == u.vdn && (s.func s.mig.func).part
  let x : VdnUpd := { vdn := u.vdn, entry := vtSetHold u.entry false, src := u.src }
  let old := tget 0 s.vdnTab u.vdn.toNat
  if u.src != s.haspSrc && !(moving && u.src == s.mig.dest) then s.strayUpdate
  else if s.vdnUpds.any (fun y => y.vdn == u.vdn) then s
  else if old == x.entry then s.ackVdn x stOk
  else if moving && !vtSelf u.entry && s.mig.err && !s.mig.switched then (s.failOut evRETURNED).ackVdn x stAccess
  else if (s.homed u.vdn.toNat).isSome && !vtSelf u.entry && !(moving && decide (5 ≤ s.mig.phase)) then s.ackVdn x stAccess
  else
    let s := { s with vdnTab := tput 0 s.vdnTab u.vdn.toNat (vtSetHold old true), vdnUpds := s.vdnUpds ++ [x] }
    if moving && !vtSelf u.entry then s.openForward u.vdn else s

/-! ## Resume (R163, R170) -/

/-- A packet held for a function that is here now acted on. -/
def State.heldIn (s : State) (f : Nat) (p : Packet) : State :=
  match opVc p.op with
  | 5 => s.seqArrive p
  | 1 => s.freezeOver p (p.op == oABORT)
  | _ => s.collIn f p
/-- The packets held for a function acted on once it runs. -/
def State.releaseColl (s : State) (vdn : BitVec 16) : State :=
  let mine := s.heldColl.filter (fun p => p.vdn == vdn.toNat)
  let s := { s with heldColl := s.heldColl.filter (fun p => p.vdn != vdn.toNat) }
  match s.partOf vdn.toNat with
  | some f => mine.foldl (fun s p => s.heldIn f p) s
  | none => s
/-- Every record of a function is loaded: what was held for it is acted on, its queues and its placement are enabled, and its
groups run; the source is told, or the restore is over; a reset held for it starts (R109, R163). -/
def State.resumed (s : State) (f : Nat) : State :=
  let on (s : State) : State := s.setFunc f { s.func f with fetchOff := false, placeOff := false }
  if s.mig.inFunc == some f then
    let vdn := s.mig.inVdn
    let src := s.mig.inSrc
    let held := s.mig.inFlr
    let s : State := { s with mig := { s.mig with
      inFunc := none, inPhase := 0, inEnd := false, inBytes := [], inAhead := [], inNsi := [], inMon := [], inFlr := false } }
    let s := ((on (s.releaseColl vdn)).rings 4096).hasp src hDONE f
    if held then s.flrStart f else s
  else (s.endOut false).migEvent evCKPT
/-- The records of a function that are not on cores yet put there, as far as there is room. -/
def State.resumeGo (s : State) (f : Nat) : State :=
  if !s.loading f then s
  else
    let s := s.loadSeats f
    if (s.toLoad f).isEmpty then s.resumed f else s
/-- Every member has acknowledged, and this device's own entry is written: the function resumes here. Hasp builds its
stage-2 tables again from what came with it. -/
def State.updateDone (s : State) (o : VdnOut) : State :=
  if !o.wait.isEmpty || !o.ownDone || o.first.isSome then s
  else
    let s := { s with vdnOut := s.vdnOut.filter (fun y => y.vdn != o.vdn) }
    match s.mig.inFunc with
    | none => s
    | some f => (({ s.haspWrites with mig := { s.mig with inPhase := 7 } } : State).loadImage f s.mig.inNsi).resumeGo f
/-- Placement on the function's cores: records being loaded come first. -/
def State.placeNow (s : State) (f : Nat) : State := if s.loading f then s.resumeGo f else s.distribute f

/-! ## The update written, and its acknowledgements (R65, R161, R162) -/

def State.setVdnOut (s : State) (o : VdnOut) : State :=
  { s with vdnOut := s.vdnOut.map (fun y => if y.vdn == o.vdn then o else y) }
/-- Every stream to the VDN is drained: the new entry is written and acknowledged. The acknowledgement of a source is the
point of no return; with the new home's own entry the function is here. -/
def State.vdnDrained (s : State) (vdn : BitVec 16) : State :=
  match s.vdnUpds.find? (fun u => u.vdn == vdn) with
  | none => s
  | some u =>
    if s.streams.any (fun x => x.vdn == vdn && !x.out.isEmpty) then s
    else
      let moving := s.mig.dir == 1 && (s.func s.mig.func).vdn == vdn && (s.func s.mig.func).part && !vtSelf u.entry
      let s := { s with vdnTab := tput 0 s.vdnTab vdn.toNat u.entry, vdnUpds := s.vdnUpds.filter (fun y => y.vdn != vdn) }
      if u.own then
        match s.vdnOut.find? (fun o => o.vdn == vdn) with
        | none => s.heldSend vdn
        | some o =>
          let o := { o with ownDone := true }
          ((s.homeHere.setVdnOut o).heldSend vdn).updateDone o
      else
        let s := if moving then { s with mig := { s.mig with switched := true } } else s
        (s.ackVdn u stOk).heldSend vdn
/-- A VDN_ACK of this device's update: the old home's first, after which this device's own entry is updated as any is, and
the other members' with it (R162). -/
def State.vdnAck (s : State) (vdn dev epoch : BitVec 16) (status : Byte) : State :=
  let s := s.takeMsg 7 (fun q => q.op == oACK && q.w3.toNat % 65536 == vdn.toNat && q.svdn == dev)
  match s.vdnOut.find? (fun o => o.vdn == vdn) with
  | none => s
  | some o =>
    if epoch != vtEpoch o.entry then s
    else if o.first == some dev then
      if status != stOk then { s.dropIn with vdnOut := s.vdnOut.filter (fun y => y.vdn != vdn) }
      else
        let x : VdnUpd := { vdn, entry := o.entry ||| BitVec.ofNat 128 (2 ^ 62), src := dev, own := true }
        let s := { s with vdnTab := tput 0 s.vdnTab vdn.toNat (vtSetHold (tget 0 s.vdnTab vdn.toNat) true), vdnUpds := s.vdnUpds ++ [x] }
        let o := { o with first := none, wait := o.later, later := [] }
        let s := o.wait.foldl (fun s d => s.sendMsg 7 (s.updatePacket d vdn o.entry)) (s.setVdnOut o)
        s.vdnDrained vdn
    else if o.first.isNone && o.wait.contains dev && status == stOk then
      let o := { o with wait := o.wait.filter (fun d => d != dev) }
      (s.setVdnOut o).updateDone o
    else s
/-- A member that has not acknowledged is asked again. -/
def State.vdnRepeat (s : State) (vdn : BitVec 16) : State :=
  match s.vdnOut.find? (fun o => o.vdn == vdn) with
  | none => s
  | some o => (match o.first with | some d => [d] | none => o.wait).foldl (fun s d => s.sendMsg 7 (s.updatePacket d vdn o.entry)) s
/-- The forwarding window closes; what it could not send on is answered MOVED, and the migration is over at its source. -/
def State.windowClose (s : State) (vdn : BitVec 16) : State :=
  if !s.fwdWin.contains vdn then s
  else
    let mine := s.holdq.filter (fun q => q.vdn == vdn.toNat)
    let ep := vtEpoch (s.newEntry vdn)
    let over_ := s.mig.dir == 1 && s.mig.phase == 8
    let mig := { s.mig with dir := if over_ then 0 else s.mig.dir, phase := if over_ then 0 else s.mig.phase }
    mine.foldl (fun s q => s.replyMoved q ep)
      { s with mig, fwdWin := s.fwdWin.filter (fun v => v != vdn), holdq := s.holdq.filter (fun q => q.vdn != vdn.toNat) }

/-! ## Other messages (R44, R52) -/

/-- A packet whose operation is not assigned is discarded and counted. -/
def State.unknownOp (s : State) (port : Nat) (p : Packet) : State :=
  if opKnown p.op then s
  else match (upto 8).find? (fun v => s.atHead port v p) with
    | none => s
    | some v =>
      let s := s.dropUnits port v (packetUnits p).length
      s.setPort port ((s.port port).count nOVER)
def State.evrecIn (s : State) : State :=
  s.onPacket oEVREC (fun s p => .done (s.emit (.evrec .pf0 p)))
def State.hmsgIn (s : State) : State := s.onPacket oHMSG (fun s p => .done (s.haspMsg p s.inp.num))

def execReadReq (s : State) : Host.Outcome State Fault Refusal := .next (s.memoryPacket oREAD State.memReq)
def execWriteReq (s : State) : Host.Outcome State Fault Refusal := .next (s.memoryPacket oWRITE State.memReq)
def execPostedReq (s : State) : Host.Outcome State Fault Refusal := .next (s.memoryPacket oPOSTED State.memReq)
def execAtomicReq (s : State) : Host.Outcome State Fault Refusal := .next (s.memoryPacket oATOMIC State.atomReq)
def execFsigReq (s : State) : Host.Outcome State Fault Refusal := .next (s.memoryPacket oFSIG State.sigReq)
def execCfgrd (s : State) : Host.Outcome State Fault Refusal := .next (s.cfgPacket oCFGRD)
def execCfgwr (s : State) : Host.Outcome State Fault Refusal := .next (s.cfgPacket oCFGWR)
def execMmiord (s : State) : Host.Outcome State Fault Refusal := .next (s.mmioPacket oMMIORD)
def execMmiowr (s : State) : Host.Outcome State Fault Refusal := .next (s.mmioPacket oMMIOWR)
def execHostrd (s : State) : Host.Outcome State Fault Refusal := .next (s.hostPacket oHOSTRD)
def execHostwr (s : State) : Host.Outcome State Fault Refusal := .next (s.hostPacket oHOSTWR)
def execCdata (s : State) : Host.Outcome State Fault Refusal := .next (s.collPacket oCDATA)
def execCbegun (s : State) : Host.Outcome State Fault Refusal := .next (s.collPacket oCBEGUN)
def execMstream (s : State) : Host.Outcome State Fault Refusal := .next s.streamPacket
def execRdata (s : State) : Host.Outcome State Fault Refusal := .next (s.responsePacket oRDATA)
def execRack (s : State) : Host.Outcome State Fault Refusal := .next (s.responsePacket oRACK)
def execResumeMsg (s : State) : Host.Outcome State Fault Refusal := .next (s.freezePacket oRESUME)
def execAbortMsg (s : State) : Host.Outcome State Fault Refusal := .next (s.freezePacket oABORT)
def execStreamFreezeTimeout (s : State) : Host.Outcome State Fault Refusal := .next (s.freezeTimeout s.inp.sid s.inp.vdn)
def execRfaultRetryResend (s : State) : Host.Outcome State Fault Refusal := .next (s.retryResend s.inp.sid s.inp.vdn)
def execFreezeConditionClear (s : State) : Host.Outcome State Fault Refusal := .next (s.freezeClear s.inp.func s.inp.page)
def execFreezeConditionPermanent (s : State) : Host.Outcome State Fault Refusal := .next (s.freezesEnd s.inp.func s.inp.page true)
def execHeldRequestSend (s : State) : Host.Outcome State Fault Refusal := .next (s.heldSend s.inp.vdn)
def execPacketUnknownOp (s : State) : Host.Outcome State Fault Refusal := .next (s.unknownOp s.inp.port s.inp.pkt)
def execVdnUpdate (s : State) : Host.Outcome State Fault Refusal := .next (s.vdnUpdate s.inp.upd)
def execVdnDrainComplete (s : State) : Host.Outcome State Fault Refusal := .next (s.vdnDrained s.inp.vdn)
def execVdnAck (s : State) : Host.Outcome State Fault Refusal :=
  .next (s.vdnAck s.inp.vdn s.inp.dev s.inp.epoch s.inp.status)
def execVdnUpdateRepeat (s : State) : Host.Outcome State Fault Refusal := .next (s.vdnRepeat s.inp.vdn)
def execForwardWindowExpire (s : State) : Host.Outcome State Fault Refusal := .next (s.windowClose s.inp.vdn)
def execEvrec (s : State) : Host.Outcome State Fault Refusal := .next s.evrecIn
def execRestoreImg (s : State) : Host.Outcome State Fault Refusal :=
  .next (s.onMail 0x29 (fun s r => (s.restore r).resumeGo (mailFunc r)))
def execDistributorPlace (s : State) : Host.Outcome State Fault Refusal := .next (s.placeNow s.inp.func)
def execHmsg (s : State) : Host.Outcome State Fault Refusal := .next s.hmsgIn

end Sys2Proof.Machine
end

