-- ==== Sys2Proof/Machine/Perform.lean ====
section
/-! DEFINITION. Performing outstanding accesses: at the bank, in L1, at the home slice, through the cluster agent (R219,
R237 to R250, R417, R427); and the flip of a shutter (R220 to R222). -/

namespace Sys2Proof.Machine

/-! ## One lane -/

/-- Where a lane's access lies as a fault names it (R61): its system fabric address, when it was translated. -/
def LanePart.faddr (x : LanePart) : Nat :=
  match x.xl with
  | some (_, _, f) => f * 65536 + x.va.toNat % 65536
  | none => x.va.toNat
/-- The new value of an atomic or reduction from the old one. -/
def Access.newVal (a : Access) (x : LanePart) (old : Nat) : Nat :=
  let w := 2 ^ (8 * a.bytes)
  match a.op with
  | .atom op | .red op => atomNew op a.bytes old (x.data.toNat % w) (x.data.toNat / 2 ^ 64 % w)
  | _ => x.data.toNat % w
/-- An access performed on words of a bank of a core: its old value, and the core after it (R224, R250). -/
def Core.bankOp (co : Core) (a : Access) (x : LanePart) (b o : Nat) : Nat × Core :=
  match a.op with
  | .load => (co.scrNum b o a.bytes, co)
  | .frag e tr => (co.fragVal b o x.data.toNat e tr, co)
  | .barr => let r := co.arrive b (o / 4) true; (if r.1 then 1 else 0, r.2)
  | _ => let old := co.scrNum b o a.bytes; (old, co.scrPut b o a.bytes (a.newVal x old))
/-- A lane on the core's own bank, with the wake tests of R227. -/
def State.performOwn (s : State) (c p : Nat) (a : Access) (x : LanePart) (b o : Nat) : State :=
  let r := (s.core c).bankOp a x b o
  ((s.setCore c r.2).wake c).partDone c p a.id x.lane stOk r.1 0
/-- A lane on the device window, whole or refused (R48). -/
def State.performWindow (s : State) (c p : Nat) (a : Access) (x : LanePart) (off : Nat) : State :=
  let f := (s.team c (s.group c p).team).func
  match a.op with
  | .load => match s.windowLoad f off a.bytes with
    | some b => s.partDone c p a.id x.lane stOk (leNat b) x.faddr
    | none => s.partDone c p a.id x.lane stAccess 0 x.faddr
  | .store => match s.windowStore f off (leBytes a.bytes x.data.toNat) with
    | some t => t.partDone c p a.id x.lane stOk 0 x.faddr
    | none => s.partDone c p a.id x.lane stAccess 0 x.faddr
  | _ => s.partDone c p a.id x.lane stAccess 0 x.faddr

/-! ## Sectors -/

/-- A sector the home slice lacks asked of its source for a lane, unless a request for it is under way. -/
def State.askLane (s : State) (c p : Nat) (a : Access) (x : LanePart) : State :=
  match x.loc with
  | .pool q | .far q _ =>
    if s.evictUnder q || s.fillUnder q || s.laneUnder q then s
    else
      let tm := s.team c (s.group c p).team
      let s := ((s.markSent c p a.id x.lane).pcountG c p 7 (match x.loc with | .pool _ => 1 | _ => 0)).pcountG c p 10 1
      s.sendReq (pkRead (s.groupHdr c p a.strm .plain) (q / 32 * 32) 32) (.fill c p a.id x.lane (locRcc x.loc) tm.ctx)
  | _ => s
/-- The sector of a place as L1 would fill it: from HBM, or from the home slice when it holds it. -/
def State.fillOf (s : State) (c p : Nat) (l : Loc) (own : Nat) (priv : Bool) : Option Sector :=
  let tm := s.team c (s.group c p).team
  match l with
  | .home pa => some { data := BitVec.ofNat 256 (s.homeNum (pa / 32 * 32) 32), func := tm.func, ctx := tm.ctx, own, priv }
  | .pool q | .far q _ => (tget none s.l2 (q / 32)).map (fun y =>
      { data := y.data, func := tm.func, ctx := tm.ctx, rcc := locRcc l, own, priv })
  | _ => none
/-- The byte of a sector a place starts at. -/
def locOff (l : Loc) : Nat :=
  match l with
  | .home q | .pool q | .far q _ => q % 32
  | _ => 0
/-- An L1 miss counted once for a word's sector; whether an HBM sector also missed in L2 is open (R302). -/
def State.countMiss (s : State) (c p : Nat) (a : Access) (x : LanePart) (keeps : Bool) : State :=
  if keeps || a.parts.all (fun y => y.lane == x.lane || y.va.toNat / 32 != x.va.toNat / 32) then
    let s := s.pcountG c p 6 1
    match x.loc with
    | .home _ => let r := s.fresh; r.2.pcountG c p 7 (r.1 % 2)
    | _ => s
  else s
/-- A lane has consumed an uncorrectable sector: contained, and the lane is over (R144). -/
def State.partLost (s : State) (c p : Nat) (a : Access) (x : LanePart) : State :=
  match x.loc with
  | .home pa => (s.consume c p pa x.own x.priv x.va).dropPart c p a.id x.lane
  | _ => s
/-- Bytes of a lane's sector in the core's L1 changed, where it is present (R247). -/
def State.l1Touch (s : State) (c : Nat) (l : Loc) (n v : Nat) : State :=
  match locKey l with
  | none => s
  | some k => match s.l1Get c k with
    | some y => s.l1Set c k (some (y.put (locOff l) n v false))
    | none => s

/-! ## Points of coherence (R247) -/

/-- The home slice executes a store of a lane, or asks for the sector first. -/
def State.storeHome (s : State) (c p : Nat) (a : Access) (x : LanePart) : State :=
  let free := match x.loc with
    | .home _ => true
    | .pool q | .far q _ => (tget none s.l2 (q / 32)).isSome || (a.bytes == 32 && !s.evictUnder q)
    | _ => false
  if free then
    let tm := s.team c (s.group c p).team
    ((s.slicePut tm.func tm.ctx x.loc a.bytes x.data.toNat).l1Touch c x.loc a.bytes x.data.toNat).partDone c p a.id x.lane stOk 0 x.faddr
  else s.askLane c p a x
/-- A lane in the core's L1: plain accesses and those at team scope (R239, R421). -/
def State.performL1 (s : State) (c p : Nat) (a : Access) (x : LanePart) : State :=
  match locKey x.loc with
  | none => s
  | some k =>
    let o := locOff x.loc
    let hit := s.l1Get c k
    let keep := a.strm != 2
    let lost := hit.isNone && s.locPoisoned x.loc a.bytes
    match a.op with
    | .store =>
      let done (s : State) (y : Sector) : State :=
        (s.l1Add c k (y.put o a.bytes x.data.toNat true)).partDone c p a.id x.lane stOk 0 x.faddr
      match hit with
      | some y => done s y
      | none =>
        let tm := s.team c (s.group c p).team
        if !keep || (lost && a.bytes != 32) then (s.storeHome c p a x)
        else if a.bytes == 32 then done (s.countMiss c p a x true) { func := tm.func, ctx := tm.ctx, rcc := locRcc x.loc, own := x.own, priv := x.priv }
        else match s.fillOf c p x.loc x.own x.priv with
          | some y => done (s.countMiss c p a x true) y
          | none => s.askLane c p a x
    | .load =>
      match hit with
      | some y => s.partDone c p a.id x.lane stOk (y.num o a.bytes) x.faddr
      | none =>
        if lost then s.partLost c p a x
        else match s.fillOf c p x.loc x.own x.priv with
          | some y =>
            let s := s.countMiss c p a x keep
            let s := if keep then s.l1Add c k y else s
            s.partDone c p a.id x.lane stOk (y.num o a.bytes) x.faddr
          | none => s.askLane c p a x
    | _ =>
      if lost then s.partLost c p a x
      else match (match hit with | some y => some y | none => s.fillOf c p x.loc x.own x.priv) with
        | some y =>
          let s := if hit.isNone then s.countMiss c p a x true else s
          let old := y.num o a.bytes
          (s.l1Add c k (y.put o a.bytes (a.newVal x old) true)).partDone c p a.id x.lane stOk old x.faddr
        | none => s.askLane c p a x
/-- An atomic of device or system scope passes the logs of its slice; none where it waits for its turn (R299, R300). -/
def State.atomGate (s : State) (c p : Nat) (a : Access) (x : LanePart) : Option State :=
  if a.scope.code.toNat < 3 then some s
  else
    let tm := s.team c (s.group c p).team
    s.replayGate tm.func tm.ctx ((locKey8 x.loc).getD 0) (s.requester c p x.lane)
/-- A lane at the home slice: accesses at cluster, device or system scope. Dirty bytes of the core's own copy go first. -/
def State.performHome (s : State) (c p : Nat) (a : Access) (x : LanePart) : State :=
  match locKey x.loc with
  | none => s
  | some k =>
    let s := s.l1Back c k false
    match a.op with
    | .store => s.storeHome c p a x
    | .load =>
      if s.locPoisoned x.loc a.bytes then s.partLost c p a x
      else match s.sliceNum x.loc a.bytes with
        | some v => (s.l1Touch c x.loc a.bytes v).partDone c p a.id x.lane stOk v x.faddr
        | none => s.askLane c p a x
    | _ =>
      if s.locPoisoned x.loc a.bytes then s.partLost c p a x
      else match s.sliceNum x.loc a.bytes with
        | none => s.askLane c p a x
        | some old => match s.atomGate c p a x with
          | none => s
          | some s =>
            let tm := s.team c (s.group c p).team
            let s := (s.slicePut tm.func tm.ctx x.loc a.bytes (a.newVal x old)).l1Back c k true
            (s.pcountG c p 8 1).partDone c p a.id x.lane stOk old x.faddr
/-- One lane of an access performed where its scope and place say; one of distributed scratch waits for the agent. -/
def State.performPart (s : State) (c p : Nat) (a : Access) (x : LanePart) : State :=
  if directRoute a.op a.scope a.strm x.loc then s.sendLane c p a x
  else match x.loc with
  | .own b o => s.performOwn c p a x b o
  | .dist _ => s
  | .err st => s.partDone c p a.id x.lane st 0 x.faddr
  | .window o => s.performWindow c p a x o
  | .home _ | .pool _ | .far _ _ => if a.scope.code.toNat < 2 then s.performL1 c p a x else s.performHome c p a x
/-- An operation that counts in ld. -/
def AccOp.inLd : AccOp → Bool
  | .load | .atom _ | .frag .. => true
  | _ => false
/-- Lanes of an outstanding access performed in ascending order, those that can be now: by p, whether the operation is
one the event completes. -/
def State.performLanes (s : State) (c g id : Nat) (p : AccOp → Bool) (k : State → Access → LanePart → State) : List Nat → State
  | [] => s
  | l :: ls =>
    let t := match (s.group c g).acc.find? (fun (a : Access) => a.id == id && p a.op) with
      | some a => (match a.parts.find? (fun (x : LanePart) => x.lane == l) with
        | some (x : LanePart) => if x.sent || !s.laneFree c g a x then s else k s a x
        | none => s)
      | none => s
    t.performLanes c g id p k ls
/-- The lanes an event names of an access of its group. -/
def State.performNamed (s : State) (p : AccOp → Bool) (k : State → Nat → Nat → Access → LanePart → State) : State :=
  s.performLanes s.inp.core s.inp.gs s.inp.id p (fun s => k s s.inp.core s.inp.gs) (laneList s.inp.lanes)

/-! ## The cluster agent (R210, R237) -/

/-- An access accepted earlier from the group to the same team is still with the agent. -/
def State.agentBusy (s : State) (c p : Nat) (a : Access) (d : W32) : Bool :=
  ((s.group c p).acc.takeWhile (fun b => b.id != a.id)).any (fun b => b.parts.any (fun y => match y.loc with
    | .dist e => saCidx e == saCidx d
    | _ => false))
/-- The agent delivers a lane of distributed scratch. A window unmapped since, or a barrier word gone, fails it. -/
def State.agentDeliver (s : State) (c p : Nat) (a : Access) (x : LanePart) : State :=
  match x.loc with
  | .dist d =>
    if s.agentBusy c p a d then s
    else match s.distBank c (s.group c p).team d with
    | none => s.partDone c p a.id x.lane stRange 0 d.toNat
    | some (c', b) =>
      if a.op == .barr && !(s.core c').isBar b (saOff d / 4) then s.partDone c p a.id x.lane stAccess 0 d.toNat
      else
        let r := (s.core c').bankOp a x b (saOff d)
        ((s.setCore c' r.2).wake c').partDone c p a.id x.lane stOk r.1 0
  | _ => s

/-! ## Shutters (R221, R222) -/

/-- A range of scratch addresses of the own team touches a window. -/
def inWindow (a : W64) (n w : Nat) : Bool :=
  match globTgt a with
  | .scr x => !saDs x && decide (x.toNat / 2 ^ 14 ≤ w) && decide (w ≤ (x.toNat + n - 1) / 2 ^ 14)
  | .glob _ => false
/-- Bytes of a source row of a TSPLIT (R452). -/
def splitRow (sfmt : Nat) : Nat :=
  match sfmt with
  | 0x01 | 0x07 => 32
  | 0x04 | 0x05 => 128
  | 0x10 => 256
  | 0x08 => 16
  | _ => 64
/-- An engine descriptor names a window: a range it reads or writes touches it, or its latch word lies in it. -/
def CteDesc.names (d : CteDesc) (w : Nat) : Bool :=
  (!noLatch d.latch && saWin (lo32 d.latch) == w) ||
  match d.kind with
  | .tsplit src stride dst scale sfmt scl =>
    let p := match mfmt (recFmt dst) with | some m => m.planes | none => 0
    inWindow src (63 * stride + splitRow sfmt) w ||
    inWindow (BitVec.ofNat 64 (0xFFFFFFFF * 2 ^ 32 + recAddr dst)) (512 * p) w ||
    (scale != 0 && saWin (lo32 scale) == w) ||
    (match scl with | some a => inWindow a 128 w | none => false)
  | .copy src dst len rows planes srs drs sps dps =>
    inWindow src ((planes - 1) * sps + (rows - 1) * srs + len) w || inWindow dst ((planes - 1) * dps + (rows - 1) * drs + len) w
  | .fput src _ len _ _ => inWindow src len w
  | .fget _ dst len _ => inWindow dst len w
  | .fsig .. => false
/-- Something accepted earlier still uses the bank a SHUT gives up. While the core stops, its engine's descriptors stand
still and do not count. -/
def State.flipBusy (s : State) (c : Nat) (e : Flip) : Bool :=
  let at_ (l : Loc) : Bool := match l with | .own b _ => b == e.bank | _ => false
  let co := s.core c
  e.before.any (fun x => (s.group c x.1).acc.any (fun a => a.id == x.2)) ||
  co.tq.any (fun o => o.parts.any (fun x => at_ x.loc) || (match o.kind with
    | .mma slabs => slabs.any (fun a => (a.apl ++ a.bpl).any at_)
    | _ => false)) ||
  co.latch.arrivals.any (fun a => (a.apl ++ a.bpl).any at_) ||
  (!e.fifo && !co.stop && co.cte.any (fun y => match y.2 with
    | some d => (s.group c d.gs).team == e.team && d.names e.num
    | none => false))
/-- A bank with its words and entries zeroed. -/
def Core.zeroBank (x : Core) (b : Nat) : Core :=
  { x with scr := x.scr.filter (fun e => e.1 / 4096 != b), fifos := tput {} x.fifos b {} }
/-- A SHUT that takes a cache way begins: it chooses its bank, whose lines leave it (R221, R431). -/
def State.shutBegin (s : State) (c k : Nat) (e : Flip) : State :=
  let co := s.core c
  (s.setCore c { co with flips := co.flips.set k { e with begun := true, bank := co.cacheWays.headD 0 } }).l1Trim c
/-- The k-th shutter of a core, with no earlier one of its team in flight: it begins, or it flips once nothing uses the
bank given up, or every line of the bank taken is written back. The bank is zeroed, and mapped for its team or a cache
way again. -/
def State.shutFlip (s : State) (c k : Nat) : State :=
  let co := s.core c
  match co.flips[k]? with
  | none => s
  | some e =>
    if (co.flips.take k).any (fun x => x.team == e.team) then s
    else if !e.begun then s.shutBegin c k e
    else if if e.giveUp then s.flipBusy c e else s.evicting c then s
    else
      let set : Shutter := if e.giveUp then .cache else if e.fifo then .fifo else .scratch
      let co := { co.zeroBank e.bank with shut := co.shut.set e.bank set, flips := co.flips.eraseIdx k }
      let tm := s.team c e.team
      let tm := if e.giveUp then tm
        else if e.fifo then { tm with fifo := tm.fifo ++ [(e.num, e.bank)] } else { tm with win := tm.win ++ [(e.num, e.bank)] }
      let s := (s.setCore c co).setTeam c e.team tm
      let g := s.group c e.gs
      if g.live then s.setGroup c e.gs { g with cp := g.cp - 1 } else s

def execLoadComplete (s : State) : Host.Outcome State Fault Refusal := .next (s.performNamed AccOp.inLd State.performPart)
def execStoreAck (s : State) : Host.Outcome State Fault Refusal := .next (s.performNamed (fun o => !o.inLd) State.performPart)
def execClusterAgentDelivery (s : State) : Host.Outcome State Fault Refusal :=
  .next (s.performNamed (fun _ => true) State.agentDeliver)
def execShutFlip (s : State) : Host.Outcome State Fault Refusal := .next (s.shutFlip s.inp.core s.inp.pos)

end Sys2Proof.Machine
end

