-- ==== Sys2Proof/Machine/TileRun.lean ====
section
/-! DEFINITION. The matrix unit at work (R439 to R448): the operation at the head of its queue reads its operands,
computes and writes its results. -/

namespace Sys2Proof.Machine

/-! ## Places of an operation -/

/-- A place of the operation at the head changed. -/
def State.setPlace (s : State) (c : Nat) (x : LanePart) : State :=
  match (s.core c).tq with
  | [] => s
  | o :: rest =>
    s.setCore c { s.core c with tq := { o with parts := o.parts.map (fun y => if y.lane == x.lane then x else y) } :: rest }
/-- A place read, with its bytes. -/
def State.placeRead (s : State) (c : Nat) (x : LanePart) (v : Nat) : State :=
  s.setPlace c { x with got := true, data := BitVec.ofNat 256 v }
/-- A place that could not be reached: its group's fault, and no value (R61). -/
def State.placeBad (s : State) (c p : Nat) (x : LanePart) (status : Byte) : State :=
  (s.setPlace c { x with got := true, loc := .err status }).setGroup c p ((s.group c p).remoteFault status x.faddr)
/-- A request of the operation to the target of a place. -/
def State.placeSend (s : State) (c p : Nat) (x : LanePart) (q : Packet) : State :=
  ((s.setPlace c { x with sent := true }).pcountG c p 10 1).sendReq q (.tile c x.lane)
/-- No other request for a sector is under way. -/
def State.sectorFree (s : State) (q : Nat) : Bool := !s.evictUnder q && !s.fillUnder q && !s.laneUnder q
/-- One place of an operation read as a plain load of its group (R445, R448). -/
def State.readPlace (s : State) (c p n : Nat) (x : LanePart) : State :=
  let here : Option Nat := match locKey x.loc with
    | some k => (match s.l1Get c k with
      | some y => some (y.num (locOff x.loc) n)
      | none => if s.locPoisoned x.loc n then none else s.sliceNum x.loc n)
    | none => none
  match x.loc with
  | .own b o => s.placeRead c x ((s.core c).scrNum b o n)
  | .dist d => (match s.distBank c (s.group c p).team d with
    | some (c', b) => s.placeRead c x ((s.core c').scrNum b (saOff d) n)
    | none => s.placeBad c p x stRange)
  | .err st => s.placeBad c p x st
  | .window o => (match s.windowLoad (s.team c (s.group c p).team).func o n with
    | some b => s.placeRead c x (leNat b)
    | none => s.placeBad c p x stAccess)
  | .home pa => (match here with
    | some v => s.placeRead c x v
    | none => (s.consume c p pa x.own x.priv x.va).setPlace c { x with got := true, loc := .err stUncorr })
  | .pool q | .far q _ => match here with
    | some v => s.placeRead c x v
    | none => if s.sectorFree q then s.placeSend c p x (pkRead (s.groupHdr c p 0 .plain) q n) else s
/-- One place of an operation written as a plain store of its group (R446, R447). -/
def State.writePlace (s : State) (c p n : Nat) (x : LanePart) : State :=
  let v := x.data.toNat
  let tm := s.team c (s.group c p).team
  let overAll (s : State) : State := s.setPlace c { x with got := true }
  match x.loc with
  | .own b o => overAll ((s.setCore c ((s.core c).scrPut b o n v)).wake c)
  | .dist d => (match s.distBank c (s.group c p).team d with
    | some (c', b) => overAll ((s.setCore c' ((s.core c').scrPut b (saOff d) n v)).wake c')
    | none => s.placeBad c p x stRange)
  | .err st => s.placeBad c p x st
  | .window o => (match s.windowStore tm.func o (leBytes n v) with
    | some t => t.setPlace c { x with got := true }
    | none => s.placeBad c p x stAccess)
  | .home _ | .pool _ | .far _ _ => match locKey x.loc with
    | none => s
    | some k => match s.l1Get c k with
      | some y => overAll (s.l1Set c k (some (y.put (locOff x.loc) n v true)))
      | none => match x.loc with
        | .pool q | .far q _ =>
          let slice := (tget none s.l2 (q / 32)).isSome
          if slice && locRcc x.loc != 1 then overAll (s.slicePut tm.func tm.ctx x.loc n v)
          else if s.sectorFree q then
            let s := match tget none s.l2 (q / 32) with
              | some y => s.l2Put q (y.put (q % 32) n v false)
              | none => s
            s.placeSend c p x (pkWrite (s.groupHdr c p 0 .plain) q (leBytes n v))
          else s
        | _ => overAll (s.slicePut tm.func tm.ctx x.loc n v)
/-- Every place of the operation at the head tried that is neither done nor under way. -/
def State.doPlaces (s : State) (k : State → LanePart → State) (xs : List LanePart) : State :=
  xs.foldl (fun s x => if x.got || x.sent then s else k s x) s
def State.headOp (s : State) (c : Nat) : Option TileOp := (s.core c).tq.head?
/-- Every place is done. -/
def TileOp.placed (o : TileOp) : Bool := o.parts.all (fun x => x.got)
/-- A place has its data. -/
def placeOk (x : LanePart) : Bool := match x.loc with | .err _ => false | _ => true

/-! ## Results -/

/-- The operation at the head is over: its group's count in tl falls, and each member's of a gang (R404, R439, R442). -/
def State.tileDone (s : State) (c : Nat) (o : TileOp) : State :=
  let s := s.setCore c { s.core c with tq := (s.core c).tq.tail }
  let members : List Nat := match o.kind with
    | .mma slabs => slabs.map (fun (a : Arrival) => a.gs)
    | _ => [o.gs]
  members.foldl (fun s p => s.setGroup c p { s.group c p with tl := (s.group c p).tl - 1 }) s
/-- Bytes of an element of TLOADA, and its FP32 bits (R445). -/
def loadElem (fmt x : Nat) : W32 :=
  match fmt with
  | 0 => BitVec.ofNat 32 x
  | 1 => BitVec.ofNat 32 (x * 65536)
  | _ => BitVec.ofNat 32 (f32.convert rmNear 0 (f16.val x)).bits
/-- A tile after TLOADA: the elements of a place that had no data stay. -/
def Core.loadTile (x : Core) (t fmt : Nat) (parts : List LanePart) : Core :=
  let e := if fmt == 0 then 4 else 2
  let per := 16 / e
  x.setTile t (fun i => match parts[i / per]? with
    | some y => if placeOk y then loadElem fmt (bits y.data.toNat (8 * e * (i % per)) (8 * e)) else x.accAt t (i / 64) (i % 64)
    | none => x.accAt t (i / 64) (i % 64))
/-- Results cut into places of so many elements of so many bytes. -/
def packParts (parts : List LanePart) (xs : List Nat) (e : Nat) : List LanePart :=
  let per := 16 / e
  parts.map (fun y => { y with data := BitVec.ofNat 256 ((upto per).foldl (fun (acc : Nat) j =>
    acc + xs.getD (y.lane * per + j) 0 * 2 ^ (8 * e * j)) 0) })
/-- The head's operation with its results, started. -/
def State.startOp (s : State) (c : Nat) (o : TileOp) (parts : List LanePart) : State :=
  s.setCore c { s.core c with tq := { o with parts, started := true } :: (s.core c).tq.tail }
/-- A drain reads its tile: counts of a histogram, converted elements, random states (R285, R287, R446). -/
def State.startDrain (s : State) (c : Nat) (o : TileOp) (fn : BitVec 16) (e0 : Byte) : State :=
  let co := s.core c
  let xs := (upto 4096).map (fun i => co.accAt o.tile (i / 64) (i % 64))
  let co := if fn.getLsbD 12 then co.histAdd (bits fn.toNat 13 3) (sInt 8 e0.toNat) xs else co
  let r := drainElems fn o.mode (s.group c o.gs) xs
  let e := drainBytes (fn.toNat % 256)
  ((s.setCore c co).setGroup c o.gs r.2).startOp c o (packParts o.parts r.1 e)
/-- HREAD reads its bins, and zeroes them in the same step (R447). -/
def State.startHread (s : State) (c : Nat) (o : TileOp) (h : Nat) (clr : Bool) : State :=
  let co := s.core c
  let xs := (upto 32).map (fun b => (tget 0 co.hist (h * 32 + b)).toNat)
  let co := if clr then { co with hist := co.hist.filter (fun e => e.1 / 32 != h) } else co
  (s.setCore c co).startOp c o (packParts o.parts xs 4)
/-- The entries of a codebook table read in 8-byte places; those of a place without data stay (R448). -/
def Core.loadBook (x : Core) (parts : List LanePart) : Tbl (BitVec 16) :=
  (upto 256).foldl (fun t i => match parts[i / 4]? with
    | some y => if placeOk y then tput 0 t i (BitVec.ofNat 16 (bits y.data.toNat (16 * (i % 4)) 16)) else tput 0 t i (tget 0 x.book i)
    | none => t) []
/-- A TSPLIT of LC2 that must decode before the next CBOOK takes effect (R448). -/
def Core.bookWaits (x : Core) : Bool :=
  x.cte.any (fun e => match e.2 with
    | some d => decide (d.book ≤ x.booksDone) && (match d.kind with | .tsplit _ _ _ _ sfmt _ => sfmt == 8 | _ => false)
    | none => false)
/-- The operands of an operation: every access its group, or its gang, issued before it is performed (R439, R445). -/
def State.operandsIn (s : State) (c : Nat) (o : TileOp) : Bool :=
  !o.before.any (fun b => (s.group c b.1).acc.any (fun a => a.id == b.2))
/-- Plane clocks of a slab (R275, R302). -/
def Arrival.clocks (a : Arrival) : Nat := a.npl.toNat
/-- The operation at the head of a core's queue goes on as far as it can, and is over when its results are written. -/
def State.tileRun (s : State) (c : Nat) : State :=
  match s.headOp c with
  | none => s
  | some o =>
    if !s.operandsIn c o then s
    else
      let overAll (s : State) (k : State → TileOp → State) : State :=
        match s.headOp c with
        | some o' => if o'.placed then (k s o').tileDone c o' else s
        | none => s
      let co := s.core c
      match o.kind with
      | .mma slabs =>
        let s := slabs.foldl (fun s a => s.pcountG c a.gs 3 a.clocks) s
        let b := slabs.headD { idx := 0, gs := 0, arec := (0, 0), brec := (0, 0), tile := 0, z := false, fmt := 0, npl := 0
                               sp := false, apl := [], bpl := [] }
        (s.setCore c (slabs.foldl (fun co a => co.slab a.arec.1 a.apl b.brec.1 b.bpl a.tile a.z) co)).tileDone c o
      | .zero ts => (s.setCore c (ts.foldl (fun co t => co.setTile t (fun _ => 0)) co)).tileDone c o
      | .loada fmt =>
        overAll (s.doPlaces (fun s x => s.readPlace c o.gs 16 x) o.parts) (fun s o =>
          s.setCore c ((s.core c).loadTile o.tile fmt o.parts))
      | .drain fn e0 =>
        let s := if o.started then s else s.startDrain c o fn e0
        let parts := match s.headOp c with | some o => o.parts | none => []
        overAll (s.doPlaces (fun s x => s.writePlace c o.gs 16 x) parts) (fun s _ => s)
      | .hread h clr =>
        let s := if o.started then s else s.startHread c o h clr
        let parts := match s.headOp c with | some o => o.parts | none => []
        overAll (s.doPlaces (fun s x => s.writePlace c o.gs 16 x) parts) (fun s _ => s)
      | .cbook addr dflt =>
        if co.bookWaits then s
        else overAll (s.doPlaces (fun s x => s.readPlace c o.gs 8 x) o.parts) (fun s o =>
          let co := s.core c
          s.setCore c { co with
            book := if dflt then defaultBook else co.loadBook o.parts
            cbaddr := if dflt then 0 else addr, booksDone := co.booksDone + 1 })

def execTileOpComplete (s : State) : Host.Outcome State Fault Refusal := .next (s.tileRun s.inp.core)

end Sys2Proof.Machine
end

