-- ==== Sys2Proof/Machine/CteRun.lean ====
section
/-! DEFINITION. The core transfer engine at work (R449 to R456): its descriptors' units, their arrivals (R230, R231, R259),
parked accesses (R134), and the signals of FSIG and FPUT.SIG. -/

namespace Sys2Proof.Machine

/-! ## Descriptors -/

def State.desc? (s : State) (c d : Nat) : Option CteDesc := tget none (s.core c).cte d
def State.setDesc (s : State) (c d : Nat) (x : Option CteDesc) : State :=
  s.setCore c { s.core c with cte := tput none (s.core c).cte d x }
/-- How a step of an engine ends: with what it gives, or in a state in which it waits or has failed. -/
inductive Eng (α : Type) where
  | ok (x : α) (s : State)
  | stop (s : State)
def Eng.bind {α β : Type} (r : Eng α) (k : α → State → Eng β) : Eng β :=
  match r with
  | .ok x s => k x s
  | .stop s => .stop s
/-- The word fails with an INFO of R451 and the address concerned. -/
def State.cteFail {α : Type} (s : State) (c d info : Nat) (va : W64) : Eng α := .stop (s.engineEnd c d cEngine info va)
/-- A descriptor whose access does not translate parks with its progress, or fails where its time is over at once
(R134, R451). -/
def State.ctePark (s : State) (c d : Nat) (x : CteDesc) (k : XlFault) : State :=
  if !k.stage2 && k.level == 0 then s.engineEnd c d cEngine 1 k.va
  else
    let tm := s.team c (s.group c x.gs).team
    let r := s.parkNote tm.func tm.ctx (.cte c d) x.park k c x.gs
    r.1.setDesc c d (some { x with park := some r.2 })

/-! ## Places -/

/-- A place an engine reaches, with the VDN of a global address and its ownership. -/
structure EngLoc where
  loc : Loc
  vdn : Option Nat := none
  own : Nat := 0
  priv : Bool := false
/-- Where an address of a descriptor leads (R415, R451). -/
def State.engAt (s : State) (c d : Nat) (x : CteDesc) (va : W64) (access : Nat) : Eng EngLoc :=
  let t := (s.group c x.gs).team
  let tm := s.team c t
  match globTgt va with
  | .scr a => match s.scratchLoc c t a with
    | some l => .ok { loc := l } s
    | none => s.cteFail c d 2 va
  | .glob va => match s.engXl c tm.func tm.ctx va access with
    | (.error (.need q), s) => .stop (s.askSectors c tm.func tm.ctx (.pool q) 8)
    | (.error .transit, s) => .stop s
    | (.error (.fault k), s) => .stop (s.ctePark c d x k)
    | (.ok e, s) =>
      if e.windowed access then .stop (s.ctePark c d x { stage2 := true, level := 3, kind := kPerm, va
                                                         gpa := BitVec.ofNat 64 (e.gpage * 65536), access })
      else .ok { loc := e.loc.add (va.toNat % 65536), vdn := some (e.sfa / 2 ^ 44), own := e.own, priv := e.priv } s
/-- A local address: scratch, or one that translates to the own partition (R454). -/
def State.engLocal (s : State) (c : Nat) (x : CteDesc) (l : EngLoc) : Bool :=
  match l.vdn with
  | none => true
  | some v => v == (s.func (s.team c (s.group c x.gs).team).func).vdn.toNat &&
    (match l.loc with | .window _ => false | _ => true)
/-- The issuing core's own copies of a range written back and dropped (R259). -/
def State.dropOwn (s : State) (c : Nat) (l : Loc) (n : Nat) : State :=
  match locKey l, locKey (l.add (n - 1)) with
  | some k0, some k1 => (upto (k1 - k0 + 1)).foldl (fun s i => s.l1Back c (k0 + i) true) s
  | _, _ => s
/-- The word reads its source wherever it lies: TSPLIT, which R452 holds to no address class. -/
def CteDesc.anyPlace (x : CteDesc) : Bool := match x.kind with | .tsplit .. => true | _ => false
/-- Requests in all streams, and those waiting for one. -/
def State.requests (s : State) : Nat := s.streams.foldl (fun n x => n + x.out.length + x.queue.length) 0
/-- The sectors of a range asked for, counted for the issuing group (R302). -/
def State.engAsk (s : State) (c p : Nat) (l : Loc) (n : Nat) : State :=
  let tm := s.team c (s.group c p).team
  let t := s.askSectors c tm.func tm.ctx l n
  let k := t.requests - s.requests
  (t.pcountG c p 7 (match l with | .pool _ => k | _ => 0)).pcountG c p 10 k
/-- Bytes read at a place. -/
def State.engGet (s : State) (c d : Nat) (x : CteDesc) (va : W64) (l : EngLoc) (n : Nat) : Eng (List Byte) :=
  let tm := s.team c (s.group c x.gs).team
  match l.loc with
  | .own b o => .ok (leBytes n ((s.core c).scrNum b o n)) s
  | .dist a => match s.distBank c (s.group c x.gs).team a with
    | some (c', b) => .ok (leBytes n ((s.core c').scrNum b (saOff a) n)) s
    | none => s.cteFail c d 2 va
  | .window o => match s.windowLoad tm.func o n with
    | some b => .ok b s
    | none => s.cteFail c d 3 va
  | .err _ => s.cteFail c d 3 va
  | .home pa =>
    if s.poisoned pa n then (s.consume c x.gs pa l.own l.priv va).cteFail c d 3 va else .ok (bytesAt s.mem pa n) s
  | .pool _ | .far _ _ => match s.locBytes l.loc n with
    | some b => .ok b s
    | none => match s.lostFill l.loc n with
      | some (_, t) => t.cteFail c d 3 va
      | none => .stop (s.engAsk c x.gs l.loc n)
/-- Bytes written at a place of this device, tags unchanged. -/
def State.engPut (s : State) (c d : Nat) (x : CteDesc) (va : W64) (l : EngLoc) (bs : List Byte) : Eng Unit :=
  let tm := s.team c (s.group c x.gs).team
  match l.loc with
  | .own b o => .ok () ((s.setCore c ((s.core c).scrPut b o bs.length (leNat bs))).wake c)
  | .dist a => match s.distBank c (s.group c x.gs).team a with
    | some (c', b) => .ok () ((s.setCore c' ((s.core c').scrPut b (saOff a) bs.length (leNat bs))).wake c')
    | none => s.cteFail c d 2 va
  | .window o => match s.windowStore tm.func o bs with
    | some t => .ok () t
    | none => s.cteFail c d 3 va
  | .err _ => s.cteFail c d 3 va
  | .home _ | .pool _ | .far _ _ => .ok () ((s.dropOwn c l.loc bs.length).locWrite c tm.func l.loc bs)
/-- Bytes of a run up to the next 16 KiB boundary, inside which it lies in one window or page. -/
def runHere (va : W64) (n : Nat) : Nat := min n (16384 - va.toNat % 16384)
/-- n bytes of a source, local where the word asks for that (R454). -/
def State.cteRead (s : State) (c d : Nat) (x : CteDesc) (va : W64) (n : Nat) : Nat → Eng (List Byte)
  | 0 => .ok [] s
  | i + 1 =>
    if n == 0 then .ok [] s
    else
      let m := runHere va n
      (s.engAt c d x va 0).bind (fun l s =>
        if !x.anyPlace && !s.engLocal c x l then s.cteFail c d 4 va
        else (s.engGet c d x va l m).bind (fun b s =>
          (s.cteRead c d x (va + BitVec.ofNat 64 m) (n - m) i).bind (fun b' s => .ok (b ++ b') s)))
/-- Bytes of a local destination written. -/
def State.cteWrite (s : State) (c d : Nat) (x : CteDesc) (va : W64) (bs : List Byte) : Nat → Eng Unit
  | 0 => .ok () s
  | i + 1 =>
    if bs.isEmpty then .ok () s
    else
      let m := runHere va bs.length
      (s.engAt c d x va 1).bind (fun l s =>
        if !s.engLocal c x l then s.cteFail c d 4 va
        else (s.engPut c d x va l (bs.take m)).bind (fun _ s =>
          s.cteWrite c d x (va + BitVec.ofNat 64 m) (bs.drop m) i))

/-! ## Units -/

/-- The descriptor is over: cp falls (R449). -/
def State.descEnd (s : State) (c d : Nat) : State :=
  match s.desc? c d with
  | none => s
  | some x =>
    let g := s.group c x.gs
    (s.setGroup c x.gs { g with cp := g.cp - 1 }).setDesc c d none
/-- Every unit is counted, and no signal is still to come. -/
def CteDesc.overAll (x : CteDesc) : Bool :=
  match x.kind with
  | .tsplit .. => x.done.contains 0
  | .fput _ _ _ _ (some _) => x.count == x.total && x.sigBack
  | .fsig .. => x.sigBack
  | _ => x.count == x.total
/-- A unit is complete: its bytes are counted into the latch, and with the last one the descriptor is over (R230, R231). -/
def State.unitDone (s : State) (c d pos n : Nat) : State :=
  match s.desc? c d with
  | none => s
  | some x =>
    let x := { x with done := pos :: x.done, count := x.count + n, back := x.back.filter (fun b => b.1 != pos), park := none }
    let s := s.setDesc c d (some x)
    let ended (s : State) : State := if x.overAll then s.descEnd c d else s
    if noLatch x.latch then ended s
    else match s.arriveLatch c (s.group c x.gs).team (lo32 x.latch) (some n) with
      | none => s.engineEnd c d cLatch 0 ((lo32 x.latch).setWidth 64)
      | some s => ended s
/-- A unit of a copy (R454). -/
def State.copyUnit (s : State) (c d pos : Nat) (x : CteDesc) (u : XUnit) : State :=
  match (s.cteRead c d x u.src u.n 2).bind (fun b s => s.cteWrite c d x u.dst b 2) with
  | .ok _ s => s.unitDone c d pos u.n
  | .stop s => s
/-- No request for a sector of a range is under way; cached copies of it go first (R63). -/
def State.rangeFree (s : State) (q n : Nat) : Bool :=
  (upto (n / 32 + 2)).all (fun i => decide ((q + n - 1) / 32 < q / 32 + i) || (!s.evictUnder (q + 32 * i) && !s.fillUnder (q + 32 * i)))
def State.rangeBack (s : State) (c : Nat) (l : Loc) (q n : Nat) : State :=
  (upto ((q + n - 1) / 32 - q / 32 + 1)).foldl (fun s i => s.l2Back c (q / 32 + i) true) (s.dropOwn c l n)
/-- A unit's request sent on the word's stream, in ascending order. -/
def State.unitSend (s : State) (c d pos : Nat) (x : CteDesc) (q : Packet) : State :=
  ((s.setDesc c d (some { x with sent := pos + 1, park := none })).pcountG c x.gs 10 1).sendReq q (.unit c d pos)
/-- The next unit of an FPUT: a request to its target, or a write to another function of this device (R455). -/
def State.putUnit (s : State) (c d pos : Nat) (x : CteDesc) (u : XUnit) (strm : BitVec 2) : State :=
  let r : Eng Unit := (s.engAt c d x u.dst 1).bind (fun l s =>
    if s.engLocal c x l then s.cteFail c d 4 u.dst
    else (s.cteRead c d x u.src u.n 2).bind (fun b s =>
      match l.loc with
      | .far q _ =>
        let s := s.rangeBack c l.loc q u.n
        if s.rangeFree q u.n then .stop (s.unitSend c d pos x (pkWrite (s.groupHdr c x.gs strm .plain) q b)) else .stop s
      | _ => (s.engPut c d x u.dst l b).bind (fun _ s => .ok () (s.setDesc c d (some { x with sent := pos + 1 })))))
  match r with
  | .ok _ s => s.unitDone c d pos u.n
  | .stop s => s
/-- The next unit of an FGET. -/
def State.getUnit (s : State) (c d pos : Nat) (x : CteDesc) (u : XUnit) (strm : BitVec 2) : State :=
  let r : Eng Unit := (s.engAt c d x u.src 0).bind (fun l s =>
    if s.engLocal c x l then s.cteFail c d 4 u.src
    else match l.loc with
      | .far q _ =>
        let s := s.rangeBack c l.loc q u.n
        if s.rangeFree q u.n then .stop (s.unitSend c d pos x (pkRead (s.groupHdr c x.gs strm .plain) q u.n)) else .stop s
      | _ => (s.engGet c d x u.src l u.n).bind (fun b s =>
        (s.cteWrite c d x u.dst b 2).bind (fun _ s => .ok () (s.setDesc c d (some { x with sent := pos + 1 })))))
  match r with
  | .ok _ s => s.unitDone c d pos u.n
  | .stop s => s
/-- The data of an FGET's unit have come: written locally, then counted. -/
def State.gotUnit (s : State) (c d pos : Nat) (x : CteDesc) (u : XUnit) (data : Nat) : State :=
  match s.cteWrite c d x u.dst (leBytes u.n data) 2 with
  | .ok _ s => s.unitDone c d pos u.n
  | .stop s => s

/-! ## Signals (R456) -/

/-- What an FSIG does: data stored at a target unless nothing is stored, and an add to a latch. -/
structure Sig where
  target : W64
  latch : W64
  store : Bool
  wide : Bool
  data : W64
  add : Nat
  strm : BitVec 2
/-- The request of a signal. -/
def State.sigPacket (s : State) (c p : Nat) (g : Sig) (t l : Nat) : Packet :=
  { s.groupHdr c p g.strm .system with
    op := oFSIG, daddr := BitVec.ofNat 60 t, opx := (if g.store then 0 else 1) + (if g.wide then 2 else 0)
    w3 := BitVec.ofNat 64 (l % 2 ^ 44), len := 1
    data := leBytes 8 (if g.wide then g.data.toNat else g.data.toNat % 2 ^ 32) ++ leBytes 8 g.add }
/-- A place as a fault names it: its system fabric address (R45, R46). -/
def EngLoc.addr (l : EngLoc) : Nat :=
  let v := l.vdn.getD 0
  match l.loc with
  | .window o => v * 2 ^ 44 + (if v == 0xFFFF then o else 0xF0000000000 + o)
  | .pool a | .far a _ => a
  | _ => v * 2 ^ 44
/-- A signal to memory of this device: the store, then the add, checked as a synchronising access. -/
def State.sigHere (s : State) (c d : Nat) (x : CteDesc) (g : Sig) (t l : EngLoc) : Eng Unit :=
  let tm := s.team c (s.group c x.gs).team
  match locKey l.loc, locLine l.loc with
  | some k, some ln =>
    if s.locPoisoned l.loc 8 then
      (match l.loc with | .home pa => s.consume c x.gs pa l.own l.priv g.latch | _ => s).cteFail c d 3 g.latch
    else
      let s := s.l1Back c k true
      match s.sliceNum l.loc 8 with
      | none => .stop (s.engAsk c x.gs l.loc 8)
      | some _ =>
        let r := s.recOf c x.gs .system
        if s.syncBad ln r then s.cteFail c d 3 g.latch
        else
          let s := s.syncSet ln r
          let n := if g.wide then 8 else 4
          (if g.store then s.engPut c d x g.target t (leBytes n g.data.toNat) else .ok () s).bind (fun _ s =>
            let old := (s.sliceNum l.loc 8).getD 0
            .ok () (s.slicePut tm.func tm.ctx l.loc 8 ((old + g.add) % 2 ^ 64)))
  | _, _ => s.cteFail c d 3 g.latch
/-- A signal sent or performed, with the permissions of an atomic (R121); the target and the latch must lie in one VDN,
and one that reaches the device window is refused (R48). -/
def State.signal (s : State) (c d : Nat) (x : CteDesc) (g : Sig) (remote : Bool) : State :=
  let r : Eng Unit := (s.engAt c d x g.target 2).bind (fun t s => (s.engAt c d x g.latch 2).bind (fun l s =>
    if t.vdn.isNone then s.cteFail c d 4 g.target
    else if l.vdn != t.vdn || (remote && s.engLocal c x l) then s.cteFail c d 4 g.latch
    else match t.loc, l.loc with
      | .window _, _ | _, .window _ => .stop (s.sigRefused c d stAccess t.addr)
      | .far q _, .far k _ =>
        let s := (s.rangeBack c t.loc q 8).rangeBack c l.loc k 8
        if s.rangeFree q 8 && s.rangeFree k 8 then
          let s := s.setDesc c d (some { x with sigSent := true, park := none })
          .stop ((s.pcountG c x.gs 10 1).sendReq (s.sigPacket c x.gs g q k) (.sig c d))
        else .stop s
      | _, _ => s.sigHere c d x g t l))
  match r with
  | .ok _ s => (s.setDesc c d (some { x with sigSent := true, sigBack := true })).descEnd c d
  | .stop s => s

/-! ## TSPLIT (R452, R453) -/

/-- An element's bits from its row's bytes; a code word of LC2 decoded to sign and magnitude (R268, R452). -/
def Core.splitRaw (x : Core) (sfmt : Nat) (row : List Byte) (k : Nat) : Nat :=
  let at_ (i n : Nat) : Nat := leNat ((row.drop i).take n)
  match sfmt with
  | 0x01 | 0x07 => bits (at_ (k / 2) 1) (4 * (k % 2)) 4
  | 0x04 | 0x05 => at_ (2 * k) 2
  | 0x10 => at_ (4 * k) 4
  | 0x08 =>
    let w := at_ (k / 8 * 2) 2
    let m := bits (tget 0 x.book (w / 256)).toNat (2 * (k % 8)) 2
    (if m != 0 && bitOf w (k % 8) then 1 else 0) + 2 * m
  | _ => at_ k 1
/-- An element in plane order: a floating-point one with its explicit leading bit (R274). -/
def MFmt.planeBits (m : MFmt) (x : Nat) : Nat :=
  match m.kind with
  | .float F =>
    let ex := bits x F.m F.e
    let lead := match F.val x with
      | .fin _ _ _ => ex != 0
      | _ => false
    (if bitOf x (F.e + F.m) then 1 else 0) + 2 * ex + 2 ^ (1 + F.e) * (x % 2 ^ F.m + (if lead then 2 ^ F.m else 0))
  | _ => x
/-- The format of a source that is converted. -/
def splitSrc (sfmt : Nat) : Fmt := if sfmt == 0x10 then f32 else if sfmt == 0x04 then bf16 else f16
/-- The source is converted, not copied or decoded. -/
def splitConv (sfmt fmt : Nat) : Bool := sfmt != fmt && (sfmt == 0x10 || sfmt == 0x04 || sfmt == 0x05)
/-- Exponent of the largest finite value of a block format (R453). -/
def splitEmax (fmt : Nat) : Int := if fmt == 1 then 2 else if fmt == 2 then 8 else 15
/-- The computed scale of a block (R453). -/
def splitScale (fmt : Nat) (vs : List FVal) : Nat :=
  if vs.any FVal.isNan then 0xFF
  else match vs.filterMap FVal.log with
    | [] => 127
    | e :: es =>
      let x : Int := es.foldl max e - splitEmax fmt + 127
      if x < 0 then 0 else if 254 < x then 254 else x.toNat
/-- The scale bytes of a chunk, from its source scales or its values. -/
def splitScales (fmt : Nat) (conv : Bool) (src : Option (List Byte)) (vals : List FVal) : List Nat :=
  (upto 128).map (fun i => match src with
    | some b => (b.getD i 0).toNat
    | none => if conv && fmt ≤ 3 then splitScale fmt ((vals.drop (32 * i)).take 32) else 127)
/-- The elements of a chunk in plane order, with the random state after its draws (R278, R279, R280). -/
def splitElems (m : MFmt) (mode : W64) (vals : List FVal) (scales : List Nat) (r : W64) : List Nat × W64 :=
  let go (rm : Rm) (h : Nat → Nat → FVal → Nat) : List Nat × W64 :=
    let out := vals.zipIdx.foldl (fun (acc : List Nat × W64) v =>
      let d := rm.draw acc.2
      (m.planeBits (h d.2 (scales.getD (v.2 / 32) 127) v.1) :: acc.1, d.1)) ([], r)
    (out.1.reverse, out.2)
  match m.kind with
  | .int w =>
    let rm : Rm := { rnd := bits mode.toNat 21 2, sat := false }
    go rm (fun u _ v => wrap w (toInt rm.rnd u (-(2 ^ (w - 1))) (2 ^ (w - 1) - 1) v).1)
  | .float F => let rm := modeRm mode F.modeLo; go rm (fun u k v => (F.convert rm u (v.scale (127 - (k : Int)))).bits)
  | .lc2 => ([], r)
/-- Plane p of elements in row-major order. -/
def planeOf (xs : List Nat) (p : Nat) : Nat := xs.foldr (fun x acc => (if bitOf x p then 1 else 0) + 2 * acc) 0
/-- The rows of a source. -/
def State.splitRows (s : State) (c d : Nat) (x : CteDesc) (src : W64) (stride n : Nat) : Nat → Eng (List (List Byte))
  | 0 => .ok [] s
  | i + 1 => (s.splitRows c d x src stride n i).bind (fun rs s =>
    (s.cteRead c d x (src + BitVec.ofNat 64 (i * stride)) n 2).bind (fun b s => .ok (rs ++ [b]) s))
/-- Planes, and then the scale tile, written to scratch in order. -/
def State.splitWrite (s : State) (c d : Nat) (x : CteDesc) : List (W32 × Nat × Nat) → Eng Unit
  | [] => .ok () s
  | (a, n, v) :: rest =>
    match s.ownSpot c (s.group c x.gs).team a with
    | none => s.cteFail c d 2 (a.setWidth 64)
    | some (b, o) => ((s.setCore c ((s.core c).scrPut b o n v)).wake c).splitWrite c d x rest
/-- The one unit of a TSPLIT; one of LC2 waits for the codebooks issued before it (R448). -/
def State.splitUnit (s : State) (c d : Nat) (x : CteDesc) (src : W64) (stride : Nat) (dst scale : W64) (sfmt : Nat)
    (scl : Option W64) : State :=
  let fmt := recFmt dst
  match mfmt fmt with
  | none => s
  | some m =>
    if sfmt == 8 && decide ((s.core c).booksDone < x.book) then s
    else
      let r : Eng (List (List Byte) × Option (List Byte)) :=
        (s.splitRows c d x src stride (splitRow sfmt) 64).bind (fun rows s => match scl with
          | some a => (s.cteRead c d x a 128 2).bind (fun b s => .ok (rows, some b) s)
          | none => .ok (rows, none) s)
      match r with
      | .stop s => s
      | .ok (rows, sb) s =>
        let co := s.core c
        let raw := rows.flatMap (fun b => (upto 64).map (fun k => co.splitRaw sfmt b k))
        let conv := splitConv sfmt fmt
        let vals := if conv then raw.map (fun v => (splitSrc sfmt).val v) else []
        let scales := splitScales fmt conv sb vals
        let g := s.group c x.gs
        let out := if conv then splitElems m x.mode vals scales (g.rget 0) else (raw.map m.planeBits, g.rget 0)
        let planes := (upto m.planes).map (fun p => (BitVec.ofNat 32 (recAddr dst + 512 * p), 512, planeOf out.1 p))
        let tile := if scale == 0 then [] else [(lo32 scale, 128, scales.foldr (fun v acc => v + 256 * acc) 0)]
        let s := s.setGroup c x.gs (g.rput 0 out.2)
        match s.splitWrite c d x (planes ++ tile) with
        | .stop s => s
        | .ok _ s => s.unitDone c d 0 (512 * m.planes + (if scale == 0 then 0 else 128))

/-! ## The event -/

/-- Every request of a descriptor has its response. -/
def CteDesc.answered (x : CteDesc) : Bool :=
  (upto x.sent).all (fun i => x.done.contains i || x.back.any (fun b => b.1 == i)) && (!x.sigSent || x.sigBack)
/-- A unit of a descriptor goes on as far as it can. While its core stops, nothing new begins (R209, R210); with its
team terminated the descriptor goes once its requests have their responses (R414). -/
def State.cteUnit (s : State) (c d pos : Nat) : State :=
  match s.desc? c d with
  | none => s
  | some x =>
    let dead := (s.team c (s.group c x.gs).team).term
    let stop := (s.core c).stop || dead
    let came := (x.back.find? (fun b => b.1 == pos)).map Prod.snd
    if x.overAll || (dead && x.answered) then s.descEnd c d
    else match x.kind with
    | .tsplit src stride dst scale sfmt scl => if stop || pos != 0 then s else s.splitUnit c d x src stride dst scale sfmt scl
    | .fsig t data l add wide strm =>
      if x.sigSent || stop then s
      else s.signal c d x { target := t, latch := l, store := true, wide, data, add := add.toNat, strm } false
    | .copy .. => match x.unit pos with
      | none => s
      | some u => if stop || x.done.contains pos then s else s.copyUnit c d pos x u
    | .fput _ dst len strm sig =>
      match x.unit pos, came with
      | some u, some _ => s.unitDone c d pos u.n
      | some u, none =>
        if stop || pos != x.sent then s
        else if x.done.contains pos then s.setDesc c d (some { x with sent := pos + 1 })
        else s.putUnit c d pos x u strm
      | none, _ => match sig with
        | some l =>
          if stop || x.sigSent || x.count != x.total then s
          else s.signal c d x { target := dst, latch := l, store := false, wide := false, data := 0, add := len, strm } true
        | none => s
    | .fget _ _ _ strm =>
      match x.unit pos, came with
      | some u, some v => s.gotUnit c d pos x u v
      | some u, none =>
        if stop || pos != x.sent then s
        else if x.done.contains pos then s.setDesc c d (some { x with sent := pos + 1 })
        else s.getUnit c d pos x u strm
      | none, _ => s

def execCteUnitComplete (s : State) : Host.Outcome State Fault Refusal :=
  .next (s.cteUnit s.inp.core s.inp.desc s.inp.pos)

end Sys2Proof.Machine
end

