-- ==== Sys2Proof/Machine/Auto.lean ====
section
/-! DEFINITION. What the device does of its own accord when its agenda says nothing: the cursor's core issues, and once
no group of it can, its outstanding work goes on and its clock advances; then the next core with groups has its turn. -/

namespace Sys2Proof.Machine

/-- The outstanding accesses of a group performed as far as they can be. -/
def State.groupWork (s : State) (c p : Nat) : State :=
  let ids := (s.group c p).acc.map (fun a => a.id)
  let s := ids.foldl (fun s id =>
    (s.performLanes c p id (fun _ => true) (fun s => s.performPart c p) lanes).performLanes c p id (fun _ => true)
      (fun s => s.agentDeliver c p) lanes) s
  ((s.yieldEnd c p).causalEnd c p).cstatAnswer c p
/-- A unit of a copy not yet counted: after the last one, or else the first there is; of the positions of a row the
last may be none. -/
def CteDesc.nextCopy (x : CteDesc) : List Nat :=
  let ok (p : Nat) : Bool := (x.unit p).isSome && !x.done.contains p
  let h := match x.done with | [] => 0 | q :: _ => q + 1
  match [h, h + 1].find? ok with
  | some p => [p]
  | none => ((upto (2 * x.done.length + 2)).find? ok).toList
/-- The positions of a descriptor that may go on: those with a response, and the next one. -/
def CteDesc.nextUnits (x : CteDesc) : List Nat :=
  x.back.map (fun b => b.1) ++ (match x.kind with
    | .copy .. => x.nextCopy
    | .fput .. | .fget .. => [x.sent]
    | _ => [0])
/-- Work of a core that no group's issue drives. -/
def State.coreWork (s : State) (c : Nat) : State :=
  let s := (s.placesOf c).foldl (fun s p => s.groupWork c p) s
  let s := s.tileRun c
  let s := (s.core c).cte.foldl (fun s e => match e.2 with
    | some x => x.nextUnits.foldl (fun s pos => s.cteUnit c e.1 pos) s
    | none => s) s
  let s := (upto (s.core c).flips.length).reverse.foldl (fun s k => s.shutFlip c k) s
  let s := if (tget [] s.walks (coreDie c)).isEmpty then s else s.walkDone (coreDie c) 0
  let s := s.sampleReach c
  let s := (s.placesOf c).foldl (fun s p => if (s.group c p).allExited || (s.team c (s.group c p).team).term then s.endGroup c p else s) s
  let s := if (s.core c).stop then s.coreStop c else s
  if (s.core c).scrub then s.scrubDone c else s
/-- Every function's launches placed where the distributor can. -/
def State.placeWork (s : State) : State :=
  if s.launches.isEmpty then s
  else (upto 64).foldl (fun s f => if s.loading f then s.resumeGo f else if s.canPlace f then s.distribute f else s) s
/-- What the device itself has left to do: writes it owes, the next step of a function's stop, and the end of a pass
that waits (R102, R159, R160, R303). -/
def State.deviceWork (s : State) : State := s.pay.quiesceDue.shipped.endPasses
/-- The core with groups after one, in turn. -/
def State.nextCore (s : State) (c : Nat) : Nat :=
  let cs := (s.groups.filter (fun e => e.2.live)).map (fun e => e.1 / 64)
  match cs.find? (fun k => decide (c < k)) with
  | some k => k
  | none => cs.headD c
/-- With nothing on the agenda the cursor's core issues, slot by slot; then its work, its clock and the next core. -/
def State.defaultTurn (s : State) : State :=
  let c := s.cur.core
  match (upto 4).find? (fun k => (s.pick c k).isSome) with
  | some k => s.issueTurn c k
  | none =>
    let s := (((s.coreWork c).placeWork).deviceWork).clockEdge c
    { s with cur := { s.cur with core := s.nextCore c } }

end Sys2Proof.Machine
end

