-- ==== Sys2Proof/Machine/Dispatch.lean ====
section
/-! DEFINITION. The meaning of each instruction: one arm for each constructor. -/

namespace Sys2Proof.Machine

def exec (i : Instr) (s : State) : Host.Outcome State Fault Refusal :=
  match i with
  | .pair f => Sys2Proof.Machine.execPair f s
  | .iadd f => Sys2Proof.Machine.execIadd f s
  | .isub f => Sys2Proof.Machine.execIsub f s
  | .imul f => Sys2Proof.Machine.execImul f s
  | .imulh f => Sys2Proof.Machine.execImulh f s
  | .imad f => Sys2Proof.Machine.execImad f s
  | .imin f => Sys2Proof.Machine.execImin f s
  | .imax f => Sys2Proof.Machine.execImax f s
  | .icmp f => Sys2Proof.Machine.execIcmp f s
  | .isel f => Sys2Proof.Machine.execIsel f s
  | .lea f => Sys2Proof.Machine.execLea f s
  | .andV f => Sys2Proof.Machine.execAndV f s
  | .orV f => Sys2Proof.Machine.execOrV f s
  | .xorV f => Sys2Proof.Machine.execXorV f s
  | .andn f => Sys2Proof.Machine.execAndn f s
  | .shl f => Sys2Proof.Machine.execShl f s
  | .shr f => Sys2Proof.Machine.execShr f s
  | .sar f => Sys2Proof.Machine.execSar f s
  | .bfe f => Sys2Proof.Machine.execBfe f s
  | .bfi f => Sys2Proof.Machine.execBfi f s
  | .popc f => Sys2Proof.Machine.execPopc f s
  | .clz f => Sys2Proof.Machine.execClz f s
  | .brev f => Sys2Proof.Machine.execBrev f s
  | .idp4 f => Sys2Proof.Machine.execIdp4 f s
  | .fdp2 f => Sys2Proof.Machine.execFdp2 f s
  | .fadd f => Sys2Proof.Machine.execFadd f s
  | .fsub f => Sys2Proof.Machine.execFsub f s
  | .fmul f => Sys2Proof.Machine.execFmul f s
  | .ffma f => Sys2Proof.Machine.execFfma f s
  | .fmin f => Sys2Proof.Machine.execFmin f s
  | .fmax f => Sys2Proof.Machine.execFmax f s
  | .fcmp f => Sys2Proof.Machine.execFcmp f s
  | .fsel f => Sys2Proof.Machine.execFsel f s
  | .frnd f => Sys2Proof.Machine.execFrnd f s
  | .fclass f => Sys2Proof.Machine.execFclass f s
  | .frcp f => Sys2Proof.Machine.execFrcp f s
  | .frsq f => Sys2Proof.Machine.execFrsq f s
  | .fsqrt f => Sys2Proof.Machine.execFsqrt f s
  | .fexp2 f => Sys2Proof.Machine.execFexp2 f s
  | .flog2 f => Sys2Proof.Machine.execFlog2 f s
  | .fsin f => Sys2Proof.Machine.execFsin f s
  | .fcos f => Sys2Proof.Machine.execFcos f s
  | .ftanh f => Sys2Proof.Machine.execFtanh f s
  | .cvt f => Sys2Proof.Machine.execCvt f s
  | .pack f => Sys2Proof.Machine.execPack f s
  | .unpack f => Sys2Proof.Machine.execUnpack f s
  | .rand f => Sys2Proof.Machine.execRand f s
  | .mov f => Sys2Proof.Machine.execMov f s
  | .shfl f => Sys2Proof.Machine.execShfl f s
  | .shflx f => Sys2Proof.Machine.execShflx f s
  | .shflup f => Sys2Proof.Machine.execShflup f s
  | .shfldn f => Sys2Proof.Machine.execShfldn f s
  | .shflr f => Sys2Proof.Machine.execShflr f s
  | .vote f => Sys2Proof.Machine.execVote f s
  | .ballot f => Sys2Proof.Machine.execBallot f s
  | .matchV f => Sys2Proof.Machine.execMatchV f s
  | .vred f => Sys2Proof.Machine.execVred f s
  | .vscan f => Sys2Proof.Machine.execVscan f s
  | .vstep f => Sys2Proof.Machine.execVstep f s
  | .rdfirst f => Sys2Proof.Machine.execRdfirst f s
  | .rdlane f => Sys2Proof.Machine.execRdlane f s
  | .wrlane f => Sys2Proof.Machine.execWrlane f s
  | .kand f => Sys2Proof.Machine.execKand f s
  | .kor f => Sys2Proof.Machine.execKor f s
  | .kxor f => Sys2Proof.Machine.execKxor f s
  | .knot f => Sys2Proof.Machine.execKnot f s
  | .kmov f => Sys2Proof.Machine.execKmov f s
  | .kpop f => Sys2Proof.Machine.execKpop f s
  | .kffs f => Sys2Proof.Machine.execKffs f s
  | .vxec f => Sys2Proof.Machine.execVxec f s
  | .spawn f => Sys2Proof.Machine.execSpawn f s
  | .ld f => Sys2Proof.Machine.execLd f s
  | .st f => Sys2Proof.Machine.execSt f s
  | .lds f => Sys2Proof.Machine.execLds f s
  | .sts f => Sys2Proof.Machine.execSts f s
  | .ldAcq f => Sys2Proof.Machine.execLdAcq f s
  | .stRel f => Sys2Proof.Machine.execStRel f s
  | .ldwF f => Sys2Proof.Machine.execLdwF f s
  | .ldwFE f => Sys2Proof.Machine.execLdwFE f s
  | .stwE f => Sys2Proof.Machine.execStwE f s
  | .tagset f => Sys2Proof.Machine.execTagset f s
  | .tagclr f => Sys2Proof.Machine.execTagclr f s
  | .ldfrag f => Sys2Proof.Machine.execLdfrag f s
  | .ldfragT f => Sys2Proof.Machine.execLdfragT f s
  | .larm f => Sys2Proof.Machine.execLarm f s
  | .barinit f => Sys2Proof.Machine.execBarinit f s
  | .barr f => Sys2Proof.Machine.execBarr f s
  | .bwait f => Sys2Proof.Machine.execBwait f s
  | .arrw f => Sys2Proof.Machine.execArrw f s
  | .fenceAcq f => Sys2Proof.Machine.execFenceAcq f s
  | .fenceRel f => Sys2Proof.Machine.execFenceRel f s
  | .fenceFull f => Sys2Proof.Machine.execFenceFull f s
  | .shutS f => Sys2Proof.Machine.execShutS f s
  | .shutQ f => Sys2Proof.Machine.execShutQ f s
  | .shutC f => Sys2Proof.Machine.execShutC f s
  | .shutCq f => Sys2Proof.Machine.execShutCq f s
  | .qpush f => Sys2Proof.Machine.execQpush f s
  | .qpop f => Sys2Proof.Machine.execQpop f s
  | .pref f => Sys2Proof.Machine.execPref f s
  | .cinvL1 f => Sys2Proof.Machine.execCinvL1 f s
  | .cinvTlb f => Sys2Proof.Machine.execCinvTlb f s
  | .cinvCtx f => Sys2Proof.Machine.execCinvCtx f s
  | .atomAdd f => Sys2Proof.Machine.execAtomAdd f s
  | .atomMin f => Sys2Proof.Machine.execAtomMin f s
  | .atomMax f => Sys2Proof.Machine.execAtomMax f s
  | .atomMinN f => Sys2Proof.Machine.execAtomMinN f s
  | .atomMaxN f => Sys2Proof.Machine.execAtomMaxN f s
  | .atomAnd f => Sys2Proof.Machine.execAtomAnd f s
  | .atomOr f => Sys2Proof.Machine.execAtomOr f s
  | .atomXor f => Sys2Proof.Machine.execAtomXor f s
  | .atomExch f => Sys2Proof.Machine.execAtomExch f s
  | .atomCas f => Sys2Proof.Machine.execAtomCas f s
  | .atomFadd f => Sys2Proof.Machine.execAtomFadd f s
  | .atomFmin f => Sys2Proof.Machine.execAtomFmin f s
  | .atomFmax f => Sys2Proof.Machine.execAtomFmax f s
  | .atomIncwrap f => Sys2Proof.Machine.execAtomIncwrap f s
  | .redAdd f => Sys2Proof.Machine.execRedAdd f s
  | .redMin f => Sys2Proof.Machine.execRedMin f s
  | .redMax f => Sys2Proof.Machine.execRedMax f s
  | .redMinN f => Sys2Proof.Machine.execRedMinN f s
  | .redMaxN f => Sys2Proof.Machine.execRedMaxN f s
  | .redAnd f => Sys2Proof.Machine.execRedAnd f s
  | .redOr f => Sys2Proof.Machine.execRedOr f s
  | .redXor f => Sys2Proof.Machine.execRedXor f s
  | .redFadd f => Sys2Proof.Machine.execRedFadd f s
  | .redFmin f => Sys2Proof.Machine.execRedFmin f s
  | .redFmax f => Sys2Proof.Machine.execRedFmax f s
  | .redIncwrap f => Sys2Proof.Machine.execRedIncwrap f s
  | .bra f => Sys2Proof.Machine.execBra f s
  | .bany f => Sys2Proof.Machine.execBany f s
  | .ball f => Sys2Proof.Machine.execBall f s
  | .bnone f => Sys2Proof.Machine.execBnone f s
  | .brx f => Sys2Proof.Machine.execBrx f s
  | .call f => Sys2Proof.Machine.execCall f s
  | .ret f => Sys2Proof.Machine.execRet f s
  | .ifW f => Sys2Proof.Machine.execIfW f s
  | .elseW f => Sys2Proof.Machine.execElseW f s
  | .endifW f => Sys2Proof.Machine.execEndifW f s
  | .loopW f => Sys2Proof.Machine.execLoopW f s
  | .breakW f => Sys2Proof.Machine.execBreakW f s
  | .contW f => Sys2Proof.Machine.execContW f s
  | .endloopW f => Sys2Proof.Machine.execEndloopW f s
  | .exitW f => Sys2Proof.Machine.execExitW f s
  | .exits f => Sys2Proof.Machine.execExits f s
  | .movi f => Sys2Proof.Machine.execMovi f s
  | .movih f => Sys2Proof.Machine.execMovih f s
  | .iaddi f => Sys2Proof.Machine.execIaddi f s
  | .andi f => Sys2Proof.Machine.execAndi f s
  | .ori f => Sys2Proof.Machine.execOri f s
  | .xori f => Sys2Proof.Machine.execXori f s
  | .shli f => Sys2Proof.Machine.execShli f s
  | .icmpi f => Sys2Proof.Machine.execIcmpi f s
  | .fmovi f => Sys2Proof.Machine.execFmovi f s
  | .leai f => Sys2Proof.Machine.execLeai f s
  | .wait f => Sys2Proof.Machine.execWait f s
  | .nop f => Sys2Proof.Machine.execNop f s
  | .yield f => Sys2Proof.Machine.execYield f s
  | .mfsr f => Sys2Proof.Machine.execMfsr f s
  | .mtsr f => Sys2Proof.Machine.execMtsr f s
  | .trap f => Sys2Proof.Machine.execTrap f s
  | .trapRet f => Sys2Proof.Machine.execTrapRet f s
  | .bkpt f => Sys2Proof.Machine.execBkpt f s
  | .prog f => Sys2Proof.Machine.execProg f s
  | .tmma f => Sys2Proof.Machine.execTmma f s
  | .tmmag f => Sys2Proof.Machine.execTmmag f s
  | .tzero f => Sys2Proof.Machine.execTzero f s
  | .tloada f => Sys2Proof.Machine.execTloada f s
  | .tdrain f => Sys2Proof.Machine.execTdrain f s
  | .hread f => Sys2Proof.Machine.execHread f s
  | .cbook f => Sys2Proof.Machine.execCbook f s
  | .cbookDef f => Sys2Proof.Machine.execCbookDef f s
  | .tsplit f => Sys2Proof.Machine.execTsplit f s
  | .cpy f => Sys2Proof.Machine.execCpy f s
  | .cpy2 f => Sys2Proof.Machine.execCpy2 f s
  | .cpy3 f => Sys2Proof.Machine.execCpy3 f s
  | .fput f => Sys2Proof.Machine.execFput f s
  | .fget f => Sys2Proof.Machine.execFget f s
  | .fsigInstr f => Sys2Proof.Machine.execFsigInstr f s
  | .coll f => Sys2Proof.Machine.execColl f s
  | .ccancel f => Sys2Proof.Machine.execCcancel f s
  | .cstat f => Sys2Proof.Machine.execCstat f s
  | .coldStart => Sys2Proof.Machine.execColdStart s
  | .warmStart => Sys2Proof.Machine.execWarmStart s
  | .haspMarkPreserved => Sys2Proof.Machine.execHaspMarkPreserved s
  | .supplyOrThermalExcursion => Sys2Proof.Machine.execSupplyOrThermalExcursion s
  | .clockStep => Sys2Proof.Machine.execClockStep s
  | .moduleTrip => Sys2Proof.Machine.execModuleTrip s
  | .dataFlitRx => Sys2Proof.Machine.execDataFlitRx s
  | .linkControlFlitTx => Sys2Proof.Machine.execLinkControlFlitTx s
  | .linkControlFlitRx => Sys2Proof.Machine.execLinkControlFlitRx s
  | .controlFlitTimeout => Sys2Proof.Machine.execControlFlitTimeout s
  | .parityFlitTx => Sys2Proof.Machine.execParityFlitTx s
  | .parityFlitRx => Sys2Proof.Machine.execParityFlitRx s
  | .parityTimeout => Sys2Proof.Machine.execParityTimeout s
  | .laneBad => Sys2Proof.Machine.execLaneBad s
  | .linkIdleTimeout => Sys2Proof.Machine.execLinkIdleTimeout s
  | .linkRetrainDone => Sys2Proof.Machine.execLinkRetrainDone s
  | .linkFail => Sys2Proof.Machine.execLinkFail s
  | .ezlRetrain => Sys2Proof.Machine.execEzlRetrain s
  | .ezlWiden => Sys2Proof.Machine.execEzlWiden s
  | .ezlDisable => Sys2Proof.Machine.execEzlDisable s
  | .ezlWmarkWrite => Sys2Proof.Machine.execEzlWmarkWrite s
  | .ezlClear => Sys2Proof.Machine.execEzlClear s
  | .registerWrite => Sys2Proof.Machine.execRegisterWrite s
  | .readReq => Sys2Proof.Machine.execReadReq s
  | .writeReq => Sys2Proof.Machine.execWriteReq s
  | .postedReq => Sys2Proof.Machine.execPostedReq s
  | .atomicReq => Sys2Proof.Machine.execAtomicReq s
  | .fsigReq => Sys2Proof.Machine.execFsigReq s
  | .cfgrd => Sys2Proof.Machine.execCfgrd s
  | .cfgwr => Sys2Proof.Machine.execCfgwr s
  | .mmiord => Sys2Proof.Machine.execMmiord s
  | .mmiowr => Sys2Proof.Machine.execMmiowr s
  | .hostrd => Sys2Proof.Machine.execHostrd s
  | .hostwr => Sys2Proof.Machine.execHostwr s
  | .hostConfigRequest => Sys2Proof.Machine.execHostConfigRequest s
  | .hostMmioRequest => Sys2Proof.Machine.execHostMmioRequest s
  | .cdata => Sys2Proof.Machine.execCdata s
  | .cbegun => Sys2Proof.Machine.execCbegun s
  | .mstream => Sys2Proof.Machine.execMstream s
  | .rdata => Sys2Proof.Machine.execRdata s
  | .rack => Sys2Proof.Machine.execRack s
  | .resumeMsg => Sys2Proof.Machine.execResumeMsg s
  | .abortMsg => Sys2Proof.Machine.execAbortMsg s
  | .streamFreezeTimeout => Sys2Proof.Machine.execStreamFreezeTimeout s
  | .rfaultRetryResend => Sys2Proof.Machine.execRfaultRetryResend s
  | .freezeConditionClear => Sys2Proof.Machine.execFreezeConditionClear s
  | .freezeConditionPermanent => Sys2Proof.Machine.execFreezeConditionPermanent s
  | .heldRequestSend => Sys2Proof.Machine.execHeldRequestSend s
  | .remoteAccessFault => Sys2Proof.Machine.execRemoteAccessFault s
  | .packetUnknownOp => Sys2Proof.Machine.execPacketUnknownOp s
  | .vdnUpdate => Sys2Proof.Machine.execVdnUpdate s
  | .vdnDrainComplete => Sys2Proof.Machine.execVdnDrainComplete s
  | .vdnAck => Sys2Proof.Machine.execVdnAck s
  | .vdnUpdateRepeat => Sys2Proof.Machine.execVdnUpdateRepeat s
  | .forwardWindowExpire => Sys2Proof.Machine.execForwardWindowExpire s
  | .evrec => Sys2Proof.Machine.execEvrec s
  | .hmsg => Sys2Proof.Machine.execHmsg s
  | .seqReg => Sys2Proof.Machine.execSeqReg s
  | .seqAssign => Sys2Proof.Machine.execSeqAssign s
  | .seqAack => Sys2Proof.Machine.execSeqAack s
  | .seqBegin => Sys2Proof.Machine.execSeqBegin s
  | .seqGrant => Sys2Proof.Machine.execSeqGrant s
  | .seqCancel => Sys2Proof.Machine.execSeqCancel s
  | .seqCresult => Sys2Proof.Machine.execSeqCresult s
  | .seqRetire => Sys2Proof.Machine.execSeqRetire s
  | .seqDone => Sys2Proof.Machine.execSeqDone s
  | .seqMirror => Sys2Proof.Machine.execSeqMirror s
  | .seqMack => Sys2Proof.Machine.execSeqMack s
  | .seqBeat => Sys2Proof.Machine.execSeqBeat s
  | .seqTerm => Sys2Proof.Machine.execSeqTerm s
  | .seqMessageRepeat => Sys2Proof.Machine.execSeqMessageRepeat s
  | .seqBeatTimer => Sys2Proof.Machine.execSeqBeatTimer s
  | .seqBeatTimeout => Sys2Proof.Machine.execSeqBeatTimeout s
  | .takeover => Sys2Proof.Machine.execTakeover s
  | .csqRoleWrite => Sys2Proof.Machine.execCsqRoleWrite s
  | .ceSeqWrite => Sys2Proof.Machine.execCeSeqWrite s
  | .engineBeginNumber => Sys2Proof.Machine.execEngineBeginNumber s
  | .collDataPhaseComplete => Sys2Proof.Machine.execCollDataPhaseComplete s
  | .collSegmentRepeat => Sys2Proof.Machine.execCollSegmentRepeat s
  | .partSet => Sys2Proof.Machine.execPartSet s
  | .partClear => Sys2Proof.Machine.execPartClear s
  | .badcmd => Sys2Proof.Machine.execBadcmd s
  | .migOut => Sys2Proof.Machine.execMigOut s
  | .migStopnow => Sys2Proof.Machine.execMigStopnow s
  | .migAbort => Sys2Proof.Machine.execMigAbort s
  | .migIn => Sys2Proof.Machine.execMigIn s
  | .nodest => Sys2Proof.Machine.execNodest s
  | .ckpt => Sys2Proof.Machine.execCkpt s
  | .restoreImg => Sys2Proof.Machine.execRestoreImg s
  | .dbgGrant => Sys2Proof.Machine.execDbgGrant s
  | .dbgRevoke => Sys2Proof.Machine.execDbgRevoke s
  | .profBegin => Sys2Proof.Machine.execProfBegin s
  | .profEnd => Sys2Proof.Machine.execProfEnd s
  | .precopyPassEnd => Sys2Proof.Machine.execPrecopyPassEnd s
  | .migPrecheck => Sys2Proof.Machine.execMigPrecheck s
  | .quiesceDone => Sys2Proof.Machine.execQuiesceDone s
  | .stoplate => Sys2Proof.Machine.execStoplate s
  | .finalCopyDone => Sys2Proof.Machine.execFinalCopyDone s
  | .migDestTimeout => Sys2Proof.Machine.execMigDestTimeout s
  | .notifyStore => Sys2Proof.Machine.execNotifyStore s
  | .qcfgWrite => Sys2Proof.Machine.execQcfgWrite s
  | .qerrHaltClear => Sys2Proof.Machine.execQerrHaltClear s
  | .commandFetch => Sys2Proof.Machine.execCommandFetch s
  | .launchCommand => Sys2Proof.Machine.execLaunchCommand s
  | .graphCommand => Sys2Proof.Machine.execGraphCommand s
  | .copyCommand => Sys2Proof.Machine.execCopyCommand s
  | .markerCommand => Sys2Proof.Machine.execMarkerCommand s
  | .flr => Sys2Proof.Machine.execFlr s
  | .flrComplete => Sys2Proof.Machine.execFlrComplete s
  | .firmwareCapabilityFault => Sys2Proof.Machine.execFirmwareCapabilityFault s
  | .bootApertureWrite => Sys2Proof.Machine.execBootApertureWrite s
  | .fwcRange => Sys2Proof.Machine.execFwcRange s
  | .walkComplete => Sys2Proof.Machine.execWalkComplete s
  | .parkedRetry => Sys2Proof.Machine.execParkedRetry s
  | .flimExpire => Sys2Proof.Machine.execFlimExpire s
  | .haspStage2Refuse => Sys2Proof.Machine.execHaspStage2Refuse s
  | .xlInv => Sys2Proof.Machine.execXlInv s
  | .xlInvComplete => Sys2Proof.Machine.execXlInvComplete s
  | .tierMove => Sys2Proof.Machine.execTierMove s
  | .patrolScrub => Sys2Proof.Machine.execPatrolScrub s
  | .dirtyLineLost => Sys2Proof.Machine.execDirtyLineLost s
  | .distributorPlace => Sys2Proof.Machine.execDistributorPlace s
  | .launchHold => Sys2Proof.Machine.execLaunchHold s
  | .disCtimeTick => Sys2Proof.Machine.execDisCtimeTick s
  | .scrubComplete => Sys2Proof.Machine.execScrubComplete s
  | .graphNodeRetire => Sys2Proof.Machine.execGraphNodeRetire s
  | .starvationWin => Sys2Proof.Machine.execStarvationWin s
  | .groupEnd => Sys2Proof.Machine.execGroupEnd s
  | .coreStop => Sys2Proof.Machine.execCoreStop s
  | .shutFlip => Sys2Proof.Machine.execShutFlip s
  | .clusterAgentDelivery => Sys2Proof.Machine.execClusterAgentDelivery s
  | .loadComplete => Sys2Proof.Machine.execLoadComplete s
  | .storeAck => Sys2Proof.Machine.execStoreAck s
  | .syncClr => Sys2Proof.Machine.execSyncClr s
  | .prbHaltAll => Sys2Proof.Machine.execPrbHaltAll s
  | .prbHaltRelease => Sys2Proof.Machine.execPrbHaltRelease s
  | .prbHaltOne => Sys2Proof.Machine.execPrbHaltOne s
  | .prbEdit => Sys2Proof.Machine.execPrbEdit s
  | .sampleInterval => Sys2Proof.Machine.execSampleInterval s
  | .tbWptrWrite => Sys2Proof.Machine.execTbWptrWrite s
  | .causalStart => Sys2Proof.Machine.execCausalStart s
  | .causalStop => Sys2Proof.Machine.execCausalStop s
  | .causalDelayExpire => Sys2Proof.Machine.execCausalDelayExpire s
  | .passStart => Sys2Proof.Machine.execPassStart s
  | .passEnd => Sys2Proof.Machine.execPassEnd s
  | .replayAtomicTimeout => Sys2Proof.Machine.execReplayAtomicTimeout s
  | .yieldDelayExpire => Sys2Proof.Machine.execYieldDelayExpire s
  | .impreciseFaultDelivery => Sys2Proof.Machine.execImpreciseFaultDelivery s
  | .tileOpComplete => Sys2Proof.Machine.execTileOpComplete s
  | .cteUnitComplete => Sys2Proof.Machine.execCteUnitComplete s
  | .dataFlitTx => Sys2Proof.Machine.execDataFlitTx s
  | .linkNarrowRequest => Sys2Proof.Machine.execLinkNarrowRequest s
  | .communicatorInstall => Sys2Proof.Machine.execCommunicatorInstall s
  | .copyCommandComplete => Sys2Proof.Machine.execCopyCommandComplete s
  | .cstatAnswer => Sys2Proof.Machine.execCstatAnswer s

end Sys2Proof.Machine
end

