-- ==== Sys2Proof/Machine/Step.lean ====
section
/-! DEFINITION. One step of the device: the word of the group the cursor names, or the next turn of the agenda. -/

namespace Sys2Proof.Machine

/-- A tripped module does nothing but start cold (R16). -/
def State.stopped (s : State) : Bool :=
  s.boot.halt == .tripped && (match s.agenda with
    | .event .coldStart _ :: _ => s.cur.go
    | _ => true)
/-- What an issued word leaves, counted. -/
def settle (s : State) (i : Instr) : Host.Outcome State Fault Refusal → Host.Outcome State Fault Refusal
  | .next t => .next (s.afterIssue i t)
  | .fault r => .fault r
  | .refused r => .refused r
/-- An event of the agenda; a word is no event. -/
def State.runEvent (s : State) (i : Instr) (x : EventArgs) : Host.Outcome State Fault Refusal :=
  match encode i with
  | some _ => .next s
  | none => exec i { s with inp := x }

/-- One step. -/
def step (s : State) : Host.Outcome State Fault Refusal :=
  if s.stopped then .fault .clocksStopped
  else if s.cur.go then
    match s.front with
    | .stop t => .next t
    | .run i t => settle t i (exec i t)
  else match s.agenda with
    | [] => .next s.defaultTurn
    | .event i x :: rest => { s with agenda := rest }.runEvent i x
    | t :: rest => .next ({ s with agenda := rest }.turn t)

/-- The state with an instruction, its bits numbered as the table numbers them, where the next step fetches. -/
def State.withFetchWord (s : State) (nbits w : Nat) : State := s.placeWord (BitVec.ofNat 64 (w % 2 ^ nbits))

end Sys2Proof.Machine
end

