-- ==== Sys2Proof/Safety.lean ====
section
/-! DEFINITION. The terms the claims are stated in: what a safe run is, how the machine stands after a word of the
group in issue, and what each family of words computes, written from the rules of the spec apart from the machine. -/

namespace Sys2Proof.Safety

open Machine

/-! ## Runs -/

/-- One step that does not stop. -/
def Steps (s t : State) : Prop := step s = .next t
/-- A run of steps that do not stop. -/
inductive Runs : State → State → Prop where
  | refl (s : State) : Runs s s
  | step {s t u : State} : Runs s t → Steps t u → Runs s u
/-- A safe state: no step of any run from it stops with a fault or a refusal. -/
def Safe (s : State) : Prop := ∀ t, Runs s t → ∃ u, Steps t u

/-! ## After a word -/

/-- The group in issue stands after its word, and of it only registers, masks, status bits and random states may
differ; nothing else of the machine does. -/
def Retired (sp : Bool) (s t : State) : Prop :=
  t = s.setCg { s.cg.advance sp with v := t.cg.v, s := t.cg.s, k := t.cg.k, fst := t.cg.fst, rnd := t.cg.rnd }
/-- Masks, status bits and random states are as before. -/
def FlagsKept (s t : State) : Prop := t.cg.k = s.cg.k ∧ t.cg.fst = s.cg.fst ∧ t.cg.rnd = s.cg.rnd
/-- Vector and scalar registers are as before. -/
def RegsKept (s t : State) : Prop := t.cg.v = s.cg.v ∧ t.cg.s = s.cg.s
/-- The destination of a word holds a value in each lane of a set, or once; every other register and lane, and every
lane outside the set, holds what it held (R313, R338). -/
def Written (g g' : Group) (wide : Bool) (d : BitVec 8) (ex : Lanes) (x : Nat → W64) : Prop :=
  if isS d then
    g'.v = g.v ∧ ∀ n, g'.sget n = if n = sNum d then (if wide then x 0 else (lo32 (x 0)).setWidth 64) else g.sget n
  else
    g'.s = g.s ∧ ∀ r l, l < 32 → g'.vget r l =
      if lin ex l = false then g.vget r l
      else if r = d.toNat then lo32 (x l)
      else if wide = true ∧ r = d.toNat + 1 then hi32 (x l)
      else g.vget r l
/-- The group in issue is live, no outstanding load of it writes a register the word names, and, where the word
executes, each vector register named is below NREG (R195, R417). -/
def Free (s : State) (rs : Regs) (runs : Bool) : Prop :=
  s.cg.live = true ∧ s.cg.loadBusy rs = false ∧ (runs = true → s.cg.inRange (rs.map Prod.fst) = true)

/-! ## Integer words, element by element (R345 to R350) -/

/-- Element e of a register value. -/
def elem (w e : Nat) (x : W64) : BitVec w := x.extractLsb' (w * e) w
/-- The comparisons of R346. -/
def holds {w : Nat} (sg : Bool) (cc : Nat) (a b : BitVec w) : Bool :=
  match cc with
  | 0 => a == b
  | 1 => a != b
  | 2 => if sg then a.slt b else a.ult b
  | 3 => if sg then a.sle b else a.ule b
  | 4 => if sg then b.slt a else b.ult a
  | _ => if sg then b.sle a else b.ule a
/-- a extended to twice its width. -/
def widen {w : Nat} (sg : Bool) (a : BitVec w) : BitVec (2 * w) := if sg then a.signExtend (2 * w) else a.setWidth (2 * w)
/-- BFE of R349: n bits of a from p on. -/
def bfe {w : Nat} (sg : Bool) (a ctl : BitVec w) : BitVec w :=
  let p := ctl.toNat % 256
  let n := min (ctl.toNat / 256 % 256) w
  let x := (a >>> p).setWidth n
  if n = 0 then 0 else if sg then x.signExtend w else x.setWidth w
/-- BFI of R349: bit p + i of b replaced by bit i of a. -/
def bfi {w : Nat} (a b ctl : BitVec w) : BitVec w :=
  let p := ctl.toNat % 256
  let n := min (ctl.toNat / 256 % 256) w
  BitVec.ofFnLE (fun j : Fin w => if p ≤ j.val ∧ j.val < p + n then a.getLsbD (j.val - p) else b.getLsbD j.val)
/-- The integer and bitwise words with their number of sources and what one element becomes. -/
def elemRule : Instr → Option (VForm × Nat × ((w : Nat) → BitVec w → BitVec w → BitVec w → BitVec w))
  | .iadd f => some (f, 2, fun _ a b _ => a + b)
  | .isub f => some (f, 2, fun _ a b _ => a - b)
  | .imul f => some (f, 2, fun _ a b _ => a * b)
  | .imulh f => some (f, 2, fun w a b _ => (widen f.ty.isSigned a * widen f.ty.isSigned b).extractLsb' w w)
  | .imad f => some (f, 3, fun _ a b c => a * b + c)
  | .imin f => some (f, 2, fun _ a b _ => if holds f.ty.isSigned 3 a b then a else b)
  | .imax f => some (f, 2, fun _ a b _ => if holds f.ty.isSigned 3 a b then b else a)
  | .icmp f => some (f, 2, fun w a b _ => if holds f.ty.isSigned f.c.toNat a b then BitVec.allOnes w else 0)
  | .isel f => some (f, 3, fun _ a b c => if c = 0 then b else a)
  | .andV f => some (f, 2, fun _ a b _ => a &&& b)
  | .orV f => some (f, 2, fun _ a b _ => a ||| b)
  | .xorV f => some (f, 2, fun _ a b _ => a ^^^ b)
  | .andn f => some (f, 2, fun _ a b _ => a &&& ~~~b)
  | .shl f => some (f, 2, fun _ a b _ => a <<< b.toNat)
  | .shr f => some (f, 2, fun _ a b _ => a >>> b.toNat)
  | .sar f => some (f, 2, fun _ a b _ => a.sshiftRight b.toNat)
  | .bfe f => some (f, 2, fun _ a b _ => bfe f.ty.isSigned a b)
  | .bfi f => some (f, 3, fun _ a b c => bfi a b c)
  | .popc f => some (f, 1, fun w a _ _ => BitVec.ofNat w ((List.range w).countP (fun i => a.getLsbD i)))
  | .clz f => some (f, 1, fun _ a _ _ => a.clz)
  | .brev f => some (f, 1, fun _ a _ _ => a.reverse)
  | _ => none
/-- The fields of a word with n sources of its type. -/
def srcUse (n : Nat) (t : Ty) : VUse :=
  { d := t.use, a := t.use, b := if 2 ≤ n then t.use else .no, c := if 3 ≤ n then t.use else .no }

/-! ## Words over whole registers (R347, R351, R364) -/

/-- An integer saturated to a range, in 16 bits. -/
def sat16 (lo hi : Int) (x : W32) : BitVec 16 := BitVec.ofInt 16 (max lo (min hi x.toInt))
/-- LEA, IDP4, PACK and UNPACK: the fields used and the destination's value. -/
def regRule : Instr → Option (VForm × VUse × (W64 → W64 → W64 → W64))
  | .lea f => some (f, { d := f.ty.use, a := f.ty.use, b := .w32 }, fun a b _ =>
      let x : W64 := if f.ty.isSigned then (lo32 b).signExtend 64 else (lo32 b).setWidth 64
      a + x <<< f.c.toNat)
  | .idp4 f => some (f, { d := .w32, a := .w32, b := .w32, c := .w32 }, fun a b c =>
      let x (v : W64) (e : Nat) : W32 := if f.ty.isSigned then (elem 8 e v).signExtend 32 else (elem 8 e v).setWidth 32
      (lo32 c + x a 0 * x b 0 + x a 1 * x b 1 + x a 2 * x b 2 + x a 3 * x b 3).setWidth 64)
  | .pack f => some (f, { d := .w32, a := .w32, b := .w32 }, fun a b _ =>
      let two (hi lo : BitVec 16) : W64 := (hi ++ lo).setWidth 64
      match f.c.toNat with
      | 0 => two (elem 16 0 b) (elem 16 0 a)
      | 1 => two (elem 16 1 b) (elem 16 1 a)
      | 2 => two (sat16 (-32768) 32767 (lo32 b)) (sat16 (-32768) 32767 (lo32 a))
      | _ => two (sat16 0 65535 (lo32 b)) (sat16 0 65535 (lo32 a)))
  | .unpack f => some (f, { d := .w32, a := .w32 }, fun a _ _ =>
      let w := if f.c.toNat / 8 ≤ 9 then 16 else 8
      let x := elem w (f.c.toNat % 8) a
      if f.c.toNat / 8 % 2 = 0 then (x.signExtend 32).setWidth 64 else (x.setWidth 32).setWidth 64)
  | _ => none

/-! ## Immediate words (R369, R370) -/

/-- SHLI by its kind, IMM[7:6], and amount, IMM[5:0]. -/
def shiftImm {w : Nat} (imm : W32) (a : BitVec w) : BitVec w :=
  let n := imm.toNat % 64
  match imm.toNat / 64 % 4 with
  | 0 => a <<< n
  | 1 => a >>> n
  | _ => a.sshiftRight n
/-- ICMPI: cc 0 to 5 signed, 6 to 9 LT, LE, GT and GE unsigned. -/
def cmpImm {w : Nat} (imm : W32) (a : BitVec w) : BitVec w :=
  let cc := imm.toNat / 2 ^ 28
  let v : BitVec w := (imm.setWidth 28).signExtend w
  if (if cc ≤ 5 then holds true cc a v else holds false (cc - 4) a v) then BitVec.allOnes w else 0
/-- The computing I-form words, whether each reads A, and what a w-bit destination becomes. -/
def immRule : Instr → Option (IForm × Bool × ((w : Nat) → BitVec w → BitVec w))
  | .movi f => some (f, false, fun w _ => f.imm.signExtend w)
  | .iaddi f => some (f, true, fun w a => a + f.imm.signExtend w)
  | .andi f => some (f, true, fun w a => a &&& f.imm.signExtend w)
  | .ori f => some (f, true, fun w a => a ||| f.imm.signExtend w)
  | .xori f => some (f, true, fun w a => a ^^^ f.imm.signExtend w)
  | .shli f => some (f, true, fun _ a => shiftImm f.imm a)
  | .icmpi f => some (f, true, fun _ a => cmpImm f.imm a)
  | .fmovi f => some (f, false, fun w _ => f.imm.setWidth w)
  | _ => none

/-! ## Floating-point words (R353 to R363, R365, R367) -/

/-- The state of a lane after n draws (R278, R366). -/
def stateAfter (x : W64) : Nat → W64
  | 0 => x
  | n + 1 => (rngDraw (stateAfter x n)).1
/-- The u of draw n, counted from 0, under a rule; 0 where the rule draws nothing (R277, R278). -/
def drawAt (rm : Rm) (x : W64) (n : Nat) : Nat := if rm.rnd = 2 then (rngDraw (stateAfter x n)).2 else 0
/-- The words that round one exact value for each element, with their sources and that value (R353, R354, R365). -/
def roundedRule : Instr → Option (VForm × Nat × (FVal → FVal → FVal → FVal × Bool))
  | .fadd f => some (f, 2, fun a b _ => fsum [a, b])
  | .fsub f => some (f, 2, fun a b _ => fsum [a, b.negate])
  | .fmul f => some (f, 2, fun a b _ => a.mul b)
  | .ffma f => some (f, 3, fun a b c => ((fsum [(a.mul b).1, c]).1, (a.mul b).2 || (fsum [(a.mul b).1, c]).2))
  | .fsqrt f => some (f, 1, fun a _ _ => a.sqrt)
  | .mov f => if f.noMods then none else some (f, 1, fun a _ _ => (a, false))
  | _ => none
/-- The rounding of a word: its format's field, nearest-even for stochastic in the uniform form (R276, R342). -/
def ruleOf (g : Group) (uniform : Bool) (F : Fmt) : Rm := if uniform then (g.rmOf F).uniform else g.rmOf F
/-- One element of a rounded word in a lane: the bits and conditions of element e. -/
def roundedElem (g : Group) (f : VForm) (n : Nat) (h : FVal → FVal → FVal → FVal × Bool) (l e : Nat) : FRes :=
  let F := f.ty.fmt
  let u := srcUse n f.ty
  let src (use : Use) (r : BitVec 8) (neg abs : Bool) : FVal :=
    F.val (F.srcMod (elem f.ty.ew e (g.opnd use r l)).toNat neg abs)
  roundEl F (ruleOf g f.uniform F) (drawAt (ruleOf g f.uniform F) (g.rget l) e) f.dsc f.clamp
    (h (src u.a f.a f.na f.aa) (src u.b f.b f.nb f.ab) (src u.c f.c f.nc f.ac))
/-- The conditions of results over lanes and elements, together. -/
def flagsOf (ls es : List Nat) (r : Nat → Nat → Fl) : Fl :=
  (ls.flatMap (fun l => es.map (r l))).foldr (· ||| ·) 0
/-- The lanes a word computes in: those of the execution set, or lane 0 for the one computation of a uniform word. -/
def workLanes (uniform : Bool) (ex : Lanes) : List Nat := if uniform then [0] else laneList ex

/-- The other floating-point words: the fields used, and what a lane computes under the rounding of the word, from
the registers it reads and its random state. -/
def laneRule (g : Group) : Instr → Option (VForm × VUse × (Bool → LaneFn))
  | .fmin f => some (f, srcUse 2 f.ty, fun _ => intLane f.ty (fun a b _ =>
      f.ty.fmt.minmax false (f.ty.fmt.srcMod a f.na f.aa) (f.ty.fmt.srcMod b f.nb f.ab)))
  | .fmax f => some (f, srcUse 2 f.ty, fun _ => intLane f.ty (fun a b _ =>
      f.ty.fmt.minmax true (f.ty.fmt.srcMod a f.na f.aa) (f.ty.fmt.srcMod b f.nb f.ab)))
  | .fcmp f => some (f, srcUse 2 f.ty, fun _ => intLane f.ty (fun a b _ => if fcmp f.c.toNat
      (f.ty.fmt.val (f.ty.fmt.srcMod a f.na f.aa)) (f.ty.fmt.val (f.ty.fmt.srcMod b f.nb f.ab)) then 2 ^ f.ty.ew - 1 else 0))
  | .fsel f => some (f, srcUse 3 f.ty, fun _ => intLane f.ty (fun a b c => fselEl f f.ty.fmt a b c))
  | .frnd f => some (f, srcUse 1 f.ty, fun _ => intLane f.ty (fun a _ _ =>
      f.ty.fmt.rnd f.c.toNat (f.ty.fmt.srcMod a f.na f.aa)))
  | .fclass f => some (f, srcUse 1 f.ty, fun _ => intLane f.ty (fun a _ _ => f.ty.fmt.classify a))
  | .mov f => if f.noMods then some (f, srcUse 1 f.ty, fun _ a _ _ _ _ => { val := a }) else none
  | .fdp2 f => some (f, { d := .w32, a := .w32, b := .w32, c := .w32 }, fun u a b c _ x =>
      let r := roundEl f32 (ruleOf g u f32) (drawAt (ruleOf g u f32) x 0) f.dsc f.clamp (dot2 f a b c)
      { val := BitVec.ofNat 64 r.bits, fl := r.fl, rng := if (ruleOf g u f32).rnd = 2 then some (stateAfter x 1) else none })
  | .cvt f => some (f, cvtUse f.ty f.c, fun u =>
      cvtLane f.ty f.c (if u then (g.cvtRule f.ty f.c).uniform else g.cvtRule f.ty f.c))
  | .rand f => some (f, { d := .w32, a := .no }, fun _ _ _ _ _ x =>
      { val := BitVec.ofNat 64 (randVal f.ty (rngDraw x).2), rng := some (rngDraw x).1 })
  | .frcp f => approx f (fnRcp (g.rmOf f32).sat)
  | .frsq f => approx f fnRsq
  | .fexp2 f => approx f (fnExp2 (g.rmOf f32).sat)
  | .flog2 f => approx f fnLog2
  | .fsin f => approx f (fnTrig false)
  | .fcos f => approx f (fnTrig true)
  | .ftanh f => approx f fnTanh
  | _ => none
where
  /-- An approximation of one register, its modifiers before and CLAMP after (R360). -/
  approx (f : VForm) (h : Nat → FRes) : Option (VForm × VUse × (Bool → LaneFn)) :=
    some (f, { d := .w32, a := .w32 }, fun _ a _ _ _ _ =>
      let r := h (f32.srcMod (lo32 a).toNat f.na f.aa)
      { val := BitVec.ofNat 64 (if f.clamp then f32.clamp r.bits else r.bits), fl := r.fl })

/-- The number a finite value stands for. -/
def realOf (v : FVal) : ℚ :=
  match v with
  | .fin n m e => (if n then -1 else 1) * m * (2 : ℚ) ^ e
  | _ => 0
/-- The value is finite. -/
def IsFin (v : FVal) : Prop := match v with | .fin .. => True | _ => False

/-! ## Words across lanes (R202, R374 to R384) -/

/-- The shuffles: how B is read, and the source lane a lane computes from b (R374, R375). -/
def shuffleRule : Instr → Option (VForm × Use × (Nat → Nat → Int))
  | .shfl f => some (f, .w32, fun b _ => b % 32)
  | .shflx f => some (f, .w32, fun b l => ((BitVec.ofNat 5 l ^^^ BitVec.ofNat 5 b).toNat : Int))
  | .shflr f => some (f, .w32, fun b l => ((l + b) % 32 : Nat))
  | .shflup f => some (f, .no, fun _ l => (l : Int) - (32 >>> f.c.toNat : Nat))
  | .shfldn f => some (f, .no, fun _ l => (l : Int) + (32 >>> f.c.toNat : Nat))
  | _ => none
/-- What lane j supplies of a field: zero once it has exited, a scalar always itself (R202). -/
def supplies (g : Group) (u : Use) (f : BitVec 8) (j : Nat) : W64 :=
  if isV f = true ∧ lin g.exited j = true then 0 else g.opnd u f j

/-- An operation of R379 on integer elements. -/
def redBits {w : Nat} (sg : Bool) (op : Nat) (a b : BitVec w) : BitVec w :=
  match op with
  | 0 => a + b
  | 1 => if holds sg 3 a b then a else b
  | 2 => if holds sg 3 a b then b else a
  | 3 => a &&& b
  | 4 => a ||| b
  | _ => a ^^^ b
/-- Its identity. -/
def redOne (w : Nat) (sg : Bool) (op : Nat) : BitVec w :=
  match op with
  | 1 => if sg then BitVec.intMax w else BitVec.allOnes w
  | 2 => if sg then BitVec.intMin w else 0
  | 3 => BitVec.allOnes w
  | _ => 0
/-- The integer elements of lanes combined in ascending order. -/
def combine {w : Nat} (sg : Bool) (op : Nat) (ls : List Nat) (a : Nat → BitVec w) : BitVec w :=
  ls.foldl (fun x l => redBits sg op x (a l)) (redOne w sg op)

/-- The words that give one value to a scalar, or to every lane of the execution set: fields named, width, the value
over the execution set and its conditions. -/
def oneRule (g : Group) : Instr → Option (VForm × Regs × Bool × (Lanes → W64) × (Lanes → Fl))
  | .vote f => some (f, useRegs f.d .w32 ++ useRegs f.a f.ty.use, false, fun ex =>
      let a (l : Nat) : W64 := g.opnd f.ty.use f.a l
      let yes : Bool := match f.c.toNat with
        | 0 => (List.range 32).any (fun l => lin ex l && a l != 0)
        | 1 => (List.range 32).all (fun l => !lin ex l || a l != 0)
        | 2 => (List.range 32).all (fun l => !lin ex l || a l == 0)
        | _ => (List.range 32).all (fun l => (List.range 32).all (fun j => !lin ex l || !lin ex j || a l == a j))
      if yes then (if isS f.d then 1 else 0xFFFFFFFF) else 0, fun _ => 0)
  | .ballot f => some (f, useRegs f.d .w32 ++ useRegs f.a f.ty.use, true, fun ex =>
      (BitVec.ofFnLE (fun l : Fin 32 => lin ex l && g.opnd f.ty.use f.a l != 0)).setWidth 64, fun _ => 0)
  | .vred f => some (f, f.regs (srcUse 1 f.ty), f.ty.is64,
      fun ex => (vredVal f.ty f.c.toNat ex (g.opnd f.ty.use f.a)).1, fun ex => (vredVal f.ty f.c.toNat ex (g.opnd f.ty.use f.a)).2)
  | .rdfirst f => some (f, f.regs (srcUse 1 f.ty), f.ty.is64, fun ex => g.opnd f.ty.use f.a (lowLane ex), fun _ => 0)
  | .rdlane f => some (f, f.regs { srcUse 1 f.ty with b := .w32 }, f.ty.is64,
      fun _ => supplies g f.ty.use f.a ((g.sfld f.b).toNat % 32), fun _ => 0)
  | _ => none
/-- The words that give each lane of the execution set a value of its own: fields named, width, the value over the
execution set in a lane and its conditions; and which lanes are written. -/
def eachRule (g : Group) : Instr → Option (VForm × Regs × Bool × (Lanes → Lanes) × (Lanes → Nat → W64 × Fl))
  | .matchV f => some (f, useRegs f.d .w32 ++ useRegs f.a f.ty.use, false, id, fun ex l =>
      let m : Lanes := BitVec.ofFnLE (fun j : Fin 32 => lin ex j && g.opnd f.ty.use f.a j == g.opnd f.ty.use f.a l)
      (if f.c = 1 ∧ m ≠ ex then 0 else m.setWidth 64, 0))
  | .vscan f => some (f, f.regs (srcUse 1 f.ty), f.ty.is64, id, fun ex l =>
      let op := f.c.toNat % 8
      let r := scanPass f.ty op [1, 2, 4, 8, 16] (redStart f.ty op ex (g.opnd f.ty.use f.a), 0)
      (if f.c.toNat < 8 then r.1.getD l 0 else if l = 0 then redIdent f.ty op else r.1.getD (l - 1) 0, r.2))
  | .vstep f => some (f, f.regs (srcUse 1 f.ty), f.ty.is64, id, fun _ l =>
      let op := f.c.toNat % 8
      let o := 32 >>> (f.c.toNat / 16)
      let own (j : Nat) : W64 := g.opnd f.ty.use f.a j
      let partner (j : Nat) : W64 := if lin g.exited j then redIdent f.ty op else own j
      let p := l ^^^ o
      if o = 0 ∨ o = 32 then (own l, 0)
      else if l < p then redOp f.ty op (own l) (partner p) else redOp f.ty op (partner p) (own l))
  | .wrlane f => some (f, f.regs { srcUse 1 f.ty with b := .w32 }, f.ty.is64,
      fun ex => BitVec.ofFnLE (fun l : Fin 32 => lin ex l && l.val == (g.sfld f.b).toNat % 32),
      fun _ _ => (g.opnd f.ty.use f.a 0, 0))
  | _ => none

/-- The uniform mask words: fields named, and the mask register or scalar register written with its value (R384). -/
def maskRule (g : Group) : Instr → Option (VForm × Regs × (Lanes ⊕ W64))
  | .kand f => some (f, [], .inl (g.kget f.a.toNat &&& g.kget f.b.toNat))
  | .kor f => some (f, [], .inl (g.kget f.a.toNat ||| g.kget f.b.toNat))
  | .kxor f => some (f, [], .inl (g.kget f.a.toNat ^^^ g.kget f.b.toNat))
  | .knot f => some (f, [], .inl (~~~(g.kget f.a.toNat)))
  | .kpop f => some (f, [(f.d, 1)], .inr (BitVec.ofNat 64 ((List.range 32).countP (fun l => lin (g.kget f.a.toNat) l))))
  | .kffs f => some (f, [(f.d, 1)], .inr (BitVec.ofNat 64 (((List.range 32).find? (fun l => lin (g.kget f.a.toNat) l)).getD 32)))
  | .kmov f => match f.c.toNat with
    | 0 => some (f, [], .inl (g.kget f.a.toNat))
    | 2 => some (f, [(f.a, 1)], .inl (lo32 (g.sfld f.a)))
    | 3 => some (f, [(f.d, 1)], .inr ((g.kget f.a.toNat).setWidth 64))
    | _ => none
  | _ => none

/-! ## Control (R197 to R205, R395 to R414) -/

/-- A transfer to an address lands: it is aligned, below 2^55, and holds a header that can be read (R317, R323). -/
def Lands (s : State) (a : W64) : Prop :=
  a.toNat % 8 = 0 ∧ a.toNat < 2 ^ 55 ∧ ∃ w, s.codeAt s.cur.core s.cur.gs a = .word w ∧ isHeader w = true
/-- It is a bad branch target: misaligned, beyond 2^55, or a word that is no header. -/
def Strays (s : State) (a : W64) : Prop :=
  a.toNat % 8 ≠ 0 ∨ 2 ^ 55 ≤ a.toNat ∨ ∃ w, s.codeAt s.cur.core s.cur.gs a = .word w ∧ isHeader w = false
/-- The target of OFS: this word's address + 8 × OFS (R317). -/
def ofsTo (s : State) (f : CForm) : W64 := s.cg.addr + f.ofs.signExtend 64 * 8
/-- Lane l of a test or condition mask (R397). -/
def testBit (g : Group) (m : Guard) (l : Nat) : Bool := lin (g.kget m.k.toNat) l != m.neg
/-- The branches with an OFS and when they transfer (R397). -/
def branchRule (g : Group) : Instr → Option (CForm × Bool)
  | .bra f => some (f, g.uniGuard f.mask g.active)
  | .bany f => some (f, (List.range 32).any (fun l => lin g.active l && testBit g f.mask l))
  | .ball f => some (f, (List.range 32).all (fun l => !lin g.active l || testBit g f.mask l))
  | .bnone f => some (f, !(List.range 32).any (fun l => lin g.active l && testBit g f.mask l))
  | _ => none
/-- The structured words: the counter of a live lane after each, and whether the word skips (R400). -/
def nestRule (g : Group) : Instr → Option (CForm × Bool × (Nat → Nat))
  | .ifW f => some (f, true, fun l => if 0 < g.cget l then g.cget l + 1 else if testBit g f.mask l then 0 else 1)
  | .elseW f => some (f, true, fun l => match g.cget l with | 0 => 1 | 1 => 0 | c => c)
  | .endifW f => some (f, false, fun l => g.cget l - 1)
  | .loopW f => some (f, true, fun l => if 0 < g.cget l then g.cget l + 2 else 0)
  | .breakW f => some (f, true, fun l => if g.cget l = 0 ∧ testBit g f.mask l = true then 2 else g.cget l)
  | .contW f => some (f, false, fun l => if g.cget l = 0 ∧ testBit g f.mask l = true then 1 else g.cget l)
  | _ => none
/-- ENDLOOP's counters: a continued lane is active again; with none active two levels are taken off (R400). -/
def endloop (g : Group) (again : Bool) (l : Nat) : Nat :=
  let c := if g.cget l = 1 then 0 else g.cget l
  if again then c else c - 2
/-- MTSR may write a value to a register: it is not marked RO and no reserved bit or value is set (R276, R340, R392,
R406 to R408). -/
def srWritable (r : Sr) (x : W64) : Bool :=
  match r with
  | .mode => x.extractLsb' 23 8 == 0 && x.extractLsb' 32 32 == 0
  | .gang =>
    let n := (x.extractLsb' 0 3).toNat
    let m (i : Nat) : BitVec 5 := x.extractLsb' (8 + 5 * i) 5
    x.extractLsb' 3 5 == 0 && x.extractLsb' 38 26 == 0 && n != 1 && n != 7 &&
    (List.range 6).all (fun i => if i < n then (List.range i).all (fun j => m j != m i) else m i == 0)
  | .xfc => x.extractLsb' 15 1 == 0 && x.extractLsb' 17 15 == 0 && (x.extractLsb' 0 8).toNat ≤ 0x0A
  | .fst => x.extractLsb' 5 27 == 0
  | .tvec => x.extractLsb' 0 3 == 0 && x.extractLsb' 55 9 == 0
  | .tpos => x.extractLsb' 0 3 == 0
  | .xfm | .taddr | .tcause | .rngseed => true
  | _ => false
/-- Registers, masks, conditions and random states of the group in issue are as before. -/
def DataKept (s t : State) : Prop := RegsKept s t ∧ FlagsKept s t
/-- No group other than the one in issue, no byte of memory and no scratch word has changed. -/
def OthersKept (s t : State) : Prop :=
  t.mem = s.mem ∧ (∀ c p, p < 64 → (c, p) ≠ (s.cur.core, s.cur.gs) → t.group c p = s.group c p)
/-- After a VXEC's word: the group stands after the VXEC with its progress cleared when that was the last word, else
it goes on with the VXEC and the word of the lane is marked complete (R389). -/
def WordLeft (s t : State) (last : Bool) (lane : Nat) : Prop :=
  if last then t.cg.woff = s.cg.woff + 1 ∧ t.cg.vx = {}
  else t.cg.woff = s.cg.woff ∧ t.cg.vx = { outer := lane1 lane, inner := 0, depth := 1 } ∧ t.cg.held = none
/-- The trap registers and the position of the group in issue after a trap of it was taken (R411). -/
def Trapped (s t : State) (cause info lane : Nat) (addr pos : W64) : Prop :=
  t.cg.tcause.toNat = info * 2 ^ 16 + lane * 2 ^ 8 + cause ∧ t.cg.taddr = addr ∧ t.cg.tpos = pos ∧ t.cg.tm = true ∧
  t.cg.bhdr = s.cg.tvec ∧ t.cg.woff = 0
/-- A trap of the group in issue is taken by its handler (R411). -/
def CanTrap (s : State) : Prop := s.cg.tm = false ∧ s.cg.tvec ≠ 0

/-! ## Memory words at issue (R241, R415 to R418) -/

/-- Where a lane's address leads at issue: the scratch map, or the page's translation for the access. -/
def placeAt (s : State) (op : AccOp) (x : LaneAt) : Option Loc :=
  match x.tgt with
  | .scr a => s.scratchLoc s.cur.core s.cg.team a
  | .glob va => (s.xlOf s.cur.core s.cur.gs va (accClass op)).map (fun e => e.loc.add (va.toNat % 65536))
/-- No check of R418 stops the word: each lane is aligned to the access, its scratch is mapped and, where it writes,
has no S-set word; each global address is below 2^55, translated, and mismatches no record of its line. -/
def Cleared (s : State) (op : AccOp) (scope : Scope) (bytes : Nat) (ats : List LaneAt) : Prop :=
  ∀ x ∈ ats, x.addr.toNat % bytes = 0 ∧ ∃ l, placeAt s op x = some l ∧
    match x.tgt with
    | .scr _ => accClass op = 0 ∨ s.scrSpecial s.cur.core s.cg.team l bytes = false
    | .glob va => va.toNat < 2 ^ 55 ∧ (scope = .plain ∨ sliceChecks l scope (accClass op == 2) = false ∨
        ∀ ln, locLine l = some ln → s.syncBad ln (s.recOf s.cur.core s.cur.gs scope) = false)
/-- The lane's part of the access: its place, what it writes, and the pages it was translated through. -/
def laneOf (s : State) (op : AccOp) (data : Nat → BitVec 256) (x : LaneAt) : LanePart :=
  let e := match x.tgt with | .glob va => s.xlOf s.cur.core s.cur.gs va (accClass op) | .scr _ => none
  { lane := x.lane, va := x.addr, loc := (placeAt s op x).getD (.err stRange), data := data x.lane
    xl := e.map (fun e => (e.page, e.gpage, e.sfa / 65536)), own := (e.map (·.own)).getD 0, priv := (e.map (·.priv)).getD false }
/-- A memory word as R415 and R416 read it: its form, the registers it names, what it does, the lanes' addresses, the
destination of its result, and each lane's data. -/
structure MemWord where
  f : MForm
  regs : Regs
  op : AccOp
  ats : List LaneAt
  dest : BitVec 8 := 0
  data : Nat → BitVec 256 := fun _ => 0
/-- The access a word makes. -/
def MemWord.access (m : MemWord) (s : State) : Access :=
  { id := s.cg.nextId, op := m.op, scope := m.f.scope, strm := m.f.strm, bytes := m.f.size.bytes, dest := m.dest
    parts := m.ats.map (laneOf s m.op m.data), entries := entriesOf (m.ats.map (laneOf s m.op m.data)) }
/-- The wait counter has room and the core's transaction table takes the word (R241, R404). -/
def MemWord.Room (m : MemWord) (s : State) : Prop :=
  s.cg.counterFull m.op = false ∧ s.cc.txUsed + (m.access s).entries ≤ 8192
/-- No lane's place lies on another device. -/
def MemWord.Near (m : MemWord) (s : State) : Prop :=
  ∀ x ∈ m.ats, match placeAt s m.op x with | some (.far _ _) => False | _ => True
/-- The lanes a word executes in: those of the execution set, or the first when it is uniform. -/
def memWhere (g : Group) (f : MForm) (uni : Bool) : List Nat := g.memLanes uni f.g g.active

/-- Plain and strong loads and stores of global memory and scratch. -/
def plainMem (g : Group) : Instr → Option MemWord
  | .ld f => some { f, regs := dRegs f.d f.size ++ f.gRegs true, op := .load, dest := f.d
                    ats := g.gLanes f true (memWhere g f (isS f.d && isS f.base && isS f.idx)) }
  | .lds f => some { f, regs := dRegs f.d f.size ++ f.sRegs, op := .load, dest := f.d
                     ats := g.sLanes f (memWhere g f (isS f.d && isS f.base && isS f.idx)) }
  | .st f => some { f, regs := dRegs f.d f.size ++ f.gRegs true, op := .store, data := g.memData f.d f.size
                    ats := g.gLanes f true (memWhere g f (isS f.d && isS f.base && isS f.idx)) }
  | .sts f => some { f, regs := dRegs f.d f.size ++ f.sRegs, op := .store, data := g.memData f.d f.size
                     ats := g.sLanes f (memWhere g f (isS f.d && isS f.base && isS f.idx)) }
  | _ => none
/-- ATOM with its opcode, and RED with its opcode. -/
def atomMem (g : Group) (i : Instr) : Option MemWord :=
  let atom (op : BitVec 8) (f : MForm) : Option MemWord :=
    some { f, regs := dRegs f.d f.size ++ f.gRegs false ++ atomRegs f.idx f.size (op == 0x49), op := .atom op, dest := f.d
           data := g.atomData f.idx f.size (op == 0x49)
           ats := g.gLanes f false (memWhere g f (isS f.d && isS f.base && isS f.idx)) }
  let red (op : BitVec 8) (f : MForm) : Option MemWord :=
    some { f, regs := dRegs f.d f.size ++ f.gRegs true, op := .red op, data := g.atomData f.d f.size false
           ats := g.gLanes f true (memWhere g f (isS f.d && isS f.base && isS f.idx)) }
  match i with
  | .atomAdd f => atom 0x40 f | .atomMin f => atom 0x41 f | .atomMax f => atom 0x42 f | .atomMinN f => atom 0x43 f
  | .atomMaxN f => atom 0x44 f | .atomAnd f => atom 0x45 f | .atomOr f => atom 0x46 f | .atomXor f => atom 0x47 f
  | .atomExch f => atom 0x48 f | .atomCas f => atom 0x49 f | .atomFadd f => atom 0x4A f | .atomFmin f => atom 0x4B f
  | .atomFmax f => atom 0x4C f | .atomIncwrap f => atom 0x4D f
  | .redAdd f => red 0x50 f | .redMin f => red 0x51 f | .redMax f => red 0x52 f | .redMinN f => red 0x53 f
  | .redMaxN f => red 0x54 f | .redAnd f => red 0x55 f | .redOr f => red 0x56 f | .redXor f => red 0x57 f
  | .redFadd f => red 0x58 f | .redFmin f => red 0x59 f | .redFmax f => red 0x5A f | .redIncwrap f => red 0x5B f
  | _ => none
/-- LD.ACQ and ST.REL as the load and the store they make. -/
def acqRelMem (g : Group) : Instr → Option (MemWord × Bool)
  | .ldAcq f => some ({ f, regs := dRegs f.d f.size ++ f.gRegs true, op := .load, dest := f.d
                        ats := g.gLanes f true (memWhere g f (isS f.d && isS f.base && isS f.idx)) }, true)
  | .stRel f => some ({ f, regs := dRegs f.d f.size ++ f.gRegs true, op := .store, data := g.memData f.d f.size
                        ats := g.gLanes f true (memWhere g f (isS f.d && isS f.base && isS f.idx)) }, false)
  | _ => none

/-! ## Words on the team's own scratch (R224 to R237) -/

/-- No group of the core waits on a word, a FIFO or a gang. -/
def NoWaiters (s : State) : Prop := s.cur.gs < 64 ∧ ∀ p, p < 64 → (s.group s.cur.core p).wait = none
/-- A scratch address of the issuing team lies in a bank: the bank and the offset in it. -/
def InBank (s : State) (a : W32) (b o : Nat) : Prop := s.scratchLoc s.cur.core s.cg.team a = some (.own b o)
/-- No outstanding access of the group reaches scratch of its cluster. -/
def ScratchIdle (s : State) : Prop :=
  ∀ a ∈ s.cg.acc, ∀ x ∈ a.parts, match x.loc with | .own _ _ | .dist _ => False | _ => True
/-- ARRIVED of a barrier's high word. -/
def arrived (w : SWord) : Nat := w.data.toNat % 2 ^ 16
/-- The arrival completes the phase: ARRIVED reaches EXPECTED, of which 0 acts as 1. -/
def completes (lo hi : SWord) : Bool := decide (max 1 (lo.data.toNat % 2 ^ 16) ≤ arrived hi + 1)
/-- The registers of the group in issue but one scalar register, and everything of its lanes, are as before. -/
def ScalarWritten (s t : State) (d : BitVec 8) (x : W64) : Prop :=
  t.cg.v = s.cg.v ∧ FlagsKept s t ∧ ∀ n, t.cg.sget n = if n = sNum d then x else s.cg.sget n

/-! ## Matrix and engine words at issue (R439, R449) -/

/-- The matrix unit's queue has an operation more, the group's tl counts it, and nothing else of the core has changed. -/
def Queued (s t : State) (sp : Bool) (o : TileOp) : Prop :=
  t.cc = { s.cc with tq := s.cc.tq ++ [o], booksIssued := t.cc.booksIssued } ∧
  t.cg = Group.advance { s.cg with tl := s.cg.tl + 1 } sp ∧ OthersKept s t
/-- tl and the queue have room. -/
def TileRoom (s : State) : Prop := s.cg.tl < 63 ∧ s.cc.tq.length < 16
/-- A tile number of the team in issue names a physical tile. -/
def Tile (s : State) (td : BitVec 8) (t : Nat) : Prop := s.ct.tiles[td.toNat]? = some t
/-- An engine word past its checks can start: cp has room, every earlier access is performed, the release leaves no
write-back of the core open, and a descriptor is free (R258, R449). -/
def CanStart (s : State) (scope : Scope) (d : Nat) : Prop :=
  s.cg.cp < 63 ∧ s.cg.acc = [] ∧ (s.releaseActs s.cur.core s.cur.gs scope).evicting s.cur.core = false ∧
  d < 16 ∧ tget none s.cc.cte d = none ∧ ∀ e, e < d → tget none s.cc.cte e ≠ none
/-- The descriptor holds what the word asks for, and the group's cp counts it. -/
def EngineStarted (s t : State) (d : Nat) (sp : Bool) (kind : CteKind) (latch : W64) : Prop :=
  tget none t.cc.cte d = some { gs := s.cur.gs, kind, latch, mode := s.cg.mode, book := s.cc.booksIssued } ∧
  (∀ e, e ≠ d → tget none t.cc.cte e = tget none s.cc.cte e) ∧ t.cg = Group.advance { s.cg with cp := s.cg.cp + 1 } sp

/-- The accesses of the group in issue outstanding before a tile word (R439). -/
def earlier (s : State) : List (Nat × Nat) := s.cg.acc.map (fun a => (s.cur.gs, a.id))
/-- An operand record of a matrix word and its places: a legal record whose planes and scale tile all lie in windows of
the issuing team (R272, R273). -/
def Operand (s : State) (r : BitVec 8) (m : MFmt) (ls : List Loc) : Prop :=
  recordOk (s.cg.sfld r) (s.cg.sfld (r + 1)) = some m ∧
  (recAddrs m (s.cg.sfld r) (s.cg.sfld (r + 1))).map (s.scratchLoc s.cur.core s.cg.team) = ls.map some ∧
  ∀ l ∈ ls, ∃ b o, l = .own b o
/-- The tile words with a memory side: the form, registers named, access, bytes of a place, places, tile and kind. -/
structure TileMem where
  f : TForm
  regs : Regs
  op : AccOp
  size : Nat
  ats : List LaneAt
  tile : Option (BitVec 8)
  kind : TileKind
/-- TLOADA, TDRAIN, HREAD and CBOOK by their operands (R445 to R448). -/
def tileMemRule (g : Group) : Instr → Option TileMem
  | .tloada f => some { f, regs := [(f.ra, 2), (f.ra + 1, 2)], op := .load, size := 16, tile := some f.td
                        ats := tilePlaces (g.sfld f.ra) (lo32 (g.sfld (f.ra + 1))).toNat (if f.fn = 0 then 4 else 2)
                        kind := .loada f.fn.toNat }
  | .tdrain f => some { f, regs := [(f.ra, 2), (f.ra + 1, 2)] ++ (if f.fn.getLsbD 12 then [(f.aux, 2)] else []), op := .store
                        size := 16, tile := some f.td
                        ats := tilePlaces (g.sfld f.ra) (lo32 (g.sfld (f.ra + 1))).toNat (drainBytes (f.fn.toNat % 256))
                        kind := .drain f.fn (if f.fn.getLsbD 12 then (g.sfld f.aux).setWidth 8 else 0) }
  | .hread f => some { f, regs := [(f.ra, 2)], op := .store, size := 16, tile := none, ats := runPlaces (g.sfld f.ra) 8 16
                       kind := .hread (f.fn.toNat % 8) (f.fn.getLsbD 3) }
  | .cbook f => some { f, regs := [(f.ra, 2)], op := .load, size := 8, tile := none, ats := runPlaces (g.sfld f.ra) 64 8
                       kind := .cbook (g.sfld f.ra) false }
  | _ => none
/-- Address and stride of TLOADA and TDRAIN are multiples of 16 and a row fits the stride (R445, R446). -/
def StrideOk (g : Group) : Instr → Prop
  | .tloada f => (g.sfld f.ra).toNat % 16 = 0 ∧ (lo32 (g.sfld (f.ra + 1))).toNat % 16 = 0 ∧
      64 * (if f.fn = 0 then 4 else 2) ≤ (lo32 (g.sfld (f.ra + 1))).toNat
  | .tdrain f => (g.sfld f.ra).toNat % 16 = 0 ∧ (lo32 (g.sfld (f.ra + 1))).toNat % 16 = 0 ∧
      64 * drainBytes (f.fn.toNat % 256) ≤ (lo32 (g.sfld (f.ra + 1))).toNat
  | _ => True

/-- The words of the core transfer engine: the form, the registers named, whether the operands pass the checks of
R450 to R456, the scope of the release, what the descriptor is to do, and the latch. -/
def engineRule (s : State) : Instr → Option (TForm × Regs × Bool × Scope × CteKind × W64)
  | .tsplit f =>
    let ss := f.fn.getLsbD 8
    let src := s.cg.sfld f.ra
    let stride := (lo32 (s.cg.sfld (f.ra + 1))).toNat
    let rec_ := s.cg.sfld f.rb
    let scl := s.cg.sfld f.td
    let latch := s.cg.sfld f.aux
    some (f, pairRegs f.ra ++ pairRegs f.rb ++ [(f.aux, 2)] ++ (if ss then [(f.td, 2)] else []),
      (recordOk rec_ (s.cg.sfld (f.rb + 1))).isSome && hi32 latch == 0 && recNpl rec_ == 0 &&
        splitOk (f.fn.toNat % 256) (recFmt rec_) && src.toNat % 16 == 0 && stride % 16 == 0 && (!ss || scl.toNat % 16 == 0),
      widest (s.reachOf src) (if ss then s.reachOf scl else .team),
      .tsplit src stride rec_ (s.cg.sfld (f.rb + 1)) (f.fn.toNat % 256) (if ss then some scl else none), latch)
  | .cpy f =>
    let len := (s.cg.sfld (f.ra + 1)).toNat % 2 ^ 40
    some (f, pairRegs f.ra ++ [(f.rb, 2)] ++ [(f.aux, 2)], hi32 (s.cg.sfld f.aux) == 0 && len != 0,
      widest (s.reachOf (s.cg.sfld f.ra)) (s.reachOf (s.cg.sfld f.rb)),
      .copy (s.cg.sfld f.ra) (s.cg.sfld f.rb) len 1 1 0 0 0 0, s.cg.sfld f.aux)
  | .cpy2 f => copy f 1 0 0 []
  | .cpy3 f =>
    let t := s.cg.sfld f.td
    copy f ((s.cg.sfld (f.td + 1)).toNat % 2 ^ 32) (t.toNat % 2 ^ 32) (t.toNat / 2 ^ 32) (pairRegs f.td)
  | .fput f =>
    let sig := f.fn.getLsbD 2
    let len := (s.cg.sfld (f.ra + 1)).toNat % 2 ^ 40
    let remote := s.cg.sfld (f.rb + 1)
    some (f, pairRegs f.ra ++ (if sig then pairRegs f.rb else [(f.rb, 2)]) ++ [(f.aux, 2)],
      hi32 (s.cg.sfld f.aux) == 0 && len != 0 && (!sig || remote.toNat % 8 == 0), .system,
      .fput (s.cg.sfld f.ra) (s.cg.sfld f.rb) len (f.fn.extractLsb' 0 2) (if sig then some remote else none), s.cg.sfld f.aux)
  | .fget f =>
    let len := (s.cg.sfld (f.ra + 1)).toNat % 2 ^ 40
    some (f, pairRegs f.ra ++ [(f.rb, 2), (f.aux, 2)], hi32 (s.cg.sfld f.aux) == 0 && len != 0, .system,
      .fget (s.cg.sfld f.ra) (s.cg.sfld f.rb) len (f.fn.extractLsb' 0 2), s.cg.sfld f.aux)
  | .fsigInstr f =>
    let wide := f.fn.getLsbD 0
    some (f, pairRegs f.ra ++ pairRegs f.rb,
      (s.cg.sfld f.ra).toNat % (if wide then 8 else 4) == 0 && (s.cg.sfld f.rb).toNat % 8 == 0, .system,
      .fsig (s.cg.sfld f.ra) (s.cg.sfld (f.ra + 1)) (s.cg.sfld f.rb) (s.cg.sfld (f.rb + 1)) wide (f.fn.extractLsb' 1 2),
      0xFFFFFFFF)
  | _ => none
where
  /-- CPY2 and CPY3: rows of at most 2^24 bytes, at most 2^31 of them and of planes (R454). -/
  copy (f : TForm) (planes sps dps : Nat) (rs : Regs) : Option (TForm × Regs × Bool × Scope × CteKind × W64) :=
    let a := (s.cg.sfld (f.ra + 1)).toNat
    let b := (s.cg.sfld (f.rb + 1)).toNat
    some (f, pairRegs f.ra ++ pairRegs f.rb ++ [(f.aux, 2)] ++ rs,
      hi32 (s.cg.sfld f.aux) == 0 && decide (1 ≤ a % 2 ^ 40) && decide (a % 2 ^ 40 ≤ 2 ^ 24) && decide (1 ≤ b % 2 ^ 32) &&
        decide (b % 2 ^ 32 ≤ 2 ^ 31) && decide (1 ≤ planes) && decide (planes ≤ 2 ^ 31),
      widest (s.reachOf (s.cg.sfld f.ra)) (s.reachOf (s.cg.sfld f.rb)),
      .copy (s.cg.sfld f.ra) (s.cg.sfld f.rb) (a % 2 ^ 40) (b % 2 ^ 32) planes (b / 2 ^ 32) (a / 2 ^ 40) sps dps, s.cg.sfld f.aux)

/-! ## Starts, and the firmware image (R16 to R22, R115, R116) -/

/-- The image in the carve-out passes every check of R116. -/
def ImageOk (s : State) : Prop :=
  s.boot.carve.2 ≠ 0 ∧ numAt s.mem s.boot.carve.1 4 = 0x4C594E50 ∧
  ∃ key, s.imagePart 4 = some key ∧ Config.sha384 key = Config.fusedKey ∧
    (s.measureSection key 0 6).2 = true ∧ (s.measureSection key 2 8).2 = true
/-- Step 8 over m leaves t: ready after step 9, or halted with a measurement failure. -/
def Measured (m t : State) : Prop :=
  t.boot.locked = m.boot.locked ∧ t.boot.fwcBase = m.boot.fwcBase ∧ t.boot.fwcSize = m.boot.fwcSize ∧
  (ImageOk m → t.boot.step = 9 ∧ t.boot.halt = m.boot.halt ∧ t.boot.reached = true ∧ t.boot.preserved = [] ∧
    t.out = .report 9 :: m.out) ∧
  (¬ImageOk m → t.boot.step < 9 ∧ t.boot.halt = .measure ∧ t.boot.measFail = true ∧ t.out = .report 0x19 :: m.out ∧ t.mem = m.mem)
/-- Nothing on the chip is left: no group, team, core state, function, cached sector or stream. -/
def Blank (t : State) : Prop :=
  t.groups = [] ∧ t.teams = [] ∧ t.cores = [] ∧ t.launches = [] ∧ t.savedTeams = [] ∧ t.graphs = [] ∧ t.l2 = [] ∧ t.l2tlb = [] ∧
  t.walks = [] ∧ t.streams = [] ∧ t.keys = [] ∧ t.sync = [] ∧ t.seq = {} ∧ t.mig = {} ∧ t.mail = {}
/-- A byte address a warm start keeps: in the carve-out or in a preserved region of 512 MiB pages. -/
def keptByte (s : State) (a : Nat) : Bool :=
  (decide (s.boot.carve.1 ≤ a) && decide (a < s.boot.carve.1 + s.boot.carve.2)) ||
    s.boot.preserved.any (fun r => decide (r.1 * 2 ^ 29 ≤ a) && decide (a < (r.1 + r.2) * 2 ^ 29))

/-! ## Links -/

/-- Ports and what is sent out may differ, of the ports only the event's; nothing else does. -/
def PortOnly (s t : State) : Prop :=
  t = { s with ports := t.ports, out := t.out } ∧ ∀ q, q ≠ s.inp.port → t.port q = s.port q
/-- The port of the event in progress. -/
def portIn (s : State) : Port := s.port s.inp.port
/-- Its counter by its place in the table of R43, and one counted there. -/
def counter (x : Port) (i : Nat) : W32 := tget 0 x.cnt i
def plusOne (x : W32) : W32 := if x = BitVec.allOnes 32 then x else x + 1
/-- The units of a VC of a port, and its stop bit as R36 sets it for n flits in the buffer. -/
def vcUnits (x : Port) (v : Nat) : List Unit16 := (tget [] x.rxbuf v).map Prod.snd
def stopBit (x : Port) (v n : Nat) : Bool :=
  if tget 512 x.high v ≤ n then true else if n ≤ tget 256 x.low v then false else x.stopBits.getLsbD v

/-! ## Packets (R45 to R69) -/

/-- A packet of an operation stands first in its VC's buffer at the port of the event; nothing is held for another home or
comes back to this device, and no fatal error has stopped it. -/
def Arrived (s : State) (op : BitVec 6) : Prop :=
  s.inp.pkt.op = op ∧ s.holdq = [] ∧ s.loop = [] ∧ s.boot.halt ≠ .fatal ∧ s.atHead s.inp.port (opVc op) s.inp.pkt = true
/-- Its units are taken from the buffer; the rest is as in m. -/
def TakenFrom (s m t : State) : Prop := t = m.dropUnits s.inp.port (opVc s.inp.pkt.op) (packetUnits s.inp.pkt).length
/-- m, with the packet taken and its one response queued: a status, and with OK the data (R53). -/
def Answers (s m t : State) (status : Byte) (data : List Byte) : Prop :=
  TakenFrom s (m.respond (respTo s.inp.pkt status 0 data (status == 0 && opReads s.inp.pkt))) t
/-- The packet's VDN is the partition of a function here that is not moving, and no update of a VDN is under way. -/
def AtHome (s : State) (f : Nat) : Prop :=
  s.partOf s.inp.pkt.vdn = some f ∧ s.homeHold = [] ∧ s.fwdWin = [] ∧ s.mig.dir = 0 ∧ s.vdnUpds = []
/-- At home, with no stream frozen or listed. -/
def Homed (s : State) (f : Nat) : Prop := AtHome s f ∧ s.tfreezes = [] ∧ s.retries = []
/-- n bytes at an offset of a partition lie in one 64 KiB page of HBM, at pa, open to reads and writes (R123, R136). -/
def InHbm (s : State) (f off n pa : Nat) : Prop :=
  1 ≤ n ∧ off % 65536 + n ≤ 65536 ∧ off + n ≤ (s.func f).quota * 2 ^ 29 ∧
  let e := s.placeEntry 0 f (off / 65536)
  plV e = true ∧ plPool e = false ∧ plWp e = false ∧ plTransit e = false ∧ pa = plLoc e + off % 65536
/-- Memory after bytes are written at pa: those bytes, and every other byte as before; their blocks are dirty. -/
def WroteAt (m n : List Host.Cell) (pa : Nat) (bs : List Byte) : Prop :=
  ∀ a, byteAt n a = if pa ≤ a ∧ a < pa + bs.length then bs.getD (a - pa) 0 else byteAt m a
/-- Only memory, with its dirty and error marks and capability tags, may differ. -/
def MemOnly (s m : State) : Prop :=
  m = { s with mem := m.mem, dirty := m.dirty, capTags := m.capTags, poison := m.poison, weak := m.weak }
/-- A usable route for a request of an owner: the entry is valid and neither here nor on HOLD, and one of its ports is up. -/
def Routed (s : State) (o : TxnOwner) (vdn : BitVec 16) (port : Nat) : Prop :=
  let e := s.reqEntry o vdn.toNat
  vtValid e = true ∧ vtSelf e = false ∧ vtHold e = false ∧ s.reqPorts o e = [port]
/-- A request is on the link: its units wait on the port's VC, and it is the stream's one outstanding request, with the
entry's epoch. -/
def Sent (s t : State) (sid : StreamId) (vdn : BitVec 16) (port : Nat) (q : Packet) (o : TxnOwner) : Prop :=
  let p := { q with epoch := vtEpoch (s.reqEntry o vdn.toNat) }
  (t.stream sid vdn).out = [(p, o)] ∧ (t.stream sid vdn).queue = [] ∧ (t.stream sid vdn).freeze = none ∧
  (tget [] (t.port port).txq (reqVc q o)).map Prod.snd = (tget [] (s.port port).txq (reqVc q o)).map Prod.snd ++ packetUnits p
/-- Nothing of the device waits for a request to end: no saved identity, no phase of a stream, nothing it has to write. -/
def Quiet (s : State) : Prop := s.aliases = [] ∧ s.mig.phase ≠ 4 ∧ s.owed = []

/-! ## Sequencer messages (R70 to R94) -/

/-- No packet waits on VC 5 of the event's port, none comes back to this device or is held, and none is for a partition that
moves: the message stands in the event alone. -/
def NoVc5 (s : State) : Prop :=
  s.boot.halt ≠ .fatal ∧ tget [] (portIn s).rxbuf 5 = [] ∧ s.loop = [] ∧ s.holdq = [] ∧ s.homeHold = [] ∧ s.fwdWin = [] ∧ s.mig.inFunc = none
/-- This device is the primary and the message is not from a later term. -/
def Primary (s : State) : Prop := NoVc5 s ∧ s.seq.role = 1 ∧ after16 s.inp.msg.term s.seq.term = false
/-- A message of an operation is for a member VDN of function f here, in the engine's own term, and of no later term than
that of a primary here. -/
def ForMember (s : State) (f : Nat) (op : Byte) : Prop :=
  NoVc5 s ∧ s.memberOf op s.inp.msg = true ∧ s.partOf s.inp.msg.dvdn.toNat = some f ∧ s.inp.msg.term = s.ceTerm ∧
  (s.seq.role = 1 → after16 s.inp.msg.term s.seq.term = false)
/-- Only links, packets that come back to this device, and messages kept for repeating or for an entry on HOLD, may differ. -/
def SendsOnly (s t : State) : Prop :=
  t = { s with ports := t.ports, loop := t.loop, waitVdn := t.waitVdn, unanswered := t.unanswered }

/-! ## Queues and launches (R99 to R105, R171 to R182) -/

/-- A function may be served now: it has a weight and a unit of service left. -/
def Served (s : State) (f : Nat) : Prop := (s.func f).weight ≠ 0 ∧ 1 ≤ (s.func f).deficit
/-- The one command in hand of a queue, not started. -/
def OneCmd (s : State) (f q slot kind : Nat) (c : Cmd) : Prop :=
  (s.queue f q).cmds = [c] ∧ c.slot = slot ∧ c.kind = kind ∧ c.started = false
/-- The command has started, and its function has used a unit of service; nothing else has changed. -/
def CmdStarted (s w : State) (f q : Nat) (c : Cmd) : Prop :=
  w = s.setFunc f { s.func f with
    deficit := (s.func f).deficit - 1
    queues := tput {} (s.func f).queues q { s.queue f q with cmds := [{ c with started := true }] } }
/-- A virtual address of a context is open to an access and lies at pa in HBM. -/
def Reaches (s : State) (f ctx : Nat) (va : W64) (access pa : Nat) : Prop :=
  ∃ e, (s.translate 0 f ctx va access).1 = .ok e ∧ e.windowed access = false ∧ e.loc.add (va.toNat % 65536) = .home pa

/-! ## The mailbox (R98) -/

/-- A request with a command code stands in the mailbox, Hasp idle and the last answer taken, the device not halted. -/
def Asked (s : State) (code : Nat) : Prop :=
  s.accepting = true ∧ s.mail.busy = false ∧ s.mail.done = false ∧ s.inp.mail.toNat % 256 = code
/-- FUNC of the request. -/
def askedFor (s : State) : Nat := s.inp.mail.toNat / 2 ^ 8 % 64
/-- The request is answered with a status: HMB_DONE is set and the response names its CMD and FUNC. -/
def Answered (s t : State) (status : Nat) : Prop :=
  t.mail = { req := s.inp.mail, busy := false, done := true
             resp := BitVec.ofNat 128 (status + s.inp.mail.toNat % 256 * 2 ^ 8 + askedFor s * 2 ^ 16) }
/-- The request is refused: answered, with nothing changed. -/
def Declined (s t : State) (status : Nat) : Prop := Answered s t status ∧ t = { s with mail := t.mail }
/-- An enabled VF, in no FLR and no migration (R95). -/
def Settled (s : State) (f : Nat) : Prop :=
  f ≠ 0 ∧ (s.func f).vfOn = true ∧ (s.func f).part = true ∧ (s.func f).flr = false ∧ s.mig.dir = 0 ∧ s.mig.inFunc = none
/-- A function stops: nothing is fetched or placed, its VDN is on hold here, and its teams are stopping (R159). -/
def Quiescing (s t : State) (f : Nat) : Prop :=
  (t.func f).fetchOff = true ∧ (t.func f).placeOff = true ∧ t.mig.phase = 3 ∧ (s.func f).vdn ∈ t.homeHold ∧
  ∀ x ∈ s.teamsOf (fun _ y => y.func == f && !y.term), (t.team x.1 x.2).stopping = true
/-- The outgoing operation of a function is over: its dirty bits are free, and it is fetched and placed again unless it
stays stopped. -/
def OutOver (s t : State) (f : Nat) (keep : Bool) : Prop :=
  t.mig.dir = 0 ∧ t.mig.phase = 0 ∧ (t.func f).dirtyUse = 0 ∧ (t.func f).placeOff = keep ∧
  (t.func f).fetchOff = (keep || (s.func f).flr) ∧ (s.func f).vdn ∉ t.homeHold

/-! ## Outstanding work (R219, R237 to R250, R417) -/

/-- An event names the one outstanding access of a group, of one lane, which is its to perform. -/
def OneLane (s : State) (c p : Nat) (a : Access) (x : LanePart) : Prop :=
  c = s.inp.core ∧ p = s.inp.gs ∧ p < 64 ∧ (s.group c p).acc = [a] ∧ a.id = s.inp.id ∧ a.parts = [x] ∧ x.sent = false ∧
  x.lane < 32 ∧ s.inp.lanes.getLsbD x.lane = true
/-- No group of a core waits on a word, a FIFO or a gang. -/
def NoneWait (s : State) (c : Nat) : Prop := ∀ q, q < 64 → (s.group c q).wait = none
/-- A load or atomic of the lane has completed with the value v: its registers hold it and ld has fallen. -/
def Loaded (s t : State) (c p : Nat) (a : Access) (x : LanePart) (v : Nat) : Prop :=
  (t.group c p).acc = [] ∧ (t.group c p).ld = (s.group c p).ld - 1 ∧ (t.group c p).st = (s.group c p).st ∧
  (isS a.dest = true → (t.group c p).sget (sNum a.dest) = BitVec.ofNat 64 v) ∧
  (isS a.dest = false → ∀ i, i < max 1 (a.bytes / 4) →
    (t.group c p).vget (a.dest.toNat + i) x.lane = BitVec.ofNat 32 (v / 2 ^ (32 * i)))
/-- A store or reduction of the lane has completed: st has fallen and no register has changed. -/
def Stored (s t : State) (c p : Nat) : Prop :=
  (t.group c p).acc = [] ∧ (t.group c p).st = (s.group c p).st - 1 ∧ (t.group c p).ld = (s.group c p).ld ∧
  (t.group c p).v = (s.group c p).v ∧ (t.group c p).s = (s.group c p).s
/-- The scratch words of a core are those of co. -/
def Words (t : State) (c : Nat) (co : Core) : Prop := ∀ b w, (t.core c).word b w = co.word b w
/-- Bytes of HBM in one sector that is not in the core's L1 and not poisoned. -/
def InSector (s : State) (c pa n : Nat) : Prop :=
  1 ≤ n ∧ pa % 32 + n ≤ 32 ∧ s.l1Get c (pa / 32) = none ∧ s.poison = [] ∧ s.weak = []
/-- A group may take an imprecise fault: it is ready at a boundary with no trap in hand, and its core issues (R61). -/
def CanTake (s : State) (c p : Nat) : Prop :=
  p < 64 ∧ (s.group c p).ready = true ∧ (s.group c p).tm = false ∧ (s.core c).stop = false ∧
  (s.team c (s.group c p).team).term = false ∧ (s.group c p).allExited = false ∧ (s.group c p).tvec ≠ 0
/-- An imprecise fault of a group is taken by its handler at its position (R61, R411). -/
def TookFault (s t : State) (c p : Nat) (i : Imprecise) : Prop :=
  (t.group c p).tcause.toNat = i.info % 65536 * 2 ^ 16 + 2 ^ 15 + i.cause.toNat ∧ (t.group c p).taddr = i.addr ∧
  (t.group c p).tpos = (s.group c p).pos ∧ (t.group c p).tm = true ∧ (t.group c p).bhdr = (s.group c p).tvec ∧ (t.group c p).woff = 0

end Sys2Proof.Safety
end

