-- ==== Sys2Proof/Certificates/Slice0/Obligations.lean ====
section
/-! DEFINITION. The statements for the provers. -/

open Sys2Proof Sys2Proof.Machine Sys2Proof.Safety

/-- The integer and bitwise words: element e of the destination is computed from element e of each source, in the
lanes of the execution set or once for all-scalar operands; nothing else of the machine changes (R338, R345, R346,
R348 to R350). -/
def Obligations.IntegerWordsCompute : Prop :=
  ∀ (i : Instr) (f : VForm) (n : Nat) (h : (w : Nat) → BitVec w → BitVec w → BitVec w → BitVec w) (s : State),
    elemRule i = some (f, n, h) → i.wf = true →
    Free s (f.regs (srcUse n f.ty)) (s.cg.runs f.uniform f.g s.cg.active) →
    ∃ t, exec i s = .next t ∧ Retired f.sp s t ∧ FlagsKept s t ∧
      (s.cg.runs f.uniform f.g s.cg.active = false → RegsKept s t) ∧
      (s.cg.runs f.uniform f.g s.cg.active = true →
        ∃ x : Nat → W64, Written s.cg t.cg f.ty.is64 f.d (s.cg.execSet f.g s.cg.active) x ∧
          ∀ l e, l < 32 → e < f.ty.en →
            elem f.ty.ew e (x l) = h f.ty.ew (elem f.ty.ew e (s.cg.opnd f.ty.use f.a l))
              (elem f.ty.ew e (s.cg.opnd f.ty.use f.b l)) (elem f.ty.ew e (s.cg.opnd f.ty.use f.c l)))

/-- LEA, IDP4, PACK and UNPACK, over whole registers (R347, R351, R364). -/
def Obligations.RegisterWordsCompute : Prop :=
  ∀ (i : Instr) (f : VForm) (u : VUse) (h : W64 → W64 → W64 → W64) (s : State),
    regRule i = some (f, u, h) → i.wf = true →
    Free s (f.regs u) (s.cg.runs f.uniform f.g s.cg.active) →
    ∃ t, exec i s = .next t ∧ Retired f.sp s t ∧ FlagsKept s t ∧
      (s.cg.runs f.uniform f.g s.cg.active = false → RegsKept s t) ∧
      (s.cg.runs f.uniform f.g s.cg.active = true →
        Written s.cg t.cg (u.d == .w64) f.d (s.cg.execSet f.g s.cg.active)
          (fun l => h (s.cg.opnd u.a f.a l) (s.cg.opnd u.b f.b l) (s.cg.opnd u.c f.c l)))

/-- The immediate words: MOVI, IADDI, ANDI, ORI, XORI, SHLI, ICMPI and FMOVI (R369, R370); MOVIH writes the upper half, or the
odd register of the pair, and LEAI the address of the word plus 8 × IMM (R369). -/
def Obligations.ImmediateWordsCompute : Prop :=
  (∀ (i : Instr) (f : IForm) (a : Bool) (h : (w : Nat) → BitVec w → BitVec w) (s : State),
    immRule i = some (f, a, h) → i.wf = true →
    Free s (f.regs a) (s.cg.runs (isS f.d) f.g s.cg.active) →
    ∃ t, exec i s = .next t ∧ Retired f.sp s t ∧ FlagsKept s t ∧
      (s.cg.runs (isS f.d) f.g s.cg.active = false → RegsKept s t) ∧
      (s.cg.runs (isS f.d) f.g s.cg.active = true →
        Written s.cg t.cg (isS f.d) f.d (s.cg.execSet f.g s.cg.active) (fun l =>
          if isS f.d then h 64 (s.cg.opnd .w64 f.a 0) else (h 32 (lo32 (s.cg.opnd .w32 f.a l))).setWidth 64))) ∧
  (∀ (f : IForm) (s : State),
    ((Instr.movih f).wf = true →
      Free s (if isS f.d then [(f.d, 1)] else [(f.d + 1, 1)]) (s.cg.runs (isS f.d) f.g s.cg.active) →
      ∃ t, exec (.movih f) s = .next t ∧ Retired f.sp s t ∧ FlagsKept s t ∧
        (s.cg.runs (isS f.d) f.g s.cg.active = false → RegsKept s t) ∧
        (s.cg.runs (isS f.d) f.g s.cg.active = true →
          if isS f.d then Written s.cg t.cg true f.d 0 (fun _ => f.imm ++ lo32 (s.cg.sfld f.d))
          else Written s.cg t.cg false (f.d + 1) (s.cg.execSet f.g s.cg.active) (fun _ => f.imm.setWidth 64))) ∧
    ((Instr.leai f).wf = true → Free s [(f.d, 1)] (s.cg.uniGuard f.g s.cg.active) →
      ∃ t, exec (.leai f) s = .next t ∧ Retired f.sp s t ∧ FlagsKept s t ∧
        (s.cg.uniGuard f.g s.cg.active = false → RegsKept s t) ∧
        (s.cg.uniGuard f.g s.cg.active = true →
          Written s.cg t.cg true f.d 0 (fun _ => s.cg.addr + 8 * f.imm.signExtend 64))))

/-- FADD, FSUB, FMUL, FFMA, FSQRT and MOV with modifiers: each element is the exact value rounded once under the rule
of its format, stochastic rounding drawing once for each element; the conditions are ORed into %fst and the random
states of the lanes that drew advance (R278, R340, R342, R353, R354). -/
def Obligations.RoundedWordsCompute : Prop :=
  ∀ (i : Instr) (f : VForm) (n : Nat) (h : FVal → FVal → FVal → FVal × Bool) (s : State),
    roundedRule i = some (f, n, h) → i.wf = true →
    Free s (f.regs (srcUse n f.ty)) (s.cg.runs f.uniform f.g s.cg.active) →
    ∃ t, exec i s = .next t ∧ Retired f.sp s t ∧ t.cg.k = s.cg.k ∧
      (s.cg.runs f.uniform f.g s.cg.active = false → DataKept s t) ∧
      (s.cg.runs f.uniform f.g s.cg.active = true →
        ∃ x : Nat → W64, Written s.cg t.cg f.ty.is64 f.d (s.cg.execSet f.g s.cg.active) x ∧
          (∀ l e, l < 32 → e < f.ty.en → elem f.ty.ew e (x l) = BitVec.ofNat f.ty.ew (roundedElem s.cg f n h l e).bits) ∧
          t.cg.fst = s.cg.fst ||| (flagsOf (workLanes f.uniform (s.cg.execSet f.g s.cg.active)) (List.range f.ty.en)
            (fun l e => (roundedElem s.cg f n h l e).fl)).setWidth 32 ∧
          ∀ l, l < 32 → t.cg.rget l =
            if f.uniform = false ∧ lin (s.cg.execSet f.g s.cg.active) l = true ∧ (s.cg.rmOf f.ty.fmt).rnd = 2
            then stateAfter (s.cg.rget l) f.ty.en else s.cg.rget l)

/-- The other floating-point words, CVT, RAND and MOV without modifiers: every lane of the execution set holds what the
word computes from that lane, with its conditions and its draws (R355 to R363, R365, R367). -/
def Obligations.LaneFunctionWordsCompute : Prop :=
  ∀ (i : Instr) (f : VForm) (u : VUse) (h : Bool → LaneFn) (s : State),
    laneRule s.cg i = some (f, u, h) → i.wf = true →
    Free s (f.regs u) (s.cg.runs f.uniform f.g s.cg.active) →
    ∃ t, exec i s = .next t ∧ Retired f.sp s t ∧ t.cg.k = s.cg.k ∧
      (s.cg.runs f.uniform f.g s.cg.active = false → DataKept s t) ∧
      (s.cg.runs f.uniform f.g s.cg.active = true →
        Written s.cg t.cg (u.d == .w64) f.d (s.cg.execSet f.g s.cg.active) (fun l => (s.cg.laneRes f u (h f.uniform) l).val) ∧
        t.cg.fst = s.cg.fst ||| (flagsOf (workLanes f.uniform (s.cg.execSet f.g s.cg.active)) [0]
          (fun l _ => (s.cg.laneRes f u (h f.uniform) l).fl)).setWidth 32 ∧
        ∀ l, l < 32 → t.cg.rget l =
          if f.uniform = false ∧ lin (s.cg.execSet f.g s.cg.active) l = true
          then (s.cg.laneRes f u (h false) l).rng.getD (s.cg.rget l) else s.cg.rget l)

/-- Before rounding, the sum of two or three finite addends and the product of two finite factors are exact (R353). -/
def Obligations.SumsAndProductsAreExact : Prop :=
  ∀ a b c : FVal, IsFin a → IsFin b → IsFin c →
    (IsFin (fsum [a, b]).1 ∧ (fsum [a, b]).2 = false ∧ realOf (fsum [a, b]).1 = realOf a + realOf b) ∧
    (IsFin (fsum [a, b, c]).1 ∧ (fsum [a, b, c]).2 = false ∧
      realOf (fsum [a, b, c]).1 = realOf a + realOf b + realOf c) ∧
    (IsFin (a.mul b).1 ∧ (a.mul b).2 = false ∧ realOf (a.mul b).1 = realOf a * realOf b)

/-- The five shuffles: each lane of the execution set takes what the source lane supplies, or keeps a where the source
lies outside the group (R202, R374, R375). -/
def Obligations.ShufflesMove : Prop :=
  ∀ (i : Instr) (f : VForm) (ub : Use) (src : Nat → Nat → Int) (s : State),
    shuffleRule i = some (f, ub, src) → i.wf = true →
    Free s (f.regs { d := f.ty.use, a := f.ty.use, b := ub }) (s.cg.execSet f.g s.cg.active != 0) →
    ∃ t, exec i s = .next t ∧ Retired f.sp s t ∧ FlagsKept s t ∧
      (s.cg.execSet f.g s.cg.active = 0 → RegsKept s t) ∧
      (s.cg.execSet f.g s.cg.active ≠ 0 →
        Written s.cg t.cg f.ty.is64 f.d (s.cg.execSet f.g s.cg.active) (fun l =>
          let j := src (s.cg.opnd ub f.b l).toNat l
          if j < 0 ∨ 32 ≤ j then s.cg.opnd f.ty.use f.a l else supplies s.cg f.ty.use f.a j.toNat))

/-- VOTE, BALLOT, VRED, RDFIRST and RDLANE: one value from the execution set, in a scalar register or in every lane of
the set (R376, R377, R380, R383). -/
def Obligations.OneValueWordsCompute : Prop :=
  ∀ (i : Instr) (f : VForm) (rs : Regs) (wide : Bool) (v : Lanes → W64) (fl : Lanes → Fl) (s : State),
    oneRule s.cg i = some (f, rs, wide, v, fl) → i.wf = true →
    Free s rs (s.cg.execSet f.g s.cg.active != 0) →
    ∃ t, exec i s = .next t ∧ Retired f.sp s t ∧ t.cg.k = s.cg.k ∧ t.cg.rnd = s.cg.rnd ∧
      (s.cg.execSet f.g s.cg.active = 0 → DataKept s t) ∧
      (s.cg.execSet f.g s.cg.active ≠ 0 →
        Written s.cg t.cg wide f.d (s.cg.execSet f.g s.cg.active) (fun _ => v (s.cg.execSet f.g s.cg.active)) ∧
        t.cg.fst = s.cg.fst ||| (fl (s.cg.execSet f.g s.cg.active)).setWidth 32)

/-- MATCH, VSCAN, VSTEP and WRLANE: a value for each lane written (R378, R381, R382, R383). -/
def Obligations.LaneValueWordsCompute : Prop :=
  ∀ (i : Instr) (f : VForm) (rs : Regs) (wide : Bool) (w : Lanes → Lanes) (v : Lanes → Nat → W64 × Fl) (s : State),
    eachRule s.cg i = some (f, rs, wide, w, v) → i.wf = true →
    Free s rs (s.cg.execSet f.g s.cg.active != 0) →
    ∃ t, exec i s = .next t ∧ Retired f.sp s t ∧ t.cg.k = s.cg.k ∧ t.cg.rnd = s.cg.rnd ∧
      (s.cg.execSet f.g s.cg.active = 0 → DataKept s t) ∧
      (s.cg.execSet f.g s.cg.active ≠ 0 →
        Written s.cg t.cg wide f.d (w (s.cg.execSet f.g s.cg.active)) (fun l => (v (s.cg.execSet f.g s.cg.active) l).1) ∧
        t.cg.fst = s.cg.fst ||| (flagsOf (laneList (s.cg.execSet f.g s.cg.active)) [0]
          (fun l _ => (v (s.cg.execSet f.g s.cg.active) l).2)).setWidth 32)

/-- For an integer type the tree of VRED gives the combination of the execution set's elements in lane order, and the
passes of VSCAN give in each lane the combination of those at or below it (R379 to R381). -/
def Obligations.ReductionsCombineTheSet : Prop :=
  ∀ (t : Ty) (op : Nat) (ex : Lanes) (a : Nat → W64), t.isN = true → op ≤ 5 →
    elem t.ew 0 (vredVal t op ex a).1 = combine t.isSigned op (laneList ex) (fun l => elem t.ew 0 (a l)) ∧
    ∀ l, l < 32 → lin ex l = true →
      elem t.ew 0 ((scanPass t op [1, 2, 4, 8, 16] (redStart t op ex a, 0)).1.getD l 0) =
        combine t.isSigned op ((laneList ex).filter (fun j => decide (j ≤ l))) (fun j => elem t.ew 0 (a j))

/-- KAND, KOR, KXOR, KNOT, KPOP, KFFS and KMOV: the mask register or scalar register named gets its value, and a write
to k0 is ignored; KMOV.V sets the bits of the execution set from its lanes (R315, R384). -/
def Obligations.MaskWordsCompute : Prop :=
  (∀ (i : Instr) (f : VForm) (rs : Regs) (v : Lanes ⊕ W64) (s : State),
    maskRule s.cg i = some (f, rs, v) → i.wf = true → Free s rs (s.cg.uniGuard f.g s.cg.active) →
    ∃ t, exec i s = .next t ∧ Retired f.sp s t ∧ t.cg.v = s.cg.v ∧ t.cg.fst = s.cg.fst ∧ t.cg.rnd = s.cg.rnd ∧
      (s.cg.uniGuard f.g s.cg.active = false → DataKept s t) ∧
      (s.cg.uniGuard f.g s.cg.active = true → match v with
        | .inl m => t.cg.s = s.cg.s ∧ ∀ n, n < 8 → t.cg.kget n = if n = f.d.toNat ∧ n ≠ 0 then m else s.cg.kget n
        | .inr x => t.cg.k = s.cg.k ∧ ∀ n, t.cg.sget n = if n = sNum f.d then x else s.cg.sget n)) ∧
  (∀ (f : VForm) (s : State), (Instr.kmov f).wf = true → f.c = 1 →
    Free s (useRegs f.a f.ty.use) (s.cg.execSet f.g s.cg.active != 0) →
    ∃ t, exec (.kmov f) s = .next t ∧ Retired f.sp s t ∧ RegsKept s t ∧ t.cg.fst = s.cg.fst ∧ t.cg.rnd = s.cg.rnd ∧
      (s.cg.execSet f.g s.cg.active = 0 → FlagsKept s t) ∧
      (s.cg.execSet f.g s.cg.active ≠ 0 → ∀ n, n < 8 → t.cg.kget n =
        if n = f.d.toNat ∧ n ≠ 0 then BitVec.ofFnLE (fun l : Fin 32 =>
          if lin (s.cg.execSet f.g s.cg.active) l then s.cg.opnd f.ty.use f.a l != 0 else lin (s.cg.kget f.d.toNat) l)
        else s.cg.kget n))

/-- A PAIR leaves the registers, conditions and random states that its two halves leave as full words, one after the
other: neither reads what the other writes (R326 to R328). -/
def Obligations.PairRunsBothHalves : Prop :=
  ∀ (f : PForm) (i j : Instr) (s : State), (Instr.pair f).wf = true → halfInstr f.h0 = some i → halfInstr f.h1 = some j →
    Free s (halfRegs f.h0 ++ halfRegs f.h1) (s.cg.active != 0) →
    ∃ t, exec (.pair f) s = .next t ∧ Retired f.sp s t ∧ t.cg.k = s.cg.k ∧
      (s.cg.active = 0 → DataKept s t) ∧
      (s.cg.active ≠ 0 → ∃ t0 t1, exec i s = .next t0 ∧ exec j t0 = .next t1 ∧
        t.cg.v = t1.cg.v ∧ t.cg.s = t1.cg.s ∧ t.cg.fst = t1.cg.fst ∧ t.cg.rnd = t1.cg.rnd)

/-- VXEC: without participants it does nothing; else its first issue takes the word of the lowest participant and
carries it out over the participants that hold it as their execution set, or skips them with the cause; the group
stands after the VXEC when no other word is left and goes on with it otherwise (R389, R390, R392). -/
def Obligations.VxecRunsItsWords : Prop :=
  ∀ (f : VForm) (s : State) (p : Lanes), (Instr.vxec f).wf = true → s.cg.tm = false →
    p = s.cg.execSet f.g s.cg.active &&& s.cg.kget f.b.toNat →
    Free s [(f.a, 2), (f.a + 1, 0)] (s.cg.execSet f.g s.cg.active != 0) →
    (p = 0 → exec (.vxec f) s = .next (s.setCg (s.cg.advance f.sp))) ∧
    ∀ (w : W64) (hs : Lanes), p ≠ 0 → s.cg.vx = {} → w = s.cg.read true f.a (lowLane p) →
      hs = BitVec.ofFnLE (fun l : Fin 32 => lin p l && s.cg.read true f.a l == w) →
      (∀ cause, laneWord w false [f.a] = .skip cause → s.cg.mode.getLsbD 31 = false →
        ∃ t, exec (.vxec f) s = .next t ∧ DataKept s t ∧ OthersKept s t ∧
          t.cg.xfm = hs ∧ t.cg.xfc.toNat = cause.toNat + lowLane p * 2 ^ 8 ∧ WordLeft s t (hs == p) (lowLane p)) ∧
      (∀ b u, laneWord w false [f.a] = .word b →
        b hs ((s.setCg { s.cg with xfm := 0, xfc := 0 }).pcountG s.cur.core s.cur.gs 2 1) = .done u →
        u.cur = s.cur → u.cg.xfm = 0 → u.cg.vx = {} → u.cg.woff = s.cg.woff →
        (∀ l, l < 32 → u.cg.read true f.a l = s.cg.read true f.a l) →
        ∃ t, exec (.vxec f) s = .next t ∧ DataKept u t ∧ OthersKept u t ∧ t.cg.acc = u.cg.acc ∧
          WordLeft s t (hs == p) (lowLane p)) ∧
      (∀ f' q, laneWord w false [f.a] = .inner f' → q = hs &&& s.cg.guardMask f'.g &&& s.cg.kget f'.b.toNat → q = 0 →
        s.cg.loadBusy [(f'.a, 2)] = false → s.cg.inRange [f'.a + 1] = true →
        ∃ t, exec (.vxec f) s = .next t ∧ DataKept s t ∧ OthersKept s t ∧ WordLeft s t (hs == p) (lowLane p)) ∧
      (∀ f' q b u, laneWord w false [f.a] = .inner f' → q = hs &&& s.cg.guardMask f'.g &&& s.cg.kget f'.b.toNat → q ≠ 0 →
        s.cg.loadBusy [(f'.a, 2)] = false → s.cg.inRange [f'.a + 1] = true →
        (∀ l, l < 32 → lin q l = true → s.cg.read true f'.a l = s.cg.read true f'.a (lowLane q)) →
        laneWord (s.cg.read true f'.a (lowLane q)) true [f.a, f'.a] = .word b →
        b q (((s.setCg { s.cg with xfm := 0, xfc := 0 }).pcountG s.cur.core s.cur.gs 2 1).setCg
          { s.cg with xfm := 0, xfc := 0, vx := { depth := 2 } }) = .done u →
        u.cur = s.cur → u.cg.xfm = 0 → u.cg.vx = { depth := 2 } → u.cg.woff = s.cg.woff →
        (∀ l, l < 32 → u.cg.read true f.a l = s.cg.read true f.a l ∧ u.cg.read true f'.a l = s.cg.read true f'.a l) →
        ∃ t, exec (.vxec f) s = .next t ∧ DataKept u t ∧ OthersKept u t ∧ t.cg.acc = u.cg.acc ∧
          WordLeft s t (hs == p) (lowLane p))

/-- BRA, BANY, BALL, BNONE, BRX, RET and CALL: control goes to the target, or to the next word; no counter, exit bit or
mask changes (R317, R397, R398). -/
def Obligations.BranchesTransfer : Prop :=
  (∀ (i : Instr) (f : CForm) (go : Bool) (s : State), branchRule s.cg i = some (f, go) → i.wf = true →
    (Lands s (ofsTo s f) →
      exec i s = .next (s.setCg (if go then s.cg.goto (ofsTo s f) else s.cg.advance f.sp))) ∧
    (Strays s (ofsTo s f) → CanTrap s → ∃ t, exec i s = .next t ∧ Trapped s t 3 0 0 (ofsTo s f) s.cg.pos ∧ DataKept s t)) ∧
  (∀ (i : Instr) (f : CForm) (s : State), i = .brx f ∨ i = .ret f → i.wf = true → s.cg.loadBusy [(f.a, 2)] = false →
    (s.cg.uniGuard f.mask s.cg.active = false → exec i s = .next (s.setCg (s.cg.advance f.sp))) ∧
    (s.cg.uniGuard f.mask s.cg.active = true → Lands s (s.cg.sfld f.a) →
      exec i s = .next (s.setCg (s.cg.goto (s.cg.sfld f.a))))) ∧
  (∀ (f : CForm) (s : State), (Instr.call f).wf = true → s.cg.live = true → s.cg.loadBusy [(f.a, 2)] = false →
    Lands s (ofsTo s f) →
    ∃ t, exec (.call f) s = .next t ∧ t.cg.v = s.cg.v ∧ FlagsKept s t ∧ OthersKept s t ∧
      (s.cg.uniGuard f.mask s.cg.active = false → t = s.setCg (s.cg.advance f.sp)) ∧
      (s.cg.uniGuard f.mask s.cg.active = true → t.cg.bhdr = ofsTo s f ∧ t.cg.woff = 0 ∧
        ∀ n, t.cg.sget n = if n = sNum f.a then s.cg.addr + 8 else s.cg.sget n))

/-- IF, ELSE, ENDIF, LOOP, BREAK, CONT and ENDLOOP change the counters of the live lanes as R400 gives them and skip
where no lane is left active; a counter that would reach 255 traps with every counter as it was (R199, R400). -/
def Obligations.StructuredWordsCount : Prop :=
  (∀ (i : Instr) (f : CForm) (skips : Bool) (h : Nat → Nat) (s : State),
    nestRule s.cg i = some (f, skips, h) → i.wf = true → s.cg.live = true → s.cg.tm = false →
    (skips = true → Lands s (ofsTo s f)) →
    ((∀ l, l < 32 → lin s.cg.exited l = false → h l < 255) →
      ∃ t, exec i s = .next t ∧ DataKept s t ∧ OthersKept s t ∧
        (∀ l, l < 32 → t.cg.cget l = if lin s.cg.exited l then s.cg.cget l else h l) ∧
        (skips = true ∧ (∀ l, l < 32 → lin s.cg.exited l = false → h l ≠ 0) → t.cg.bhdr = ofsTo s f ∧ t.cg.woff = 0) ∧
        (skips = false ∨ (∃ l, l < 32 ∧ lin s.cg.exited l = false ∧ h l = 0) →
          t.cg.bhdr = s.cg.bhdr ∧ t.cg.woff = s.cg.woff + 1)) ∧
    ((∃ l, l < 32 ∧ lin s.cg.exited l = false ∧ 255 ≤ h l) → CanTrap s →
      ∃ t, exec i s = .next t ∧ Trapped s t 5 0 0 0 s.cg.pos ∧ DataKept s t ∧ t.cg.ctr = s.cg.ctr)) ∧
  (∀ (f : CForm) (s : State), (Instr.endloopW f).wf = true → s.cg.live = true → s.cg.tm = false → Lands s (ofsTo s f) →
    (∀ l, l < 32 → s.cg.cget l < 255) →
    ∀ again : Bool, (again = true ↔ ∃ l, l < 32 ∧ lin s.cg.exited l = false ∧ s.cg.cget l ≤ 1) →
      ∃ t, exec (.endloopW f) s = .next t ∧ DataKept s t ∧ OthersKept s t ∧
        (∀ l, l < 32 → t.cg.cget l = if lin s.cg.exited l then s.cg.cget l else endloop s.cg again l) ∧
        (if again then t.cg.bhdr = ofsTo s f ∧ t.cg.woff = 0 else t.cg.bhdr = s.cg.bhdr ∧ t.cg.woff = s.cg.woff + 1))

/-- EXIT sets the exit bits of its execution set; EXITS, once the counters are zero, restarts the group at its target
with the octets it keeps, and waits until then (R200, R203, R402). -/
def Obligations.ExitAndRestart : Prop :=
  (∀ (f : CForm) (s : State), (Instr.exitW f).wf = true → s.cg.live = true → s.cg.tm = false →
    ∃ t, exec (.exitW f) s = .next t ∧ DataKept s t ∧ OthersKept s t ∧ t.cg.woff = s.cg.woff + 1 ∧ t.cg.ctr = s.cg.ctr ∧
      t.cg.exited = s.cg.exited ||| s.cg.execSet f.mask s.cg.active) ∧
  (∀ (f : CForm) (s : State), (Instr.exits f).wf = true → s.cg.live = true → s.cg.tm = false → Lands s (ofsTo s f) →
    s.cg.uniGuard f.mask s.cg.active = true →
    (s.cg.ld = 0 ∧ s.cg.st = 0 ∧ s.cg.cp = 0 ∧ s.cg.tl = 0 → s.cc.latch.arrivals = [] →
      ∃ t, exec (.exits f) s = .next t ∧ OthersKept s t ∧ t.cg.bhdr = ofsTo s f ∧ t.cg.woff = 0 ∧ t.cg.exited = 0 ∧
        (∀ l, t.cg.cget l = 0) ∧ t.cg.xfm = 0 ∧ t.cg.xfc = 0 ∧ t.cg.vx = {} ∧
        (∀ r l, l < 32 → t.cg.vget r l = if (f.a ++ f.b ++ f.imm).getLsbD (r / 8) then s.cg.vget r l else 0) ∧
        t.cg.s = s.cg.s ∧ FlagsKept s t ∧ t.cg.mode = s.cg.mode ∧ t.cg.gang = s.cg.gang ∧ t.cg.grp = s.cg.grp ∧
        t.cg.age = s.cg.age ∧ t.cg.tvec = s.cg.tvec ∧ t.cg.tpos = s.cg.tpos ∧ t.cg.taddr = s.cg.taddr ∧
        t.cg.tcause = s.cg.tcause) ∧
    (¬(s.cg.ld = 0 ∧ s.cg.st = 0 ∧ s.cg.cp = 0 ∧ s.cg.tl = 0) →
      ∃ c, exec (.exits f) s = .next (s.setCg { s.cg with held := some c })))

/-- SPAWN serves the lanes of its execution set in ascending order. It gives each the number of its children, all it asked
for while there is room, and where one gets fewer no room is left and every later lane gets none. Child g of lane l starts
in a place that was free with the state of R205; no other group changes. A role without registers traps, an empty
execution set does nothing, and earlier accesses of the parent are performed first, as at a release (R204, R205, R246). -/
def Obligations.SpawnCreatesChildren : Prop :=
  ∀ (f : VForm) (s : State), (Instr.spawn f).wf = true → s.cg.tm = false → s.cur.gs < 64 →
    let ex := s.cg.execSet f.g s.cg.active
    let role := s.ct.roles.getD f.c.toNat {}
    let want (l : Nat) : Nat := (lo32 (s.cg.opnd .w32 f.a l)).toNat
    Free s (useRegs f.d .w32 ++ useRegs f.a .w32 ++ useRegs f.b .w32) (ex != 0) →
    (ex = 0 → exec (.spawn f) s = .next (s.setCg (s.cg.advance f.sp))) ∧
    (ex ≠ 0 → role.nreg = 0 → CanTrap s →
      ∃ t, exec (.spawn f) s = .next t ∧ Trapped s t 1 0 0 0 s.cg.pos ∧ DataKept s t ∧ OthersKept s t) ∧
    (ex ≠ 0 → role.nreg ≠ 0 → s.cg.acc ≠ [] → exec (.spawn f) s = .next (s.setCg { s.cg with held := some 6 })) ∧
    (ex ≠ 0 → role.nreg ≠ 0 → s.cg.acc = [] →
      ∃ (t : State) (n : Nat → Nat) (place : Nat → Nat → Nat), exec (.spawn f) s = .next t ∧ t.mem = s.mem ∧
        t.cg.woff = s.cg.woff + 1 ∧ t.cg.s = s.cg.s ∧ FlagsKept s t ∧
        (∀ r l, l < 32 → t.cg.vget r l = if r = f.d.toNat ∧ lin ex l = true then BitVec.ofNat 32 (n l) else s.cg.vget r l) ∧
        (∀ l, l < 32 → lin ex l = true → n l ≤ want l ∧
          (n l < want l → t.roomFor s.cur.core s.cg.team role.nreg = none ∧ ∀ k, l < k → k < 32 → lin ex k = true → n k = 0)) ∧
        (∀ l g, l < 32 → lin ex l = true → g < n l →
          let p := place l g
          p < 64 ∧ (s.group s.cur.core p).live = false ∧ (t.group s.cur.core p).live = true ∧
          (t.group s.cur.core p).team = s.cg.team ∧ (t.group s.cur.core p).role = f.c.toNat ∧
          (t.group s.cur.core p).nreg = role.nreg ∧ (t.group s.cur.core p).mode = s.cg.mode ∧
          (t.group s.cur.core p).bhdr = s.ct.code + BitVec.ofNat 64 (8 * role.entry.toNat) ∧
          (t.group s.cur.core p).v = [] ∧ (t.group s.cur.core p).k = [] ∧ (t.group s.cur.core p).ctr = [] ∧
          (t.group s.cur.core p).exited = 0 ∧ (t.group s.cur.core p).sget 0 = s.cg.sget 0 ∧
          (t.group s.cur.core p).sget 1 = BitVec.ofNat 64 (f.c.toNat * 2 ^ 48 + g % 256 * 2 ^ 40 + l * 2 ^ 32 +
            (lo32 (s.cg.opnd .w32 f.b l)).toNat)) ∧
        (∀ l g k h, l < 32 → k < 32 → lin ex l = true → lin ex k = true → g < n l → h < n k →
          place l g = place k h → l = k ∧ g = h) ∧
        (∀ p, p < 64 → p ≠ s.cur.gs → (∀ l g, l < 32 → lin ex l = true → g < n l → place l g ≠ p) →
          t.group s.cur.core p = s.group s.cur.core p) ∧
        (∀ c p, c ≠ s.cur.core → p < 64 → t.group c p = s.group c p))

/-- WAIT goes on once each counter is at or below its operand and holds the group until then; NOP does nothing; YIELD
leaves the group not ready for max(1, n) clocks after the one it issued in; PROG counts in a trial (R301, R404, R405). -/
def Obligations.WaitsAndHints : Prop :=
  (∀ (f : IForm) (s : State), (Instr.wait f).wf = true →
    ((s.cg.uniGuard f.g s.cg.active = false ∨ (s.cg.ld ≤ (f.imm.extractLsb' 0 6).toNat ∧ s.cg.st ≤ (f.imm.extractLsb' 6 6).toNat ∧
        s.cg.cp ≤ (f.imm.extractLsb' 12 6).toNat ∧ s.cg.tl ≤ (f.imm.extractLsb' 18 6).toNat)) →
      exec (.wait f) s = .next (s.setCg (s.cg.advance f.sp))) ∧
    (¬(s.cg.uniGuard f.g s.cg.active = false ∨ (s.cg.ld ≤ (f.imm.extractLsb' 0 6).toNat ∧ s.cg.st ≤ (f.imm.extractLsb' 6 6).toNat ∧
        s.cg.cp ≤ (f.imm.extractLsb' 12 6).toNat ∧ s.cg.tl ≤ (f.imm.extractLsb' 18 6).toNat)) →
      ∃ c, exec (.wait f) s = .next (s.setCg { s.cg with held := some c }))) ∧
  (∀ (f : XForm) (s : State), (Instr.nop f).wf = true → exec (.nop f) s = .next (s.setCg (s.cg.advance f.sp))) ∧
  (∀ (f : XForm) (s : State), (Instr.yield f).wf = true → s.cg.live = true →
    ∃ t, exec (.yield f) s = .next t ∧ DataKept s t ∧ OthersKept s t ∧ t.cg.woff = s.cg.woff + 1 ∧
      t.cg.yieldClk = if s.cg.uniGuard f.g s.cg.active then max 1 f.imm.toNat + 2 else s.cg.yieldClk) ∧
  (∀ (f : XForm) (s : State), (Instr.prog f).wf = true →
    ∃ t, exec (.prog f) s = .next t ∧ t.cg = s.cg.advance f.sp ∧ OthersKept s t ∧
      ∀ n, tget 0 (t.func s.ct.func).probex.prog n =
        if s.cg.uniGuard f.g s.cg.active = true ∧ s.right s.ct.func s.ct.ctx rPROF = true ∧
           (s.func s.ct.func).probex.trial = true ∧ n = f.imm.toNat
        then tget 0 (s.func s.ct.func).probex.prog n + 1 else tget 0 (s.func s.ct.func).probex.prog n)

/-- MFSR gives its destination the register's value; MTSR writes the registers that may be written, with the values
R276, R340, R407 and R408 allow, and traps as illegal on the rest (R406). -/
def Obligations.SpecialRegistersMove : Prop :=
  (∀ (f : XForm) (r : Sr) (s : State), (Instr.mfsr f).wf = true → Sr.ofNum f.sreg = some r →
    Free s [(f.d, if r.is64 then 2 else 1)] (s.cg.runs (isS f.d) f.g s.cg.active) →
    ∃ t, exec (.mfsr f) s = .next t ∧ Retired f.sp s t ∧ FlagsKept s t ∧
      (s.cg.runs (isS f.d) f.g s.cg.active = false → RegsKept s t) ∧
      (s.cg.runs (isS f.d) f.g s.cg.active = true →
        Written s.cg t.cg (isS f.d || r.is64) f.d (s.cg.execSet f.g s.cg.active) (s.readSr r))) ∧
  (∀ (f : XForm) (r : Sr) (s : State), (Instr.mtsr f).wf = true → Sr.ofNum f.sreg = some r → s.cg.live = true →
    s.cg.loadBusy [(f.a, 2)] = false →
    (s.cg.uniGuard f.g s.cg.active = false → exec (.mtsr f) s = .next (s.setCg (s.cg.advance f.sp))) ∧
    (s.cg.uniGuard f.g s.cg.active = true → srWritable r (s.cg.sfld f.a) = true →
      ∃ t, exec (.mtsr f) s = .next t ∧ OthersKept s t ∧ t.cg.woff = s.cg.woff + 1 ∧ RegsKept s t ∧ t.cg.k = s.cg.k ∧
        (∀ q, q ≠ r → t.readSr q 0 = s.readSr q 0) ∧
        t.readSr r 0 = (if r.is64 then s.cg.sfld f.a else (lo32 (s.cg.sfld f.a)).setWidth 64) ∧
        (r = .rngseed → ∀ l, l < 32 → t.cg.rget l = s.cg.sfld f.a ^^^ (BitVec.ofNat 64 l * 0xD1B54A32D192ED03))) ∧
    (s.cg.uniGuard f.g s.cg.active = true → srWritable r (s.cg.sfld f.a) = false → CanTrap s →
      ∃ t, exec (.mtsr f) s = .next t ∧ Trapped s t 1 0 0 0 s.cg.pos ∧ DataKept s t))

/-- TRAP enters the handler with its code and the position after it; BKPT halts the group where its context holds HALT
and traps elsewhere; TRAP.RET clears TM and goes on at %tpos, and is illegal outside a handler (R405, R411, R413). -/
def Obligations.TrapWords : Prop :=
  (∀ (f : XForm) (s : State), (Instr.trap f).wf = true → CanTrap s → s.cg.live = true →
    (s.cg.uniGuard f.g s.cg.active = false → exec (.trap f) s = .next (s.setCg (s.cg.advance f.sp))) ∧
    (s.cg.uniGuard f.g s.cg.active = true → ∃ t, exec (.trap f) s = .next t ∧
      Trapped s t 0x12 f.imm.toNat 0 0 (tposOf s.cg.bhdr (s.cg.woff + 1)) ∧ DataKept s t ∧ OthersKept s t)) ∧
  (∀ (f : XForm) (s : State), (Instr.bkpt f).wf = true → CanTrap s → s.cg.live = true →
    (s.cg.uniGuard f.g s.cg.active = false → exec (.bkpt f) s = .next (s.setCg (s.cg.advance f.sp))) ∧
    (s.cg.uniGuard f.g s.cg.active = true → s.right s.ct.func s.ct.ctx rHALT = true →
      ∃ t, exec (.bkpt f) s = .next t ∧ t.cg.halted = true ∧ t.cg.woff = s.cg.woff + 1 ∧ DataKept s t) ∧
    (s.cg.uniGuard f.g s.cg.active = true → s.right s.ct.func s.ct.ctx rHALT = false →
      ∃ t, exec (.bkpt f) s = .next t ∧ Trapped s t 0x11 0 0 0 s.cg.pos ∧ DataKept s t ∧ OthersKept s t)) ∧
  (∀ (f : XForm) (s : State), s.cg.live = true →
    (s.cg.tm = true → ∃ t, exec (.trapRet f) s = .next t ∧ t.cg.tm = false ∧ DataKept s t ∧ OthersKept s t ∧
      t.cg.bhdr.toNat = s.cg.tpos.toNat % 2 ^ 55 / 8 * 8 ∧ t.cg.woff = s.cg.tpos.toNat / 2 ^ 55) ∧
    (CanTrap s → ∃ t, exec (.trapRet f) s = .next t ∧ Trapped s t 1 0 0 0 s.cg.pos ∧ DataKept s t ∧ OthersKept s t))

/-- Taking a trap: with a handler and TM clear, cause, INFO, the imprecise mark, the lane, the address and the position
are saved, TM is set and the header at %tvec is entered, counters, exit bits, masks, %xfm, %xfc and the VXEC progress
kept; otherwise the group's team is terminated (R411). -/
def Obligations.TakingATrap : Prop :=
  ∀ (s : State) (c p : Nat) (cause : Byte) (info : Nat) (impr : Bool) (lane : Nat) (addr pos : W64),
    (s.group c p).live = true → info < 2 ^ 16 → lane < 2 ^ 7 →
    ((s.group c p).tm = false → (s.group c p).tvec ≠ 0 →
      ∃ g, (s.takeTrap c p cause info impr lane addr pos) = s.setGroup c p g ∧
        g.tcause.toNat = info * 2 ^ 16 + (if impr then 2 ^ 15 else 0) + lane * 2 ^ 8 + cause.toNat % 2 ^ 8 ∧
        g.taddr = addr ∧ g.tpos = pos ∧ g.tm = true ∧ g.bhdr = (s.group c p).tvec ∧ g.woff = 0 ∧
        g.ctr = (s.group c p).ctr ∧ g.exited = (s.group c p).exited ∧ g.k = (s.group c p).k ∧
        g.xfm = (s.group c p).xfm ∧ g.xfc = (s.group c p).xfc ∧ g.vx = (s.group c p).vx ∧
        g.v = (s.group c p).v ∧ g.s = (s.group c p).s) ∧
    ((s.group c p).tm = true ∨ (s.group c p).tvec = 0 →
      (s.team c (s.group c p).team).live = true → (s.group c p).team < 8 → 
      ((s.takeTrap c p cause info impr lane addr pos).team c (s.group c p).team).term = true)

/-- LD, ST, LDS, STS, every ATOM and every RED: with an empty execution set nothing happens; past the checks of R418 the
access stands among the group's outstanding ones and its counter is one higher; without room the word is held; a
misaligned lane traps, the lowest one named, and no lane's access is performed (R201, R404, R415 to R418, R426). -/
def Obligations.MemoryWordsAreIssued : Prop :=
  ∀ (i : Instr) (m : MemWord) (s : State), plainMem s.cg i = some m ∨ atomMem s.cg i = some m → i.wf = true →
    Free s m.regs (!m.ats.isEmpty) →
    (m.ats = [] → exec i s = .next (s.setCg (s.cg.advance m.f.sp))) ∧
    (m.ats ≠ [] → Cleared s m.op m.f.scope m.f.size.bytes m.ats → m.Room s →
      ∃ t, exec i s = .next t ∧ t.cg.woff = s.cg.woff + 1 ∧ t.cg.tm = s.cg.tm ∧ t.mem = s.mem ∧
        (m.Near s → t.cg = ({ s.cg with acc := s.cg.acc ++ [m.access s], nextId := s.cg.nextId + 1 }.countUp m.op).advance m.f.sp ∧
          t.cc = { s.cc with txUsed := s.cc.txUsed + (m.access s).entries } ∧ OthersKept s t)) ∧
    (m.ats ≠ [] → Cleared s m.op m.f.scope m.f.size.bytes m.ats → ¬m.Room s →
      ∃ c, exec i s = .next (s.setCg { s.cg with held := some c })) ∧
    (∀ x, m.ats.find? (fun x => x.addr.toNat % m.f.size.bytes != 0) = some x → CanTrap s →
      ∃ t, exec i s = .next t ∧ Trapped s t 7 0 x.lane x.addr s.cg.pos ∧ DataKept s t ∧ OthersKept s t ∧ t.cg.acc = s.cg.acc)

/-- LD.ACQ is its load with an acquire fence that the group is then held at; ST.REL does the cache actions of a release
and then makes its store; while an earlier access is not performed the group is held at the release, and the store waits
for it (R246, R252, R422, R423). -/
def Obligations.AcquireLoadAndReleaseStore : Prop :=
  ∀ (i : Instr) (m : MemWord) (acq : Bool) (s : State), acqRelMem s.cg i = some (m, acq) → i.wf = true →
    Free s m.regs (!m.ats.isEmpty) →
    (m.ats = [] → exec i s = .next (s.setCg (s.cg.advance m.f.sp))) ∧
    (m.ats ≠ [] → Cleared s m.op m.f.scope m.f.size.bytes m.ats → m.Room s → m.Near s →
      (acq = true → ∃ t, exec i s = .next t ∧ t.mem = s.mem ∧ OthersKept s t ∧
        t.cg = ({ s.cg with acc := s.cg.acc ++ [m.access s], nextId := s.cg.nextId + 1, pend := some { kind := .acq, scope := m.f.scope } }.countUp
          m.op).advance m.f.sp) ∧
      (acq = false → s.cg.acc = [] → (s.releaseActs s.cur.core s.cur.gs m.f.scope).evicting s.cur.core = false →
        ∃ t, exec i s = .next t ∧ t.mem = (s.releaseActs s.cur.core s.cur.gs m.f.scope).mem ∧
          t.cg = ({ s.cg with acc := [m.access s], nextId := s.cg.nextId + 1 }.countUp m.op).advance m.f.sp) ∧
      (acq = false → (∃ a ∈ s.cg.acc, a.late = false) → ∃ t, exec i s = .next t ∧ t.mem = s.mem ∧ OthersKept s t ∧
        t.cg = ({ s.cg with acc := s.cg.acc ++ [{ m.access s with late := true }], nextId := s.cg.nextId + 1
                            pend := some { kind := .rel, scope := m.f.scope } }.countUp m.op).advance m.f.sp))

/-- The fences: one that waits for accesses leaves the group held at it with everything else as it was; one that need
not wait does its cache actions, after which a release at cluster scope or wider leaves no dirty byte in the core's L1
and an acquire leaves no sector there (R252 to R255, R423, R430). -/
def Obligations.FencesActOnTheCaches : Prop :=
  ∀ (i : Instr) (kind : FenceKind) (f : MForm) (s : State),
    (i = .fenceAcq f ∧ kind = .acq) ∨ (i = .fenceRel f ∧ kind = .rel) ∨ (i = .fenceFull f ∧ kind = .full) →
    i.wf = true → s.cg.live = true →
    (s.cg.uniGuard f.g s.cg.active = false → exec i s = .next (s.setCg (s.cg.advance f.sp))) ∧
    (s.cg.uniGuard f.g s.cg.active = true →
      ((match kind with | .acq => ∃ a ∈ s.cg.acc, a.op.returns = true | _ => s.cg.acc ≠ []) →
        ∃ t, exec i s = .next t ∧ t.mem = s.mem ∧ OthersKept s t ∧
          t.cg = { s.cg with pend := some { kind, scope := f.scope } }.advance f.sp) ∧
      ((match kind with | .acq => ∀ a ∈ s.cg.acc, a.op.returns = false | _ => s.cg.acc = []) →
        ∃ t, exec i s = .next t ∧ DataKept s t ∧ t.cg.woff = s.cg.woff + 1 ∧ t.cg.acc = s.cg.acc ∧
          (t.cg.pend = none ∨ t.evicting s.cur.core = true) ∧
          (2 ≤ f.scope.code.toNat → kind ≠ .acq → ∀ k x, t.l1Get s.cur.core k = some x → x.dirty = 0) ∧
          (2 ≤ f.scope.code.toNat → kind ≠ .rel → ∀ k, t.l1Get s.cur.core k = none)))

/-- PREF changes no register and no counter, and no memory but by the write-back of a dirty line that leaves a full L1; CINV.L1, once its lanes' pages are translated, leaves none of
their lines in the core's L1;
CINV.TLB and CINV.CTX leave no translation of the pages named, or of any page, for the group's context, once every
earlier access of the group is done (R127, R433, R434). -/
def Obligations.PrefetchAndInvalidation : Prop :=
  (∀ (f : MForm) (s : State), (Instr.pref f).wf = true →
    Free s (f.gRegs true) (!(memWhere s.cg f (isS f.base && isS f.idx)).isEmpty) →
    ∃ t, exec (.pref f) s = .next t ∧ t.cg = s.cg.advance f.sp ∧ t.cc.scr = s.cc.scr ∧
      (∀ c p, p < 64 → (c, p) ≠ (s.cur.core, s.cur.gs) → t.group c p = s.group c p) ∧
      ((∀ e ∈ s.cc.l1, ∀ x, e.2 = some x → x.dirty = 0) → t.mem = s.mem)) ∧
  (∀ (f : MForm) (s : State) (ats : List LaneAt), (Instr.cinvL1 f).wf = true → ats = s.cg.gLanes f true (memWhere s.cg f false) →
    Free s (f.gRegs true) (!ats.isEmpty) → (∀ x ∈ ats, ∀ va, x.tgt = .glob va → va.toNat < 2 ^ 55) →
    s.cg.cp < 63 → (∀ x ∈ ats, s.storeUnder s.cur.core s.cur.gs x = false) →
    (∀ x ∈ ats, ∀ va t, x.tgt = .glob va → s.cinvPage s.cur.core s.cur.gs va ≠ .error t) →
    ∃ t, exec (.cinvL1 f) s = .next t ∧ DataKept s t ∧ t.cg.woff = s.cg.woff + 1 ∧
      ∀ x ∈ ats, ∀ va l i k, x.tgt = .glob va → s.cinvPage s.cur.core s.cur.gs va = .ok (some l) → i < 4 →
        locKey ((l.add (va.toNat % 65536 / 128 * 128)).add (32 * i)) = some k → t.l1Get s.cur.core k = none) ∧
  (∀ (i : Instr) (f : MForm) (s : State) (named : Nat → Prop), Instr.wf i = true → s.cg.live = true →
    (i = .cinvTlb f ∧ Free s (f.gRegs true) true ∧ memWhere s.cg f false ≠ [] ∧
      (∀ l ∈ memWhere s.cg f false, hi32 (s.cg.gAddr f true l) ≠ 0xFFFFFFFF → (s.cg.gAddr f true l).toNat < 2 ^ 55) ∧
      named = (fun page => ∃ l ∈ memWhere s.cg f false, hi32 (s.cg.gAddr f true l) ≠ 0xFFFFFFFF ∧
        (s.cg.gAddr f true l).toNat / 65536 = page)) ∨
    (i = .cinvCtx f ∧ s.cg.uniGuard f.g s.cg.active = true ∧ named = fun _ => True) →
    s.cg.cp < 63 → s.cg.acc = [] → (s.releaseActs s.cur.core s.cur.gs .device).evicting s.cur.core = false →
    ∃ t, exec i s = .next t ∧ DataKept s t ∧ t.cg.woff = s.cg.woff + 1 ∧
      ∀ page, named page → ∀ c acc, t.tlbFind c s.ct.func s.ct.ctx page acc = none)

/-- LDW.F, LDW.F.E and STW.E on words whose F is as they ask: each lane's word is read, read and emptied, or written and
filled; where a lane's word is not ready the group waits with a record that names the first such lane's word, the
lanes before it served (R225, R227, R234, R424). -/
def Obligations.TaggedWordsHandOver : Prop :=
  ∀ (i : Instr) (f : MForm) (kind : WaitKind) (s : State) (b o : Nat → Nat),
    (i = .ldwF f ∧ kind = .ldw) ∨ (i = .ldwFE f ∧ kind = .ldwE) ∨ (i = .stwE f ∧ kind = .stwE) → i.wf = true →
    Free s ((f.d, 1) :: f.sRegs) (s.cg.execSet f.g s.cg.active != 0) → NoWaiters s → s.cg.acc = [] →
    s.cg.execSet f.g s.cg.active ≠ 0 →
    (∀ l ∈ laneList (s.cg.execSet f.g s.cg.active), (s.cg.sAddr f l).toNat % 4 = 0 ∧ InBank s (s.cg.sAddr f l) (b l) (o l) ∧ o l % 4 = 0 ∧
      ((s.cc.word (b l) (o l / 4)).sp = false ∨ (kind ≠ .stwE ∧ s.cc.isLatch (b l) (o l / 4) = true))) →
    (∀ l ∈ laneList (s.cg.execSet f.g s.cg.active), ∀ j ∈ laneList (s.cg.execSet f.g s.cg.active), l ≠ j → (b l, o l) ≠ (b j, o j)) →
    ((∀ l ∈ laneList (s.cg.execSet f.g s.cg.active), (s.cc.word (b l) (o l / 4)).f = (kind != .stwE)) →
      ∃ t, exec i s = .next t ∧ t.cg.woff = s.cg.woff + 1 ∧ t.cg.wait = none ∧ t.cg.s = s.cg.s ∧ FlagsKept s t ∧ OthersKept s t ∧
        (∀ r l, l < 32 → t.cg.vget r l = if kind ≠ .stwE ∧ r = f.d.toNat ∧ lin (s.cg.execSet f.g s.cg.active) l = true
          then (s.cc.word (b l) (o l / 4)).data else s.cg.vget r l) ∧
        (∀ l ∈ laneList (s.cg.execSet f.g s.cg.active), t.cc.word (b l) (o l / 4) =
          { data := if kind = .stwE then lo32 (s.cg.read false f.d l) else (s.cc.word (b l) (o l / 4)).data
            f := kind != .ldwE, sp := (s.cc.word (b l) (o l / 4)).sp }) ∧
        ∀ c w, w < 4096 → (∀ l ∈ laneList (s.cg.execSet f.g s.cg.active), (b l, o l / 4) ≠ (c, w)) → t.cc.word c w = s.cc.word c w) ∧
    (∀ l ∈ laneList (s.cg.execSet f.g s.cg.active), (s.cc.word (b l) (o l / 4)).f = (kind == .stwE) →
      (∀ j ∈ laneList (s.cg.execSet f.g s.cg.active), j < l → (s.cc.word (b j) (o j / 4)).f = (kind != .stwE)) →
      ∃ t r, exec i s = .next t ∧ t.cg.woff = s.cg.woff ∧ t.cg.wait = some r ∧ r.kind = kind ∧ r.addr = s.cg.sAddr f l ∧
        lin r.lanes l = true ∧ ∀ j, j < l → lin r.lanes j = false)

/-- TAGSET and TAGCLR set or clear the tags D selects in each word of their lanes and change no data (R224, R425). -/
def Obligations.TagWordsSetTags : Prop :=
  ∀ (i : Instr) (f : MForm) (on : Bool) (s : State) (b o : Nat → Nat),
    (i = .tagset f ∧ on = true) ∨ (i = .tagclr f ∧ on = false) → i.wf = true →
    Free s f.sRegs (s.cg.execSet f.g s.cg.active != 0) → NoWaiters s → s.cg.st < 63 → s.cg.acc = [] →
    (∀ l ∈ laneList (s.cg.execSet f.g s.cg.active), (s.cg.sAddr f l).toNat % f.size.bytes = 0 ∧
      InBank s (s.cg.sAddr f l) (b l) (o l) ∧ o l % f.size.bytes = 0 ∧ o l < 2 ^ 14) →
    ∃ t, exec i s = .next t ∧ t.cg = s.cg.advance f.sp ∧ OthersKept s t ∧
      ∀ c w, w < 4096 → t.cc.word c w =
        if ∃ l ∈ laneList (s.cg.execSet f.g s.cg.active), c = b l ∧ (w = o l / 4 ∨ (f.size = .b64 ∧ w = o l / 4 + 1))
        then { s.cc.word c w with f := if f.d.getLsbD 0 then on else (s.cc.word c w).f
                                  sp := if f.d.getLsbD 1 then on else (s.cc.word c w).sp }
        else s.cc.word c w

/-- LARM and BARINIT write their pair as R229 and R232 lay it out; BARINIT enters it in the directory, or takes the
barrier-limit trap where the team or the core has no room for one more (R229, R232, R428). -/
def Obligations.LatchAndBarrierWordsAreSet : Prop :=
  ∀ (f : MForm) (s : State) (b o : Nat), Free s ((f.d, 2) :: f.sRegs) (s.cg.uniGuard f.g s.cg.active) →
    s.cg.uniGuard f.g s.cg.active = true → NoWaiters s → s.cg.st < 63 → ScratchIdle s → (s.cg.sAddr f 0).toNat % 8 = 0 →
    InBank s (s.cg.sAddr f 0) b o → o % 8 = 0 → o < 2 ^ 14 →
    ((Instr.larm f).wf = true → ∃ t, exec (.larm f) s = .next t ∧ t.cg = s.cg.advance f.sp ∧ OthersKept s t ∧
      t.cc.word b (o / 4) = { data := BitVec.ofNat 32 ((s.cg.sfld f.d).toNat % 2 ^ 30)
                              f := decide ((s.cg.sfld f.d).toNat % 2 ^ 30 = 0), sp := true } ∧
      t.cc.word b (o / 4 + 1) = { data := if barPhase (s.cc.word b (o / 4 + 1)).data != decide ((s.cg.sfld f.d).toNat % 2 ^ 30 = 0)
                                          then 0x80000000 else 0, f := false, sp := true } ∧
      (∀ t', (b * 4096 + o / 4, t') ∉ t.cc.bars) ∧
      ∀ c w, w < 4096 → (c, w) ≠ (b, o / 4) → (c, w) ≠ (b, o / 4 + 1) → t.cc.word c w = s.cc.word c w) ∧
    ((Instr.barinit f).wf = true →
      ((∃ t', (b * 4096 + o / 4, t') ∈ s.cc.bars) ∨
        ((s.cc.bars.filter (fun e => e.2 == s.cg.team)).length < s.ct.nbar ∧ s.cc.bars.length < 64) →
        ∃ t, exec (.barinit f) s = .next t ∧ t.cg = s.cg.advance f.sp ∧ OthersKept s t ∧
          t.cc.word b (o / 4) = { data := BitVec.ofNat 32 ((s.cg.sfld f.d).toNat % 2 ^ 16), f := false, sp := true } ∧
          t.cc.word b (o / 4 + 1) = {} ∧ (∃ t', (b * 4096 + o / 4, t') ∈ t.cc.bars) ∧
          ∀ c w, w < 4096 → (c, w) ≠ (b, o / 4) → (c, w) ≠ (b, o / 4 + 1) → t.cc.word c w = s.cc.word c w) ∧
      ((∀ t', (b * 4096 + o / 4, t') ∉ s.cc.bars) →
        (s.ct.nbar ≤ (s.cc.bars.filter (fun e => e.2 == s.cg.team)).length ∨ 64 ≤ s.cc.bars.length) → CanTrap s →
        ∃ t, exec (.barinit f) s = .next t ∧ Trapped s t 0x0C 0 0 0 s.cg.pos ∧ DataKept s t ∧ t.cc = s.cc))

/-- BARR returns the phase before its arrival and the word counts it, the last arrival flipping PHASE; BWAIT goes on
when PHASE differs from its operand and waits otherwise; ARRW is the two together (R233, R429). -/
def Obligations.BarrierWordsArriveAndWait : Prop :=
  ∀ (f : MForm) (s : State) (b o : Nat) (lo hi : SWord) (ph : Bool), Free s ((f.d, 2) :: f.sRegs) true →
    s.cg.uniGuard f.g s.cg.active = true → NoWaiters s → s.cg.acc = [] → s.evicting s.cur.core = false →
    (s.cg.sAddr f 0).toNat % 8 = 0 → InBank s (s.cg.sAddr f 0) b o → o < 2 ^ 14 → o % 8 = 0 → s.cc.isBar b (o / 4) = true →
    lo = s.cc.word b (o / 4) → hi = s.cc.word b (o / 4 + 1) → ph = hi.data.getLsbD 31 →
    ((Instr.barr f).wf = true → ∃ t, exec (.barr f) s = .next t ∧ ScalarWritten s t f.d (if ph then 1 else 0) ∧
      t.cg.woff = s.cg.woff + 1 ∧ OthersKept s t ∧ t.cc.word b (o / 4) = lo ∧
      (t.cc.word b (o / 4 + 1)).data.getLsbD 31 = (ph != completes lo hi) ∧
      (t.cc.word b (o / 4 + 1)).data.getLsbD 30 = hi.data.getLsbD 30 ∧
      arrived (t.cc.word b (o / 4 + 1)) = if completes lo hi then 0 else arrived hi + 1) ∧
    ((Instr.bwait f).wf = true →
      (ph ≠ (s.cg.sfld f.d).getLsbD 0 → ∃ t, exec (.bwait f) s = .next t ∧ DataKept s t ∧ t.cg.woff = s.cg.woff + 1 ∧ t.cg.wait = none) ∧
      (ph = (s.cg.sfld f.d).getLsbD 0 → ∃ t, exec (.bwait f) s = .next t ∧ DataKept s t ∧ OthersKept s t ∧ t.cg.woff = s.cg.woff ∧
        t.cg.wait = some { kind := .bwait, addr := s.cg.sAddr f 0, phase := ph, word := some f })) ∧
    ((Instr.arrw f).wf = true → ∃ t, exec (.arrw f) s = .next t ∧ ScalarWritten s t f.d (if ph then 1 else 0) ∧
      (if completes lo hi then t.cg.woff = s.cg.woff + 1 ∧ t.cg.wait = none
       else t.cg.woff = s.cg.woff ∧ t.cg.wait = some { kind := .bwait, addr := s.cg.sAddr f 0, phase := ph, word := some f }))

/-- QPUSH writes one entry at the tail, zero for the lanes outside its execution set, and QPOP takes the head entry;
each waits while the FIFO is full or empty, and an unmapped FIFO traps with its number (R235, R236, R432). -/
def Obligations.FifoWordsPushAndPop : Prop :=
  ∀ (f : MForm) (s : State) (ex : Lanes), ex = s.cg.execSet f.g s.cg.active → ex ≠ 0 → Free s [(f.d, 1)] true → NoWaiters s →
    (∀ b, s.ct.fifoOf f.ofs.toNat = some b →
      ((Instr.qpush f).wf = true → s.cg.acc = [] →
        ((s.cc.fifo b).count < 128 → ∃ t, exec (.qpush f) s = .next t ∧ t.cg = s.cg.advance f.sp ∧ OthersKept s t ∧
          (t.cc.fifo b).head = (s.cc.fifo b).head ∧ (t.cc.fifo b).tail = ((s.cc.fifo b).tail + 1) % 256 ∧
          (∀ l, l < 32 → tget 0 (t.cc.fifo b).data ((s.cc.fifo b).tail % 128 * 32 + l) =
            if lin ex l then lo32 (s.cg.read false f.d l) else 0) ∧
          ∀ e l, l < 32 → e ≠ (s.cc.fifo b).tail % 128 →
            tget 0 (t.cc.fifo b).data (e * 32 + l) = tget 0 (s.cc.fifo b).data (e * 32 + l)) ∧
        (128 ≤ (s.cc.fifo b).count → ∃ t, exec (.qpush f) s = .next t ∧ DataKept s t ∧ OthersKept s t ∧ t.cc = s.cc ∧
          t.cg.woff = s.cg.woff ∧ t.cg.wait = some { kind := .qpush, addr := BitVec.ofNat 32 f.ofs.toNat, lanes := ex, word := some f })) ∧
      ((Instr.qpop f).wf = true →
        ((s.cc.fifo b).count ≠ 0 → ∃ t, exec (.qpop f) s = .next t ∧ t.cg.woff = s.cg.woff + 1 ∧ t.cg.s = s.cg.s ∧ FlagsKept s t ∧
          (t.cc.fifo b) = { s.cc.fifo b with head := ((s.cc.fifo b).head + 1) % 256 } ∧
          ∀ r l, l < 32 → t.cg.vget r l = if r = f.d.toNat ∧ lin ex l = true
            then tget 0 (s.cc.fifo b).data ((s.cc.fifo b).head % 128 * 32 + l) else s.cg.vget r l) ∧
        ((s.cc.fifo b).count = 0 → ∃ t, exec (.qpop f) s = .next t ∧ DataKept s t ∧ OthersKept s t ∧ t.cc = s.cc ∧
          t.cg.woff = s.cg.woff ∧ t.cg.wait = some { kind := .qpop, addr := BitVec.ofNat 32 f.ofs.toNat, lanes := ex, word := some f }))) ∧
    (s.ct.fifoOf f.ofs.toNat = none → CanTrap s → ∀ i, i = .qpush f ∨ i = .qpop f → i.wf = true →
      ∃ t, exec i s = .next t ∧ Trapped s t 0x0D f.ofs.toNat 0 0 s.cg.pos ∧ DataKept s t ∧ t.cc = s.cc)

/-- An accepted SHUT counts in cp and its flip stands among the core's, with a cache way taken or the map entry given
up; one whose entry is not in the state it requires raises shutter busy and changes nothing (R220 to R222, R431). -/
def Obligations.ShutsAreAccepted : Prop :=
  (∀ (i : Instr) (f : MForm) (fifo : Bool) (s : State) (b : Nat),
    (i = .shutS f ∧ fifo = false) ∨ (i = .shutQ f ∧ fifo = true) → i.wf = true → s.cg.live = true →
    s.cg.uniGuard f.g s.cg.active = true →
    (s.cg.cp < 63 → (if fifo then s.ct.fifoOf f.ofs.toNat else s.ct.bankOf f.ofs.toNat) = none →
      (∀ e ∈ s.cc.flips, ¬(e.team = s.cg.team ∧ e.giveUp = false)) → s.cc.cacheWays.head? = some b → 2 ≤ s.cc.waysLeft →
      s.ct.win.length + s.ct.fifo.length < 31 →
      ∃ t e, exec i s = .next t ∧ t.cg = { s.cg with cp := s.cg.cp + 1 }.advance f.sp ∧
        (∀ c p, p < 64 → (c, p) ≠ (s.cur.core, s.cur.gs) → t.group c p = s.group c p) ∧ t.cc.scr = s.cc.scr ∧
        t.cc.flips = s.cc.flips ++ [e] ∧ e.team = s.cg.team ∧ e.gs = s.cur.gs ∧ e.fifo = fifo ∧ e.num = f.ofs.toNat ∧
        e.giveUp = false ∧ t.cc.shut = s.cc.shut ∧
        -- alone of its team it has begun, and its bank is a cache way no more; else it waits for its turn
        ((∀ x ∈ s.cc.flips, x.team ≠ s.cg.team) → e.begun = true ∧ e.bank = b ∧ b ∉ t.cc.cacheWays) ∧
        ((∃ x ∈ s.cc.flips, x.team = s.cg.team) → e.begun = false) ∧
        (s.cc.l1 = [] → t.mem = s.mem ∧ t.cc = { s.cc with flips := t.cc.flips })) ∧
    ((if fifo then s.ct.fifoOf f.ofs.toNat else s.ct.bankOf f.ofs.toNat) ≠ none ∨ s.cc.waysLeft ≤ 1 → CanTrap s →
      ∃ t, exec i s = .next t ∧ Trapped s t 0x0B 0 0 0 s.cg.pos ∧ DataKept s t ∧ t.cc = s.cc)) ∧
  (∀ (i : Instr) (f : MForm) (fifo : Bool) (s : State),
    (i = .shutC f ∧ fifo = false) ∨ (i = .shutCq f ∧ fifo = true) → i.wf = true → s.cg.live = true →
    s.cg.uniGuard f.g s.cg.active = true →
    (∀ b, s.cg.cp < 63 → (if fifo then s.ct.fifoOf f.ofs.toNat else s.ct.bankOf f.ofs.toNat) = some b → NoWaiters s →
      (∀ e ∈ s.cc.bars, e.1 / 4096 ≠ b) →
      ∃ t e, exec i s = .next t ∧ t.cg = { s.cg with cp := s.cg.cp + 1 }.advance f.sp ∧ OthersKept s t ∧
        t.cc = { s.cc with flips := s.cc.flips ++ [e] } ∧ e.bank = b ∧ e.giveUp = true ∧ e.team = s.cg.team ∧ e.gs = s.cur.gs ∧
        (if fifo then t.ct.fifoOf f.ofs.toNat else t.ct.bankOf f.ofs.toNat) = none) ∧
    ((if fifo then s.ct.fifoOf f.ofs.toNat else s.ct.bankOf f.ofs.toNat) = none → CanTrap s →
      ∃ t, exec i s = .next t ∧ Trapped s t 0x0B 0 0 0 s.cg.pos ∧ DataKept s t ∧ t.cc = s.cc))

/-- LDFRAG and LDFRAG.T stand among the group's outstanding loads, each lane with its tile and its offset in it; a lane
whose offset the form does not allow traps (R385 to R387). -/
def Obligations.FragmentLoadsAreIssued : Prop :=
  ∀ (i : Instr) (f : MForm) (tr : Bool) (s : State) (e : Nat) (b o : Nat → Nat),
    (i = .ldfrag f ∧ tr = false) ∨ (i = .ldfragT f ∧ tr = true) → i.wf = true → e = f.size.bytes →
    Free s ((f.d, 4) :: f.sRegs) (s.cg.execSet f.g s.cg.active != 0) → s.cg.execSet f.g s.cg.active ≠ 0 →
    ((∀ l ∈ laneList (s.cg.execSet f.g s.cg.active), InBank s (s.cg.sAddr f l) (b l) (o l) ∧
        (if tr then (s.cg.sAddr f l).toNat % (4096 * e) % e = 0 ∧ (s.cg.sAddr f l).toNat % (4096 * e) / (64 * e) % (16 / e) = 0
         else (s.cg.sAddr f l).toNat % (4096 * e) % 16 = 0)) → s.cg.ld < 63 → s.cc.txUsed ≤ 8192 →
      ∃ t, exec i s = .next t ∧ OthersKept s t ∧
        t.cg = Group.advance { s.cg with
          ld := s.cg.ld + 1, nextId := s.cg.nextId + 1
          acc := s.cg.acc ++ [{ id := s.cg.nextId, op := .frag e tr, scope := .plain, strm := 0, bytes := 4096 * e, dest := f.d
                                parts := (laneList (s.cg.execSet f.g s.cg.active)).map (fun l =>
                                  { lane := l, va := (s.cg.sAddr f l).setWidth 64, loc := .own (b l) (o l / (4096 * e) * (4096 * e))
                                    data := BitVec.ofNat 256 ((s.cg.sAddr f l).toNat % (4096 * e)) }) }] } f.sp) ∧
    (∀ l, (laneList (s.cg.execSet f.g s.cg.active)).find? (fun l => decide (tr = false ∧ (s.cg.sAddr f l).toNat % 16 ≠ 0)) = some l →
      CanTrap s → ∃ t, exec i s = .next t ∧ Trapped s t 7 0 l ((s.cg.sAddr f l).setWidth 64) s.cg.pos ∧ DataKept s t)

/-- TMMA, TZERO, TLOADA, TDRAIN, HREAD, CBOOK and CBOOK.DEF past their checks stand in the matrix unit's queue and count
in tl; a bad operand record and a tile number the team has not trap before any of that (R273, R438 to R448). -/
def Obligations.TileWordsAreQueued : Prop :=
  (∀ (f : TForm) (s : State) (t : Nat) (ma mb : MFmt) (al bl : List Loc), (Instr.tmma f).wf = true →
    Free s (pairRegs f.ra ++ pairRegs f.rb) true → s.cg.uniGuard f.g s.cg.active = true →
    (Tile s f.td t → Operand s f.ra ma al → Operand s f.rb mb bl → ma.isInt = mb.isInt → TileRoom s →
      ∃ u, exec (.tmma f) s = .next u ∧ Queued s u f.sp { gs := s.cur.gs, tile := t, kind := .mma [s.arrivalOf f 0 t al bl]
                                                          before := earlier s, mode := s.cg.mode } ∧
        u.cc.booksIssued = s.cc.booksIssued) ∧
    (Tile s f.td t → recordOk (s.cg.sfld f.ra) (s.cg.sfld (f.ra + 1)) = none → CanTrap s →
      ∃ u, exec (.tmma f) s = .next u ∧ Trapped s u 0x0E 0 0 0 s.cg.pos ∧ u.cc = s.cc) ∧
    (s.ct.tiles.length ≤ f.td.toNat → CanTrap s →
      ∃ u, exec (.tmma f) s = .next u ∧ Trapped s u 0x02 0 0 0 s.cg.pos ∧ u.cc = s.cc)) ∧
  (∀ (f : TForm) (s : State) (ts : List Nat), (Instr.tzero f).wf = true → s.cg.live = true →
    s.cg.uniGuard f.g s.cg.active = true →
    (List.range (f.fn.toNat + 1)).map (fun i => s.ct.tiles[f.td.toNat + i]?) = ts.map some → TileRoom s →
    ∃ u, exec (.tzero f) s = .next u ∧ u.cc.booksIssued = s.cc.booksIssued ∧
      Queued s u f.sp { gs := s.cur.gs, tile := 0, kind := .zero ts, before := earlier s, mode := s.cg.mode }) ∧
  (∀ (i : Instr) (m : TileMem) (s : State) (t : Nat), tileMemRule s.cg i = some m → i.wf = true → Free s m.regs true →
    s.cg.uniGuard m.f.g s.cg.active = true → (match m.tile with | some td => Tile s td t | none => t = 0) → StrideOk s.cg i →
    Cleared s m.op .plain m.size m.ats → TileRoom s →
    ∃ u, exec i s = .next u ∧ Queued s u m.f.sp { gs := s.cur.gs, tile := t, kind := m.kind, before := earlier s, mode := s.cg.mode
                                                  parts := numbered (m.ats.map (laneOf s m.op (fun _ => 0))) } ∧
      u.cc.booksIssued = s.cc.booksIssued + (match i with | .cbook _ => 1 | _ => 0)) ∧
  (∀ (f : TForm) (s : State), (Instr.cbookDef f).wf = true → s.cg.live = true → s.cg.uniGuard f.g s.cg.active = true → TileRoom s →
    ∃ u, exec (.cbookDef f) s = .next u ∧ u.cc.booksIssued = s.cc.booksIssued + 1 ∧
      Queued s u f.sp { gs := s.cur.gs, tile := 0, kind := .cbook 0 true, before := earlier s, mode := s.cg.mode })

/-- TMMAG: a member that finds the latch empty waits there with its arrival; the last member to arrive queues one
operation of every arrival, in list order, and every waiting member goes on after its word (R441 to R443). -/
def Obligations.GangMembersArriveAndFire : Prop :=
  ∀ (f : TForm) (s : State) (t idx : Nat) (list : List Nat) (ma mb : MFmt) (al bl : List Loc), (Instr.tmmag f).wf = true →
    Free s (pairRegs f.ra ++ pairRegs f.rb) true → s.cg.uniGuard f.g s.cg.active = true → Tile s f.td t → s.cur.gs < 64 →
    list = gangList s.cg.gang → list[idx]? = some s.cg.grp → list.Nodup → Operand s f.ra ma al →
    (if idx = 0 then Operand s f.rb mb bl ∧ ma.isInt = mb.isInt else bl = []) →
    (∀ m ∈ list, ∃ e ∈ s.liveAt s.cur.core, e.2.team = s.cg.team ∧ e.2.grp = m) → s.cg.tl < 63 →
    (s.cc.latch.arrivals = [] → 2 ≤ list.length →
      ∃ u, exec (.tmmag f) s = .next u ∧ DataKept s u ∧ OthersKept s u ∧ u.cg.woff = s.cg.woff ∧ u.cg.tl = s.cg.tl + 1 ∧
        u.cg.wait = some { kind := .gang } ∧
        u.cc = { s.cc with latch := { list := s.cg.gang, team := s.cg.team, fn := f.fn, arrivals := [s.arrivalOf f idx t al bl] } }) ∧
    (∀ x xs, s.cc.latch.arrivals = x :: xs → s.cc.latch.team = s.cg.team → s.cc.latch.list = s.cg.gang → s.cc.latch.fn = f.fn →
      x.fmt = (s.arrivalOf f idx t al bl).fmt → x.npl = (s.arrivalOf f idx t al bl).npl → xs.length + 2 = list.length →
      s.cc.tq.length < 16 → ((x :: xs).map (·.gs)).Nodup → (∀ y ∈ x :: xs, y.gs < 64 ∧ y.gs ≠ s.cur.gs) →
      ∃ u o, exec (.tmmag f) s = .next u ∧ DataKept s u ∧ u.mem = s.mem ∧ u.cg.woff = s.cg.woff + 1 ∧ u.cg.tl = s.cg.tl + 1 ∧
        u.cc = { s.cc with tq := s.cc.tq ++ [o], latch := {} } ∧ o.gs = s.cur.gs ∧ o.tile = t ∧
        o.kind = .mma (sortBy (fun (y : Arrival) => y.idx) (x :: xs ++ [s.arrivalOf f idx t al bl])) ∧
        ∀ y ∈ x :: xs, u.group s.cur.core y.gs =
          Group.advance { s.group s.cur.core y.gs with wait := none } y.sp)

/-- TSPLIT, CPY, CPY2, CPY3, FPUT, FGET and FSIG past their checks start the lowest free descriptor and count in cp; a
latch operand with bits above 31 set is an operand fault (R449 to R456). -/
def Obligations.EngineWordsStart : Prop :=
  ∀ (i : Instr) (f : TForm) (rs : Regs) (ok : Bool) (scope : Scope) (kind : CteKind) (latch : W64) (s : State),
    engineRule s i = some (f, rs, ok, scope, kind, latch) → i.wf = true → Free s rs true →
    (s.cg.uniGuard f.g s.cg.active = false → exec i s = .next (s.setCg (s.cg.advance f.sp))) ∧
    (s.cg.uniGuard f.g s.cg.active = true →
      (∀ d, ok = true → CanStart s scope d →
        ∃ t, exec i s = .next t ∧ EngineStarted s t d f.sp kind latch ∧ t.mem = (s.releaseActs s.cur.core s.cur.gs scope).mem) ∧
      (ok = true → s.cg.cp < 63 → s.cg.acc ≠ [] → exec i s = .next (s.setCg { s.cg with held := some 4 })) ∧
      (hi32 latch ≠ 0 → CanTrap s → ∃ t, exec i s = .next t ∧ Trapped s t 0x0E 0 0 0 s.cg.pos ∧ DataKept s t ∧ t.cc = s.cc))

/-- COLL enters a checked descriptor's key in the table and leaves its words for the engine; CCANCEL stands among the
core's cancels and counts in cp; CSTAT holds the group until the engine answers (R72, R459, R462, R463). -/
def Obligations.CollectiveWordsRegister : Prop :=
  (∀ (f : TForm) (s u v : State) (ps : List LanePart) (ws : List (Option W64)) (r : RawDesc), (Instr.coll f).wf = true →
    Free s [(f.ra, 2)] true → s.cg.uniGuard f.g s.cg.active = true →
    Cleared s .load .system 8 (runPlaces (s.cg.sfld f.ra) 8 8) →
    ps = (runPlaces (s.cg.sfld f.ra) 8 8).map (laneOf s .load (fun _ => 0)) →
    s.cg.acc = [] → u = s.releaseActs s.cur.core s.cur.gs .system → u.evicting s.cur.core = false →
    u.readDesc s.cur.core s.cur.gs (numbered ps) = .words ws v → (∀ w ∈ ws, w.isSome = true) →
    r = rawDesc (ws.map (fun w => w.getD 0)) (s.cg.sfld f.ra) s.ct.ctx s.ct.launch (s.teamIndex s.ct) →
    v.ct = s.ct → v.teamIndex s.ct = s.teamIndex s.ct →
    (∀ w, w = (v.setRecords s.cur.core s.cur.gs .load .system ps).engineWrite s.ct.func s.ct.ctx s.ct.launch (s.teamIndex s.ct)
        (s.cg.sfld f.ra + 0x30) (statusBytes 0 none) →
      w.descBad s.ct.func r false = none → w.keyOf s.ct.func r.comm r.tag = none → w.keys.length < 4096 →
      ∃ t, exec (.coll f) s = .next t ∧ t.cg.woff = v.cg.woff + 1 ∧
        t.keys = w.keys ++ [{ func := s.ct.func, comm := r.comm, tag := r.tag, issued := true, desc := some r.d }])) ∧
  (∀ (f : TForm) (s v : State) (ps : List LanePart) (w : W64) (ws : List (Option W64)), (Instr.ccancel f).wf = true →
    Free s [(f.ra, 2), (f.aux, 2)] true → s.cg.uniGuard f.g s.cg.active = true → hi32 (s.cg.sfld f.aux) = 0 →
    Cleared s .load .system 8 (runPlaces (s.cg.sfld f.ra) 1 8) →
    ps = (runPlaces (s.cg.sfld f.ra) 1 8).map (laneOf s .load (fun _ => 0)) →
    s.cg.cp < 63 → (∀ x ∈ ps, s.accMeets s.cur.core s.cur.gs x.loc 8 = false) →
    s.readDesc s.cur.core s.cur.gs (numbered ps) = .words (some w :: ws) v → v.cur = s.cur →
    ∃ t, exec (.ccancel f) s = .next t ∧ t.cg.woff = v.cg.woff + 1 ∧ t.cg.cp = v.cg.cp + 1 ∧
      t.cc.cancels = v.cc.cancels ++ [{ gs := s.cur.gs, va := s.cg.sfld f.ra + 0x38, comm := w.extractLsb' 0 16
                                        tag := hi32 w, latch := s.cg.sfld f.aux }]) ∧
  (∀ (f : TForm) (s : State), (Instr.cstat f).wf = true → Free s [(f.ra, 2), (f.td, 2)] true →
    s.cg.uniGuard f.g s.cg.active = true →
    ∃ t, exec (.cstat f) s = .next t ∧ DataKept s t ∧ OthersKept s t ∧ t.cg.woff = s.cg.woff ∧
      t.cg.cstat = some (f.td, (s.cg.sfld f.ra).extractLsb' 0 16, hi32 (s.cg.sfld f.ra), f.sp))

/-- Cold and warm starts, the clock's steps and a trip (R15 to R21): a cold start leaves nothing and waits for the
image, a warm start keeps the carve-out and the preserved regions with their poison, and the ports that were up, a port that
fails to train is left failed with LINK_FAIL, and a failed measurement ends only with a cold start. The boot aperture, the
lock and the preserved regions (R22, R115, R116): a write before the lock lands in HBM and one after it is aborted;
FWC_RANGE locks once and starts the measurement. What the clock, a disabled port and the counters do over a warm start is the
model's choice (log 38, log 41). -/
def Obligations.StartsAndPower : Prop :=
  (∀ s : State, s.inp.env.dieLinkFail = false → s.inp.env.stackFail = false →
    ∃ t, exec .coldStart s = .next t ∧ Blank t ∧ t.mem = [] ∧ t.poison = [] ∧ t.funcs = [] ∧
      t.boot = { step := 7, bridge := s.inp.env.bridge, slot := if s.inp.env.bridge then 0 else s.inp.env.slot
                 trips := s.boot.trips, reached := s.boot.reached, coeffs := true } ∧
      ∀ p, p < 18 →
        (s.inp.env.badPorts.contains p = false → (t.port p).state = .up) ∧
        (s.inp.env.badPorts.contains p = true → (t.port p).state = .failed ∧ (t.port p).event = 8 ∧
          Out.evrec .hasp (t.recordPacket (BitVec.ofNat 32 (0x100000 + p * 0x1000 + 8)) 8) ∈ t.out)) ∧
  (∀ s : State, s.inp.env.dieLinkFail = true →
    ∃ t, exec .coldStart s = .next t ∧ t.boot.step = 3 ∧ t.boot.halt = .hardware 3 ∧ t.ports = [] ∧ t.mem = s.mem ∧
      t.out = .report 3 :: s.out) ∧
  (∀ s : State, s.inp.env.dieLinkFail = false → s.inp.env.stackFail = true →
    ∃ t, exec .coldStart s = .next t ∧ t.boot.step = 4 ∧ t.boot.halt = .hardware 4 ∧ t.ports = [] ∧ t.mem = s.mem ∧
      t.out = .report 4 :: s.out) ∧
  (∀ s : State, s.boot.reached = true → s.boot.halt ≠ .measure → s.inp.env.dieLinkFail = false → s.inp.env.stackFail = false →
    ∃ t m, exec .warmStart s = .next t ∧ Blank t ∧ Measured m t ∧ m.boot.carve = s.boot.carve ∧ m.boot.halt = .none_ ∧
      m.boot.locked = s.boot.locked ∧ t.boot.bridge = s.boot.bridge ∧ t.boot.slot = s.boot.slot ∧
      (∀ a, byteAt m.mem a = if keptByte s a then byteAt s.mem a else 0) ∧
      (∀ k, k ∈ m.poison ↔ k ∈ s.poison ∧ keptByte s (k * 32) = true) ∧
      ∀ p, p < 18 →
        ((s.port p).state = .up ∨ (s.port p).disable = true → t.port p = s.port p) ∧
        ((s.port p).state ≠ .up → (s.port p).disable = false →
          (t.port p).state = (if s.inp.env.badPorts.contains p then .failed else .up) ∧ (t.port p).cnt = (s.port p).cnt ∧
          (s.inp.env.badPorts.contains p = true → (t.port p).event = (s.port p).event ||| 8))) ∧
  (∀ s : State, s.boot.reached = true → s.boot.halt ≠ .measure → s.inp.env.dieLinkFail = true →
    ∃ t, exec .warmStart s = .next t ∧ t.boot.step = 3 ∧ t.boot.halt = .hardware 3 ∧ t.out = .report 3 :: s.out) ∧
  (∀ s : State, s.boot.reached = true → s.boot.halt ≠ .measure → s.inp.env.dieLinkFail = false → s.inp.env.stackFail = true →
    ∃ t, exec .warmStart s = .next t ∧ t.boot.step = 4 ∧ t.boot.halt = .hardware 4 ∧ t.out = .report 4 :: s.out) ∧
  (∀ s : State, s.boot.reached = false → exec .warmStart s = exec .coldStart s) ∧
  (∀ s : State, s.boot.reached = true → s.boot.halt = .measure → exec .warmStart s = .next s) ∧
  (∀ s : State, ∃ t, exec .supplyOrThermalExcursion s = .next t ∧ t = { s with boot := t.boot } ∧ t.boot.cause = true ∧
    t.boot.clockMHz = s.boot.clockMHz) ∧
  (∀ s : State, ∃ t, exec .clockStep s = .next t ∧ t = { s with boot := t.boot } ∧
    (s.inp.flag = true → t.boot.clockMHz = max 800 (s.boot.clockMHz - 100) ∧ t.boot.clearMs = 0) ∧
    (s.inp.flag = false → s.boot.clockMHz < 1700 → t.boot.clearMs = s.boot.clearMs + 1 ∧
      t.boot.clockMHz = if 9 ≤ s.boot.clearMs then min 1700 (s.boot.clockMHz + 100) else s.boot.clockMHz)) ∧
  (∀ s : State, ∃ t, exec .moduleTrip s = .next t ∧ Blank t ∧ t.mem = [] ∧ t.poison = [] ∧ t.funcs = [] ∧ t.ports = [] ∧
    t.boot = { halt := .tripped, trips := s.boot.trips + 1, coeffs := s.boot.coeffs, reached := s.boot.reached }) ∧
  (∀ s : State, s.boot.locked = true ∨ 2 ^ 28 < s.inp.off + s.inp.bytes.length →
    exec .bootApertureWrite s = .next (s.emit (.hostAnswer s.inp.bus.toNat 0 false 0))) ∧
  (∀ s : State, s.boot.locked = true → exec .fwcRange s = .next s) ∧
  (∀ s : State, s.boot.locked = false → s.inp.off + s.inp.bytes.length ≤ 2 ^ 28 →
    ∃ t, exec .bootApertureWrite s = .next t ∧ t.boot = s.boot ∧ t.groups = s.groups ∧ t.out = s.out ∧
      ∀ a, byteAt t.mem a =
        let b := s.boot.apert.toNat * 2 ^ 28 + s.inp.off
        if b ≤ a ∧ a < b + s.inp.bytes.length then s.inp.bytes.getD (a - b) 0 else byteAt s.mem a) ∧
  (∀ s : State, s.boot.locked = false →
    let m := { s with boot := { s.boot with
      locked := true, fwcBase := s.inp.v.extractLsb' 16 11, fwcSize := s.inp.v.extractLsb' 0 3 } }
    (s.boot.step = 7 → s.boot.halt = .none_ → ∃ t, exec .fwcRange s = .next t ∧ Measured m t) ∧
    (s.boot.step ≠ 7 ∨ s.boot.halt ≠ .none_ → exec .fwcRange s = .next m)) ∧
  (∀ s : State, ∃ t, exec .haspMarkPreserved s = .next t ∧ t = { s with boot := { s.boot with preserved := t.boot.preserved } } ∧
    let a := s.inp.page
    let b := s.inp.page + s.inp.count
    t.boot.preserved =
      if a < b ∧ b ≤ 2048 ∧ (s.boot.carve.1 + s.boot.carve.2 ≤ a * 2 ^ 29 ∨ b * 2 ^ 29 ≤ s.boot.carve.1) ∧
        (∀ k < 16, ∀ i < 8, Config.bitmapBlock k i < a * 2048 ∨ b * 2048 ≤ Config.bitmapBlock k i) ∧ s.boot.preserved.length < 64
      then s.boot.preserved ++ [(s.inp.page, s.inp.count)] else s.boot.preserved)

/-- What a port receives (R27, R28, R30 to R33, R36): a good data flit in sequence joins its VC's buffer, one after a
gap is held, one delivered before is dropped and a damaged one is asked for; a good control flit acknowledges, stops
and asks, a bad one is only counted; a parity block recovers its flit or makes a second failure. That a RESEND is served and
counted again once its flits have gone, and that a flit counts as occupancy until its first unit is taken, is the model's
choice (log 38). -/
def Obligations.LinkReceives : Prop :=
  (∀ s : State, (portIn s).state = .up → flitGood s.inp.flit = true → flitKind s.inp.flit = 0 →
    (portIn s).worder = none → flitW s.inp.flit = (portIn s).rxw →
    ∃ t, exec .dataFlitRx s = .next t ∧ PortOnly s t ∧
      let x := portIn s
      let y := portIn t
      let f := s.inp.flit
      let a := flitAck f + 1
      (y.txAck = if serialGe a x.txAck && serialGe x.txSeq a then a else x.txAck) ∧
      (flitSeq f = x.rxSeq → x.hold = [] → x.occ (flitVc f) < 1024 →
        y.rxSeq = x.rxSeq + 1 ∧ vcUnits y (flitVc f) = vcUnits x (flitVc f) ++ flitUnits f ∧
        (y.rresend = if x.rresend = some x.rxSeq then none else x.rresend) ∧
        (x.fullHold = none → y.stopBits.getLsbD (flitVc f) = stopBit x (flitVc f) (x.occ (flitVc f) + 1))) ∧
      (serialGe (flitSeq f) x.rxSeq = false → y.rxSeq = x.rxSeq ∧ y.rxbuf = x.rxbuf ∧ y.hold = x.hold) ∧
      (serialGe (flitSeq f) x.rxSeq = true → flitSeq f ≠ x.rxSeq → (∀ g ∈ x.hold, flitSeq g ≠ flitSeq f) →
        y.rxSeq = x.rxSeq ∧ y.rxbuf = x.rxbuf ∧ y.hold = x.hold ++ [f]) ∧
      (flitSeq f = x.rxSeq → 1024 ≤ x.occ (flitVc f) → (∀ g ∈ x.hold, flitSeq g ≠ flitSeq f) → x.rresend = none →
        y.rxSeq = x.rxSeq ∧ y.rxbuf = x.rxbuf ∧ y.rresend = some (flitSeq f) ∧ counter y 5 = plusOne (counter x 5))) ∧
  (∀ s : State, flitGood s.inp.flit = true → flitKind s.inp.flit ≠ 0 → exec .dataFlitRx s = .next s) ∧
  (∀ s : State, (portIn s).state = .up → flitGood s.inp.flit = false →
    serialGe (flitSeq s.inp.flit) (portIn s).rxSeq = true → (flitSeq s.inp.flit - (portIn s).rxSeq).toNat < 1024 →
    (∀ g ∈ (portIn s).hold, flitSeq g ≠ flitSeq s.inp.flit) →
    ∃ t, exec .dataFlitRx s = .next t ∧ PortOnly s t ∧
      let x := portIn s
      let y := portIn t
      y.rxSeq = x.rxSeq ∧ y.rxbuf = x.rxbuf ∧ y.txAck = x.txAck ∧ counter y 0 = plusOne (counter x 0) ∧
      (flitSeq s.inp.flit, s.inp.flit) ∈ y.damaged ∧ flitSeq s.inp.flit ∈ y.preq) ∧
  (∀ s : State, (portIn s).state = .up → flitGood s.inp.flit = true → flitKind s.inp.flit = 1 →
    (portIn s).worder = none → flitW s.inp.flit = (portIn s).rxw →
    ∃ t, exec .linkControlFlitRx s = .next t ∧ PortOnly s t ∧
      let x := portIn s
      let y := portIn t
      let f := s.inp.flit
      let a := flitAck f + 1
      let w := flitWord f 12
      let r := flitWord f 44
      y.txMute = false ∧ y.txStop = f.extractLsb' 64 8 ∧ y.txSeq = x.txSeq ∧ y.rxSeq = x.rxSeq ∧ y.rxbuf = x.rxbuf ∧
      (y.replay = if serialGe a x.txAck && serialGe x.txSeq a then x.replay.filter (fun g => serialGe (flitSeq g) a) else x.replay) ∧
      (y.order = if bitOf w 31 && bits w 28 2 != 0 then
          some { width := widthOf (BitVec.ofNat 2 (bits w 28 2)), set := BitVec.ofNat 2 (bits w 26 2), sw := BitVec.ofNat 20 w }
        else x.order) ∧
      (∀ i, i < 7 → bitOf (flitWord f (16 + 4 * i)) 31 = true →
        (∃ g ∈ y.replay, flitSeq g = BitVec.ofNat 20 (flitWord f (16 + 4 * i))) →
        BitVec.ofNat 20 (flitWord f (16 + 4 * i)) ∈ y.parReq) ∧
      (bitOf r 31 = true → x.resend = [] ∨ x.served ≠ some (BitVec.ofNat 20 r) →
        (y.resend = y.replay.filter (fun g => serialGe (flitSeq g) (BitVec.ofNat 20 r) ||
          x.resend.any (fun h => flitSeq h == flitSeq g))) ∧ counter y 3 = plusOne (counter x 3)) ∧
      (bitOf r 31 = true → x.served = some (BitVec.ofNat 20 r) → (∃ g ∈ x.resend, serialGe (flitSeq g) y.txAck = true) →
        counter y 3 = counter x 3)) ∧
  (∀ s : State, (portIn s).state = .up → flitGood s.inp.flit = false →
    exec .linkControlFlitRx s =
      .next (s.setPort s.inp.port { portIn s with cnt := tput 0 (portIn s).cnt 4 (plusOne (counter (portIn s) 4)) })) ∧
  (∀ (s : State) (d : Flit), (portIn s).state = .up → flitGood s.inp.flit = true → flitKind s.inp.flit = 2 →
    (portIn s).worder = none → flitW s.inp.flit = (portIn s).rxw → flitBits s.inp.flit 64 8 = 1 →
    flitSeq s.inp.flit ∈ (portIn s).preq → (portIn s).damaged = [(flitSeq s.inp.flit, d)] → (portIn s).rresend = none →
    flitSeq s.inp.flit = (portIn s).rxSeq → (portIn s).hold = [] →
    ∃ t, exec .parityFlitRx s = .next t ∧ PortOnly s t ∧
      let x := portIn s
      let y := portIn t
      flitSeq s.inp.flit ∉ y.preq ∧ y.damaged = [] ∧
      match (parityFix d (((flitBytes s.inp.flit 256).drop 16).take 32)).filter (fun f => flitSeq f == x.rxSeq) with
      | some f => counter y 1 = plusOne (counter x 1) ∧
          (x.occ (flitVc f) < 1024 → counter y 2 = counter x 2 ∧ y.rxSeq = x.rxSeq + 1 ∧ vcUnits y (flitVc f) = vcUnits x (flitVc f) ++ flitUnits f)
      | none => counter y 1 = counter x 1 ∧ counter y 2 = plusOne (counter x 2) ∧ y.rxSeq = x.rxSeq ∧
          y.rresend = some x.rxSeq) ∧
  (∀ s : State, s.inp.seq ∈ (portIn s).preq →
    ((portIn s).repeated.contains s.inp.seq = false →
      exec .parityTimeout s = .next (s.setPort s.inp.port { portIn s with repeated := s.inp.seq :: (portIn s).repeated })) ∧
    ((portIn s).repeated.contains s.inp.seq = true → (portIn s).rresend = none →
      ∃ t, exec .parityTimeout s = .next t ∧ PortOnly s t ∧ (portIn t).rresend = some s.inp.seq ∧ s.inp.seq ∉ (portIn t).preq ∧
        counter (portIn t) 2 = plusOne (counter (portIn s) 2)))

/-- What a port sends (R25 to R27, R30 to R33, R36): a flit's fields read back as they were put in, with a CRC that
matches; a slot carries the next new flit, one sent again, parity that was asked for, or in the 21st slot the control
flit with everything outstanding; a stopped VC sends nothing new. That flits sent again go out whatever is stopped, and
FIRST is 0 in control and parity flits, is the model's choice (log 38). -/
def Obligations.LinkSends : Prop :=
  (∀ kind w seq ack vc first body, kind < 4 → w < 4 → seq < 2 ^ 20 → ack < 2 ^ 20 → vc < 8 → first < 16 → body.length ≤ 240 →
    let f := mkFlit kind w seq ack vc first body
    flitGood f = true ∧ flitKind f = kind ∧ (flitW f).toNat = w ∧ (flitSeq f).toNat = seq ∧ (flitAck f).toNat = ack ∧
      flitVc f = vc ∧ flitBits f 13 4 = first ∧ ∀ i, i < body.length → flitBits f (64 + 8 * i) 8 = (body.getD i 0).toNat) ∧
  (∀ s : State, (portIn s).state = .up → (portIn s).slot21 < 20 → (portIn s).resend = [] → (portIn s).order = none →
    let x := portIn s
    let v := s.inp.vc.toNat
    let q := tget [] x.txq v
    ((q = [] ∨ x.txMute = true ∨ x.txStop.getLsbD v = true ∨ 1023 ≤ (x.txSeq - x.txAck).toNat) →
      exec .dataFlitTx s = .next (s.setPort s.inp.port { x with slot21 := x.slot21 + 1 })) ∧
    (q ≠ [] → x.txMute = false → x.txStop.getLsbD v = false → (x.txSeq - x.txAck).toNat < 1023 →
      ∃ t f, exec .dataFlitTx s = .next t ∧ PortOnly s t ∧ t.out = .flit s.inp.port f :: s.out ∧
        f = mkFlit 0 x.txw.toNat x.txSeq.toNat (x.rxSeq - 1).toNat v ((q.take 15).findIdx? Prod.fst |>.getD 15)
          ((q.take 15).flatMap (fun u => leBytes 16 u.2.toNat)) ∧
        (portIn t).txSeq = x.txSeq + 1 ∧ (portIn t).replay = x.replay ++ [f] ∧ tget [] (portIn t).txq v = q.drop 15 ∧
        (portIn t).slot21 = x.slot21 + 1 ∧ ∀ u, u ≠ v → tget [] (portIn t).txq u = tget [] x.txq u)) ∧
  (∀ (s : State) (f : Flit) (fs : List Flit), (portIn s).state = .up → (portIn s).slot21 < 20 → (portIn s).resend = f :: fs →
    ∃ t g o, exec .dataFlitTx s = .next t ∧ PortOnly s t ∧ t.out = .flit s.inp.port g :: o ∧
      flitGood g = true ∧ flitSeq g = flitSeq f ∧ flitVc g = flitVc f ∧ flitUnits g = flitUnits f ∧
      flitW g = (portIn t).txw ∧ flitAck g = (portIn s).rxSeq - 1 ∧
      ((portIn s).order = none → o = s.out ∧
        portIn t = { portIn s with resend := fs, slot21 := (portIn s).slot21 + 1
                                   replay := (portIn s).replay.map (fun h => if flitSeq h == flitSeq f then g else h) }) ∧
      (∀ w, (portIn s).order = some w → if serialGe (flitSeq f) w.sw
        then (portIn t).order = none ∧ (portIn t).txw = w.width.code ∧ (portIn t).txset = w.set
        else (portIn t).order = some w ∧ (portIn t).txw = (portIn s).txw)) ∧
  (∀ (s : State) (w : WOrder), (portIn s).state = .up → (portIn s).slot21 < 20 → (portIn s).resend = [] →
    (portIn s).order = some w → tget [] (portIn s).txq s.inp.vc.toNat ≠ [] → (portIn s).txMute = false →
    (portIn s).txStop.getLsbD s.inp.vc.toNat = false → ((portIn s).txSeq - (portIn s).txAck).toNat < 1023 →
    ∃ t g o, exec .dataFlitTx s = .next t ∧ PortOnly s t ∧ t.out = .flit s.inp.port g :: o ∧ flitGood g = true ∧
      flitSeq g = (portIn s).txSeq ∧ flitW g = (portIn t).txw ∧
      if serialGe (portIn s).txSeq w.sw then (portIn t).order = none ∧ (portIn t).txw = w.width.code ∧ (portIn t).txset = w.set
      else (portIn t).order = some w ∧ (portIn t).txw = (portIn s).txw) ∧
  (∀ s : State, (portIn s).state = .up → (portIn s).slot21 = 20 →
    ∃ t f, exec .linkControlFlitTx s = .next t ∧ PortOnly s t ∧ t.out = .flit s.inp.port f :: s.out ∧
      let x := portIn s
      portIn t = { x with slot21 := 0 } ∧ flitGood f = true ∧ flitKind f = 1 ∧ flitW f = x.txw ∧ flitAck f = x.rxSeq - 1 ∧
      f.extractLsb' 64 8 = x.stopBits ∧
      (flitWord f 12 = match x.worder with
        | some o => 2 ^ 31 + o.width.code.toNat * 2 ^ 28 + o.set.toNat * 2 ^ 26 + o.sw.toNat
        | none => 0) ∧
      (∀ i, i < 7 → flitWord f (16 + 4 * i) = match x.preq[i]? with | some q => 2 ^ 31 + q.toNat | none => 0) ∧
      flitWord f 44 = match x.rresend with | some q => 2 ^ 31 + q.toNat | none => 0) ∧
  (∀ s : State, exec .controlFlitTimeout s = .next (s.setPort s.inp.port { portIn s with txMute := true })) ∧
  (∀ (s : State) (q : BitVec 20) (rest : List (BitVec 20)) (g : Flit), (portIn s).state = .up → (portIn s).slot21 < 20 →
    (portIn s).parReq = q :: rest → rest.contains q = false → rest.contains (q + 1) = false →
    (portIn s).replay.find? (fun h => flitSeq h == q) = some g →
    ∃ t f, exec .parityFlitTx s = .next t ∧ PortOnly s t ∧ t.out = .flit s.inp.port f :: s.out ∧
      portIn t = { portIn s with parReq := rest, slot21 := (portIn s).slot21 + 1 } ∧
      flitGood f = true ∧ flitKind f = 2 ∧ flitSeq f = q ∧ flitBits f 64 8 = 1 ∧
      ((flitBytes f 256).drop 16).take 32 = parityBlock g)

/-- Width, training and the port registers (R35, R37, R38, R40 to R43): a bad lane orders the widest good lane set or
takes the link down; a link that goes down keeps what is unacknowledged and sends it again after training; a watermark
write is taken whole, with the stop bit it gives, or not at all. What DISABLE does when set on a port and when cleared is
the model's choice (log 38). -/
def Obligations.LinkWidthsAndTraining : Prop :=
  (∀ s : State, (portIn s).state = .up →
    ∃ t, exec .laneBad s = .next t ∧ PortOnly s t ∧
      let x := portIn s
      let bad := x.lanebad ||| BitVec.ofNat 16 (2 ^ s.inp.lane.toNat)
      let pick := [(LinkWidth.w16, 0, 0xFFFF), (.w8, 0, 0x00FF), (.w8, 1, 0xFF00), (.w4, 0, 0x000F), (.w4, 1, 0x00F0),
        (.w4, 2, 0x0F00), (.w4, 3, 0xF000)].find? (fun (e : LinkWidth × Nat × Nat) =>
          decide ((if x.maxw = 0 then 1 else x.maxw.toNat) ≤ e.1.code.toNat) && bad &&& BitVec.ofNat 16 e.2.2 == 0)
      (portIn t).lanebad = bad ∧ (portIn t).event.getLsbD 0 = true ∧
      match pick with
      | some e => (portIn t).state = .up ∧ ∃ o, (portIn t).worder = some o ∧ o.width = e.1 ∧ o.set.toNat = e.2.1 ∧
          serialGe o.sw (x.rxHigh + 2) = true
      | none => (portIn t).state = .training ∧ (portIn t).event.getLsbD 2 = true) ∧
  (∀ s : State, (portIn s).state = .up → (portIn s).lanebad = 0 →
    let least := if (portIn s).maxw = 0 then 1 else (portIn s).maxw.toNat
    (s.inp.lwidth.code.toNat ≤ (portIn s).rxw.toNat ∨ s.inp.lwidth.code.toNat < least → exec .linkNarrowRequest s = .next s) ∧
    ((portIn s).rxw.toNat < s.inp.lwidth.code.toNat → least ≤ s.inp.lwidth.code.toNat →
      ∃ t o, exec .linkNarrowRequest s = .next t ∧ PortOnly s t ∧
        portIn t = { portIn s with worder := some o, older := (portIn s).older ++ (portIn s).worder.toList } ∧
        o.width = s.inp.lwidth ∧ o.set = 0 ∧ serialGe o.sw ((portIn s).rxHigh + 2) = true)) ∧
  (∀ s : State, (portIn s).state = .up → s.inp.flag = true →
    ∃ t o, exec .ezlWiden s = .next t ∧ PortOnly s t ∧
      portIn t = { portIn s with lanebad := 0, worder := some o, older := (portIn s).older ++ (portIn s).worder.toList } ∧
      o.width = widthOf (portIn s).maxw ∧ o.set = 0 ∧ serialGe o.sw ((portIn s).rxHigh + 2) = true) ∧
  (∀ s : State, (portIn s).state = .up →
    ∃ t, exec .linkIdleTimeout s = .next t ∧ PortOnly s t ∧ (portIn t).state = .training ∧ (portIn t).event.getLsbD 2 = true ∧
      counter (portIn t) 7 = plusOne (counter (portIn s) 7) ∧ (portIn t).replay = (portIn s).replay ∧
      (portIn t).txSeq = (portIn s).txSeq ∧ (portIn t).rxSeq = (portIn s).rxSeq ∧ (portIn t).rxbuf = (portIn s).rxbuf ∧
      ((portIn s).disable = false → exec .ezlRetrain s = .next t)) ∧
  (∀ s : State, (portIn s).disable = true ∨ (portIn s).state = .training → exec .ezlRetrain s = .next s) ∧
  (∀ s : State, (portIn s).disable = false → (portIn s).state ≠ .up →
    ∃ t, exec .ezlRetrain s = .next t ∧ PortOnly s t ∧ t.out = s.out ∧ (portIn t).state = .training ∧
      (portIn t).event = (portIn s).event ∧ (portIn t).cnt = (portIn s).cnt ∧ (portIn t).replay = (portIn s).replay) ∧
  (∀ s : State, (portIn s).state = .training →
    ∃ t, exec .linkRetrainDone s = .next t ∧ PortOnly s t ∧ (portIn t).state = .up ∧ (portIn t).resend = (portIn s).replay ∧
      (portIn t).replay = (portIn s).replay ∧ (portIn t).txSeq = (portIn s).txSeq ∧ (portIn t).rxSeq = (portIn s).rxSeq ∧
      (portIn t).lanebad = 0 ∧ (portIn t).txw = s.inp.lwidth.code ∧ (portIn t).rxw = s.inp.lwidth.code) ∧
  (∀ s : State, (portIn s).state = .training →
    ∃ t, exec .linkFail s = .next t ∧ (portIn t).event.getLsbD 3 = true ∧
      ((∀ x ∈ s.streams, x.port ≠ some s.inp.port) → (portIn s).kept = [] →
        PortOnly s t ∧ (portIn t).state = .failed ∧ (portIn t).replay = [] ∧ (portIn t).txSeq = 0)) ∧
  (∀ s : State, (portIn s).disable = false → s.inp.flag = true →
    (∀ x ∈ s.streams, x.port ≠ some s.inp.port) → (portIn s).kept = [] →
    ∃ t, exec .ezlDisable s = .next t ∧ (portIn t).disable = true ∧ (portIn t).state = .failed ∧
      t = { s with ports := t.ports, out := t.out }) ∧
  (∀ s : State, (portIn s).disable = true → s.inp.flag = false →
    exec .ezlDisable s = .next (s.setPort s.inp.port { portIn s with disable := false, state := .training })) ∧
  (∀ s : State, (portIn s).disable = s.inp.flag → exec .ezlDisable s = .next s) ∧
  (∀ s : State, ∃ t, exec .ezlWmarkWrite s = .next t ∧ PortOnly s t ∧
    let hi := (s.inp.v.extractLsb' 16 11).toNat
    let lo := (s.inp.v.extractLsb' 0 11).toNat
    if lo < hi ∧ hi ≤ 1024 then
      tget 512 (portIn t).high s.inp.vc.toNat = hi ∧ tget 256 (portIn t).low s.inp.vc.toNat = lo ∧
      (portIn t).event = (portIn s).event ∧
      ((portIn s).fullHold = none → (portIn t).stopBits.getLsbD s.inp.vc.toNat =
        let n := (portIn s).occ s.inp.vc.toNat
        if hi ≤ n then true else if n ≤ lo then false else (portIn s).stopBits.getLsbD s.inp.vc.toNat)
    else (portIn t).high = (portIn s).high ∧ (portIn t).low = (portIn s).low ∧ (portIn t).event = (portIn s).event ||| 16) ∧
  (∀ s : State, ∃ t, exec .ezlClear s = .next t ∧ PortOnly s t ∧
    ∀ i, i < 8 → counter (portIn t) i = if s.inp.v.getLsbD i then 0 else counter (portIn s) i)

/-- Requests that reach this device's memory (R46, R53, R59, R60, R426, R456): READ answers the bytes, WRITE and POSTED
write them, ATOMIC answers the old value and leaves the new one, FSIG stores and then adds to its latch; a page in transit
freezes the stream, what comes of a frozen or listed stream is refused too, and an offset no partition has is refused. -/
def Obligations.MemoryRequestsAreServed : Prop :=
  (∀ (s : State) (f pa : Nat), Arrived s oREAD → Homed s f → s.inp.pkt.scope ≠ 4 → s.poison = [] → s.weak = [] →
    InHbm s f s.inp.pkt.off (s.inp.pkt.opx.toNat % 256 + 1) pa →
    ∃ t, exec .readReq s = .next t ∧ Answers s s t 0 (bytesAt s.mem pa (s.inp.pkt.opx.toNat % 256 + 1))) ∧
  (∀ (i : Instr) (s : State) (f pa : Nat) (bs : List Byte),
    (i = .writeReq ∧ Arrived s oWRITE) ∨ (i = .postedReq ∧ Arrived s oPOSTED) → Homed s f → s.inp.pkt.scope ≠ 4 →
    InHbm s f s.inp.pkt.off (s.inp.pkt.opx.toNat % 256 + 1) pa →
    bs = leBytes (s.inp.pkt.opx.toNat % 256 + 1) (leNat s.inp.pkt.data) →
    ∃ t m, exec i s = .next t ∧ Answers s m t 0 [] ∧ MemOnly s m ∧ WroteAt s.mem m.mem pa bs ∧
      tget false m.dirty (pa / 4096) = true) ∧
  (∀ (s : State) (f pa size : Nat), Arrived s oATOMIC → Homed s f → s.poison = [] → s.weak = [] → s.sync = [] →
    2 ≤ s.inp.pkt.opx.toNat / 256 → size = (if s.inp.pkt.opx.toNat / 256 = 2 then 4 else 8) →
    let a := s.inp.pkt.opx.toNat % 256
    0x40 ≤ a → a ≤ 0x5B → a ≠ 0x4E → a ≠ 0x4F → InHbm s f s.inp.pkt.off size pa →
    ∃ t m, exec .atomicReq s = .next t ∧ Answers s m t 0 (leBytes 16 (numAt s.mem pa size)) ∧
      WroteAt s.mem m.mem pa (leBytes size (atomNew (BitVec.ofNat 8 a) size (numAt s.mem pa size)
        (s.inp.pkt.w3.toNat % 2 ^ (8 * size)) (leNat (s.inp.pkt.data.take 8) % 2 ^ (8 * size)))) ∧
      m.groups = s.groups ∧ m.funcs = s.funcs) ∧
  (∀ (s : State) (f n pa pl : Nat), Arrived s oFSIG → Homed s f → s.poison = [] → s.weak = [] → s.sync = [] →
    n = (if s.inp.pkt.opx.getLsbD 1 then 8 else 4) → InHbm s f s.inp.pkt.off n pa →
    InHbm s f (s.inp.pkt.w3.toNat % 2 ^ 44) 8 pl → (pa + n ≤ pl ∨ pl + 8 ≤ pa) →
    ∃ t m, exec .fsigReq s = .next t ∧ Answers s m t 0 [] ∧ m.groups = s.groups ∧ m.funcs = s.funcs ∧
      numAt m.mem pl 8 = (numAt s.mem pl 8 + leNat ((s.inp.pkt.data.drop 8).take 8)) % 2 ^ 64 ∧
      numAt m.mem pa n = (if s.inp.pkt.opx.getLsbD 0 then numAt s.mem pa n else leNat (s.inp.pkt.data.take 8) % 256 ^ n) ∧
      ∀ a, (a < pa ∨ pa + n ≤ a) → (a < pl ∨ pl + 8 ≤ a) → byteAt m.mem a = byteAt s.mem a) ∧
  (∀ (s : State) (f : Nat), Arrived s oREAD → Homed s f → (s.func f).quota * 2 ^ 29 ≤ s.inp.pkt.off →
    s.inp.pkt.off < 0xF0000000000 → ∃ t, exec .readReq s = .next t ∧ Answers s s t 4 []) ∧
  (∀ (s : State) (f : Nat) (z : TFreeze), Arrived s oREAD → Homed s f →
    s.inp.pkt.off % 65536 + s.inp.pkt.opx.toNat % 256 + 1 ≤ 65536 →
    s.inp.pkt.off + s.inp.pkt.opx.toNat % 256 + 1 ≤ (s.func f).quota * 2 ^ 29 →
    plV (s.placeEntry 0 f (s.inp.pkt.off / 65536)) = true → plTransit (s.placeEntry 0 f (s.inp.pkt.off / 65536)) = true →
    z = { sid := s.inp.pkt.sid, vdn := BitVec.ofNat 16 s.inp.pkt.vdn, sseq := s.inp.pkt.sseq, sclu := s.inp.pkt.sclu, func := f
          page := s.inp.pkt.off / 65536, hi := s.inp.pkt.sseq } →
    ∃ t, exec .readReq s = .next t ∧
      if 0 < Config.freezeRoom then Answers s { s with tfreezes := [z] } t 2 []
      else Answers s { s with retries := [s.inp.pkt.sid] } t 0x82 []) ∧
  (∀ (i : Instr) (op : BitVec 6) (s : State) (f : Nat), AtHome s f → Arrived s op →
    (i, op) ∈ [(Instr.readReq, oREAD), (.writeReq, oWRITE), (.postedReq, oPOSTED), (.atomicReq, oATOMIC), (.fsigReq, oFSIG)] →
    (∀ z, s.tfreezes = [z] → z.sid = s.inp.pkt.sid → z.vdn.toNat = s.inp.pkt.vdn → z.resumed = false →
      ∃ t, exec i s = .next t ∧
        Answers s { s with tfreezes := [{ z with hi := if after16 s.inp.pkt.sseq z.hi then s.inp.pkt.sseq else z.hi }] } t 2 []) ∧
    (s.tfreezes = [] → s.inp.pkt.sid ∈ s.retries → s.inp.pkt.resend = false → ∃ t, exec i s = .next t ∧ Answers s s t 0x82 []))

/-- Requests of other kinds, and messages (R44, R52, R69, R155, R475): configuration and MMIO requests are served by the
function they name, host requests by the bridge alone; collective signals and stream bytes are kept and answered; a record
goes to the host, and a packet of an unassigned operation is dropped and counted. -/
def Obligations.OtherRequestsAreServed : Prop :=
  (∀ s : State, Arrived s oCFGRD → ∃ t, exec .cfgrd s = .next t ∧
    let f := bits s.inp.pkt.off 12 6
    if s.present f then Answers s s t 0 (leBytes 4 (s.cfgRead f (bits s.inp.pkt.off 0 12 / 4)).toNat) else Answers s s t 3 []) ∧
  (∀ s : State, Arrived s oCFGWR → ∃ t, exec .cfgwr s = .next t ∧
    let f := bits s.inp.pkt.off 12 6
    let i := bits s.inp.pkt.off 0 12 / 4
    if s.present f then
      Answers s (s.cfgWrite f i (BitVec.ofNat 32 (leNat s.inp.pkt.data)) (BitVec.ofNat 4 (bits (leNat s.inp.pkt.data) 32 4))) t 0 []
    else Answers s s t 3 []) ∧
  (∀ s : State, Arrived s oMMIORD → ∃ t, exec .mmiord s = .next t ∧
    match s.barRead (bits s.inp.pkt.off 38 6) (bits s.inp.pkt.off 36 2) (bits s.inp.pkt.off 0 28) (s.inp.pkt.w3.toNat % 16) with
    | some b => Answers s s t 0 b
    | none => Answers s s t 3 []) ∧
  (∀ s : State, Arrived s oMMIOWR → ∃ t, exec .mmiowr s = .next t ∧
    match s.barWrite (bits s.inp.pkt.off 38 6) (bits s.inp.pkt.off 36 2) (bits s.inp.pkt.off 0 28)
      (leBytes (s.inp.pkt.w3.toNat % 16) (leNat s.inp.pkt.data)) with
    | some m => Answers s m t 0 []
    | none => Answers s s t 3 []) ∧
  (∀ s : State, Arrived s oHOSTRD → ∃ t, exec .hostrd s = .next t ∧
    if s.boot.bridge then Answers s s t 0 (leBytes (s.inp.pkt.opx.toNat % 256 + 1) (leNat s.inp.bytes)) else Answers s s t 3 []) ∧
  (∀ s : State, Arrived s oHOSTWR → ∃ t, exec .hostwr s = .next t ∧
    if s.boot.bridge then
      Answers s (s.emit (.hostWrite s.inp.pkt.w3 (leBytes (s.inp.pkt.opx.toNat % 256 + 1) (leNat s.inp.pkt.data)))) t 0 []
    else Answers s s t 3 []) ∧
  (∀ (s : State) (f : Nat), Arrived s oCBEGUN → Homed s f → s.mig.inFunc ≠ some f → s.keys = [] →
    s.begunSeen.contains (f, s.inp.pkt.w3.extractLsb' 32 32) = false →
    ∃ t, exec .cbegun s = .next t ∧ t.begunSeen = s.begunSeen ++ [(f, s.inp.pkt.w3.extractLsb' 32 32)] ∧ t.groups = s.groups ∧
      t.mem = s.mem) ∧
  (∀ (s : State) (f : Nat), Arrived s oCDATA → Homed s f → s.mig.inFunc ≠ some f → s.keys = [] → s.earlySegs = [] →
    (s.func f).passed = none →
    ∃ t, exec .cdata s = .next t ∧ t.groups = s.groups ∧ t.mem = s.mem ∧
      t.earlySegs = [(f, s.inp.pkt.w3.extractLsb' 32 32, bits s.inp.pkt.w3.toNat 16 16, s.inp.pkt.w3.toNat % 65536,
        bytesWords (4 * s.inp.pkt.len.toNat) s.inp.pkt.data)]) ∧
  (∀ (s : State) (f : Nat), Arrived s oMSTREAM → Homed s 0 → s.mig.inFunc = some f → s.mig.inEnd = false →
    s.inp.pkt.w3.toNat % 64 = f → s.mig.inAhead = [] → s.mig.inBytes = [] → s.mig.inPos < 2 ^ 44 →
    (s.mig.inPos < s.inp.pkt.off →
      ∃ t, exec .mstream s = .next t ∧
        Answers s { s with mig := { s.mig with inAhead := [(s.inp.pkt.off, s.inp.pkt.data)] } } t 0 []) ∧
    (s.mig.inPos = s.inp.pkt.off → 0 < s.inp.pkt.data.length → s.inp.pkt.data.length < 8 →
      ∃ t, exec .mstream s = .next t ∧
        Answers s { s with mig := { s.mig with
          inPos := s.mig.inPos + s.inp.pkt.data.length, inBytes := s.inp.pkt.data } } t 0 [])) ∧
  (∀ s : State, Arrived s oEVREC → ∃ t, exec .evrec s = .next t ∧
    TakenFrom s (s.emit (.evrec .pf0 s.inp.pkt)) t) ∧
  (∀ s : State, Arrived s oHMSG → s.inp.pkt.w3.toNat % 256 = 0x23 → s.mig.dir = 1 → s.mig.phase = 0 →
    s.inp.pkt.svdn = s.mig.dest → s.inp.pkt.w3.toNat / 256 % 64 = s.mig.func →
    ∃ t, exec .hmsg s = .next t ∧ t.mig = { s.mig with phase := 1 } ∧ t.mail.done = true ∧ t.groups = s.groups) ∧
  (∀ s : State, opKnown s.inp.pkt.op = false → (∀ v, v < 8 → s.atHead s.inp.port v s.inp.pkt = decide (v = 0)) →
    ∃ t m, exec .packetUnknownOp s = .next t ∧ m = s.dropUnits s.inp.port 0 (packetUnits s.inp.pkt).length ∧ PortOnly s t ∧
      portIn t = { portIn m with cnt := tput 0 (portIn m).cnt 5 (plusOne (counter (portIn m) 5)) })

/-- Responses and freezes at a source (R53, R59 to R61, R67): an OK completes its request with the data, RFAULT and RETRY
stop the stream, RESUME sends what it holds, ABORT and 50 ms end it, a retry marks its first request, and a request that
waited for its VDN goes; freezes recorded for a page end when its condition clears, or with ABORT where it is permanent. That
a freeze's record stays until its stream goes on is the model's choice (log 39). -/
def Obligations.StreamsAtTheSource : Prop :=
  (∀ (s : State) (x : Stream) (q : Packet) (o : TxnOwner), s.streams = [x] → x.sid = s.inp.pkt.rsid → x.vdn = s.inp.pkt.svdn →
    x.out = [(q, o)] → x.queue = [] → x.freeze = none → q.sseq = s.inp.pkt.sseq → Quiet s →
    (match o with | .fill .. => s.l2Room (q.daddr.toNat / 32) = s | _ => True) →
    (∀ i op, (i = .rdata ∧ op = oRDATA) ∨ (i = .rack ∧ op = oRACK) → Arrived s op →
      (s.inp.pkt.status = 0 →
        ∃ t m, exec i s = .next t ∧ TakenFrom s m t ∧ (m.stream x.sid x.vdn).out = [] ∧
          m.groups = (s.finish o q 0 (leBytes (respBytes q) (leNat s.inp.pkt.data))).groups ∧
          m.l2 = (s.finish o q 0 (leBytes (respBytes q) (leNat s.inp.pkt.data))).l2) ∧
      (s.inp.pkt.status = 2 →
        ∃ t, exec i s = .next t ∧
          TakenFrom s { s with streams := [{ x with out := [], queue := [(q, o)], freeze := some (.rfault q.sseq) }] } t) ∧
      (s.inp.pkt.status = 0x82 →
        ∃ t, exec i s = .next t ∧
          TakenFrom s { s with streams := [{ x with out := [], queue := [(q, o)], freeze := some (.retry q.sseq) }] } t) ∧
      (s.inp.pkt.status = 1 →
        ∃ t, exec i s = .next t ∧
          TakenFrom s { s with streams := [{ x with out := [], queue := [(q, o)], freeze := some (.moved s.inp.pkt.epoch) }] } t))) ∧
  (∀ (s : State) (c p id lane n : Nat) (a : Access) (x : LanePart) (q : Packet) (data : List Byte),
    (s.group c p).acc = [a] → a.id = id → a.op = .load → a.parts = [x] → x.lane = lane → isS a.dest = false → a.bytes = 4 →
    n = a.dest.toNat →
    ((s.finish (.lane c p id lane) q 0 data).group c p).vget n lane = BitVec.ofNat 32 (leNat data) ∧
    ((s.finish (.lane c p id lane) q 0 data).group c p).acc = [] ∧
    ((s.finish (.lane c p id lane) q 0 data).group c p).ld = (s.group c p).ld - 1) ∧
  (∀ (s : State) (x : Stream) (q : Packet) (o : TxnOwner) (port : Nat), Arrived s oRESUME → s.incoming s.inp.pkt.vdn = false →
    s.streams = [x] → x.sid = s.inp.pkt.rsid → x.vdn = s.inp.pkt.svdn → x.out = [] → x.queue = [(q, o)] →
    x.freeze = some (.rfault s.inp.pkt.sseq) → Routed s o x.vdn port → Quiet s →
    ∃ t m, exec .resumeMsg s = .next t ∧ TakenFrom s m t ∧ Sent s m x.sid x.vdn port q o ∧ m.groups = s.groups) ∧
  (∀ (s : State) (x : Stream) (q : Packet) (o : TxnOwner) (z : BitVec 16), s.streams = [x] → x.out = [] → x.queue = [(q, o)] →
    x.freeze = some (.rfault z) → s.savedTeams = [] → Quiet s →
    (Arrived s oABORT → s.incoming s.inp.pkt.vdn = false → x.sid = s.inp.pkt.rsid → x.vdn = s.inp.pkt.svdn → z = s.inp.pkt.sseq →
      ∃ t m, exec .abortMsg s = .next t ∧ TakenFrom s m t ∧ (m.stream x.sid x.vdn).queue = [] ∧
        (m.stream x.sid x.vdn).freeze = none ∧ m.groups = (s.finish o q 7 []).groups) ∧
    (x.sid = s.inp.sid → x.vdn = s.inp.vdn →
      ∃ t, exec .streamFreezeTimeout s = .next t ∧ (t.stream x.sid x.vdn).queue = [] ∧ (t.stream x.sid x.vdn).freeze = none ∧
        t.groups = (s.finish o q 7 []).groups)) ∧
  (∀ s : State, s.incoming s.inp.pkt.vdn = true → ∀ i op, (i = .resumeMsg ∧ op = oRESUME) ∨ (i = .abortMsg ∧ op = oABORT) →
    Arrived s op → ∃ t, exec i s = .next t ∧ TakenFrom s { s with heldColl := s.heldColl ++ [s.inp.pkt] } t) ∧
  (∀ (s : State) (x : Stream) (q : Packet) (o : TxnOwner) (z : BitVec 16) (port : Nat), s.streams = [x] → x.sid = s.inp.sid →
    x.vdn = s.inp.vdn → x.out = [] → x.queue = [(q, o)] → x.freeze = some (.retry z) → Routed s o x.vdn port →
    ∃ t, exec .rfaultRetryResend s = .next t ∧ Sent s t x.sid x.vdn port { q with resend := true } o ∧ t.groups = s.groups) ∧
  (∀ (s : State) (x : Stream) (q : Packet) (o : TxnOwner) (port : Nat), s.streams = [x] → x.vdn = s.inp.vdn → x.out = [] →
    x.queue = [(q, o)] → x.freeze = none → s.waitVdn = [] → vtHold (tget 0 s.vdnTab x.vdn.toNat) = false → Routed s o x.vdn port →
    Quiet s → ∃ t, exec .heldRequestSend s = .next t ∧ Sent s t x.sid x.vdn port q o ∧ t.groups = s.groups) ∧
  (∀ (s : State) (z : TFreeze), s.tfreezes = [z] → z.func = s.inp.func → z.page = s.inp.page → z.resumed = false →
    let e := tget 0 (s.func s.inp.func).place s.inp.page
    let m := { s with tfreezes := [{ z with resumed := true }] }
    (plWp e = true ∨ plTransit e = true ∨ s.tierOf s.inp.func s.inp.page ≠ none → exec .freezeConditionClear s = .next s) ∧
    (plWp e = false → plTransit e = false → s.tierOf s.inp.func s.inp.page = none → s.owed = [] →
      exec .freezeConditionClear s = .next (m.sendMsg 1 (freezeEnd z false))) ∧
    exec .freezeConditionPermanent s = .next (m.sendMsg 1 (freezeEnd z true)))

/-- Updates of a VDN (R65, R66, R162): an update from Hasp's source puts the entry on HOLD until every stream is drained,
then the new entry stands and is acknowledged; a repeat is acknowledged again; one from elsewhere is discarded and recorded;
the old home's acknowledgement lets the new home update its own entry as any is, and the other members be told; those missing
are asked again; a closed window turns away what it still held, and ends a migration that only waited for it. The register a
stray update's record names is the model's choice (log 44). -/
def Obligations.VdnUpdates : Prop :=
  (∀ (s : State) (e : BitVec 128), tget [] (portIn s).rxbuf 7 = [] → s.loop = [] → s.mig.dir = 0 → s.vdnUpds = [] →
    s.partOf s.inp.upd.vdn.toNat = none →
    (s.inp.upd.src = s.haspSrc → tget 0 s.vdnTab s.inp.upd.vdn.toNat ≠ vtSetHold s.inp.upd.entry false →
      e = vtSetHold (tget 0 s.vdnTab s.inp.upd.vdn.toNat) true →
      ∃ t, exec .vdnUpdate s = .next t ∧ vtHold e = true ∧
        t = { s with vdnTab := tput 0 s.vdnTab s.inp.upd.vdn.toNat e
                     vdnUpds := [{ vdn := s.inp.upd.vdn, entry := vtSetHold s.inp.upd.entry false, src := s.inp.upd.src }] }) ∧
    (s.inp.upd.src = s.haspSrc → tget 0 s.vdnTab s.inp.upd.vdn.toNat = vtSetHold s.inp.upd.entry false →
      exec .vdnUpdate s = .next (s.ackVdn
        { vdn := s.inp.upd.vdn, entry := vtSetHold s.inp.upd.entry false, src := s.inp.upd.src } 0)) ∧
    (s.inp.upd.src ≠ s.haspSrc → exec .vdnUpdate s = .next (s.record 0x170010 (s.mig.event.setWidth 32)))) ∧
  (∀ (s : State) (u : VdnUpd), s.vdnUpds = [u] → u.vdn = s.inp.vdn → u.own = false →
    ((∃ x ∈ s.streams, x.vdn = u.vdn ∧ x.out ≠ []) → exec .vdnDrainComplete s = .next s) ∧
    (s.streams = [] → s.waitVdn = [] → vtHold u.entry = false → Quiet s →
      ∃ t, exec .vdnDrainComplete s = .next t ∧ t.vdnUpds = [] ∧ t.vdnTab = tput 0 s.vdnTab u.vdn.toNat u.entry ∧
        t.groups = s.groups ∧ t.streams = [] ∧
        t.mig = { s.mig with switched := s.mig.switched || (decide (s.mig.dir = 1) && decide ((s.func s.mig.func).vdn = u.vdn) &&
          (s.func s.mig.func).part && !vtSelf u.entry) })) ∧
  (∀ (s : State) (o : VdnOut), tget [] (portIn s).rxbuf 7 = [] → s.loop = [] → s.vdnOut = [o] → o.vdn = s.inp.vdn →
    s.inp.epoch = vtEpoch o.entry →
    (o.first = none → s.inp.status = 0 → s.inp.dev ∈ o.wait → o.wait.filter (fun d => d != s.inp.dev) ≠ [] →
      exec .vdnAck s = .next { s with vdnOut := [{ o with wait := o.wait.filter (fun d => d != s.inp.dev) }] }) ∧
    (o.first = none → s.inp.status = 0 → o.wait = [s.inp.dev] → o.ownDone = true → s.mig.inFunc = none →
      exec .vdnAck s = .next { s with vdnOut := [] }) ∧
    (o.first = some s.inp.dev → s.inp.status ≠ 0 → s.mig.inFunc = none → exec .vdnAck s = .next { s with vdnOut := [] }) ∧
    (o.first = some s.inp.dev → s.inp.status = 0 → s.vdnUpds = [] → (∃ x ∈ s.streams, x.vdn = o.vdn ∧ x.out ≠ []) →
      ∃ t, exec .vdnAck s = .next t ∧ t.vdnOut = [{ o with first := none, wait := o.later, later := [] }] ∧
        vtHold (tget 0 t.vdnTab o.vdn.toNat) = true ∧
        t.vdnUpds = [{ vdn := o.vdn, entry := o.entry ||| BitVec.ofNat 128 (2 ^ 62), src := s.inp.dev, own := true }]) ∧
    (o.first = some s.inp.dev → s.inp.status = 0 → s.vdnUpds = [] → s.streams = [] → o.later ≠ [] → s.mig.inFunc = none → Quiet s →
      ∃ t, exec .vdnAck s = .next t ∧ t.vdnUpds = [] ∧
        t.vdnOut = [{ o with first := none, wait := o.later, later := [], ownDone := true }] ∧
        tget 0 t.vdnTab o.vdn.toNat = o.entry ||| BitVec.ofNat 128 (2 ^ 62))) ∧
  (∀ (s : State) (o : VdnOut) (d : BitVec 16), s.vdnOut = [o] → o.vdn = s.inp.vdn →
    (o.first = some d ∨ (o.first = none ∧ o.wait = [d])) →
    exec .vdnUpdateRepeat s = .next (s.sendMsg 7 (s.updatePacket d o.vdn o.entry))) ∧
  (∀ (s : State) (q : Packet), s.fwdWin = [s.inp.vdn] → s.holdq = [q] → q.vdn = s.inp.vdn.toNat →
    ∃ t, exec .forwardWindowExpire s = .next t ∧
      (¬(s.mig.dir = 1 ∧ s.mig.phase = 8) →
        t = { s with fwdWin := [], holdq := [] }.respond (respTo q 1 (vtEpoch (s.newEntry s.inp.vdn)) [] false)) ∧
      (s.mig.dir = 1 → s.mig.phase = 8 → t = { s with fwdWin := [], holdq := [], mig := { s.mig with dir := 0, phase := 0 } }.respond
        (respTo q 1 (vtEpoch (s.newEntry s.inp.vdn)) [] false)))

/-- The primary and standby sequencer (R73, R74, R77 to R79, R85 to R89, R93): a first registration takes NEXT and is
mirrored before it is revealed; a number starts, is voided or retires by the first message that moves it; a later term ends
a primary; a standby records what is mirrored and takes over with the next term. -/
def Obligations.SequencerMoves : Prop :=
  (∀ (s : State) (r : Nat), Primary s → s.rankOf s.inp.msg.comm s.inp.msg.svdn = some r → s.seq.nums = [] → s.seq.waiting = [] →
    ∃ t, exec .seqReg s = .next t ∧ t.seq.next = s.seq.next + 1 ∧ t.groups = s.groups ∧
      ∃ n, t.seq.nums = [n] ∧ n.num = s.seq.next ∧ n.comm = s.inp.msg.comm ∧ n.tag = s.inp.msg.tag ∧ n.st = .assigned ∧
        (s.seq.alone = false → n.pend = [(.assign, s.inp.msg.svdn, false)] ∧
          (0x19, { svdn := (s.func 0).vdn, dvdn := s.seq.peer, term := s.seq.term, comm := n.comm, tag := n.tag, num := n.num
                   result := 0x10 }) ∈ t.unanswered ∧
          ∀ m, (0x11, m) ∈ t.unanswered → (0x11, m) ∈ s.unanswered) ∧
        (s.seq.alone = true → n.pend = [] ∧ ∀ v ∈ s.membersOf n.comm, ∃ m, (0x11, m) ∈ t.unanswered ∧ m.dvdn = v ∧
          m.num = n.num ∧ m.result = 0 ∧ (m.first = true ↔ tget none s.seq.last v.toNat = none) ∧
          ∀ z, tget none s.seq.last v.toNat = some z → m.prev = z)) ∧
  (∀ (i : Instr) (s : State), (i = .seqReg ∨ i = .seqAack ∨ i = .seqBegin ∨ i = .seqCancel ∨ i = .seqRetire ∨ i = .seqMack ∨
      i = .seqMirror ∨ i = .seqBeat) →
    NoVc5 s → s.seq.role = 1 → after16 s.inp.msg.term s.seq.term = true →
    ∃ t, exec i s = .next t ∧ t.seq = { s.seq with role := 0, event := t.seq.event } ∧ t.seq.event.getLsbD 1 = true ∧
      t.unanswered = s.unanswered.filter (fun e => e.1 != 0x11 && e.1 != 0x19)) ∧
  (∀ (s : State) (n : SeqNum) (r : Nat), Primary s → s.seq.nums = [n] → n.num = s.inp.msg.num → s.rankOf n.comm s.inp.msg.svdn = some r →
    s.inp.msg.result = 0 → n.aacks.contains r = false →
    ∃ t, exec .seqAack s = .next t ∧ t.seq = { s.seq with nums := [{ n with aacks := r :: n.aacks }] } ∧
      ∀ m, (0x11, m) ∈ t.unanswered → ¬(m.num = n.num ∧ m.dvdn = s.inp.msg.svdn ∧ m.result = 0)) ∧
  (∀ (s : State) (n : SeqNum) (r : Nat), Primary s → s.seq.nums = [n] → n.num = s.inp.msg.num → s.rankOf n.comm s.inp.msg.svdn = some r →
    n.pend = [] →
    (n.st = .assigned → s.seq.waiting = [] →
      ∃ t, exec .seqBegin s = .next t ∧
        (s.seq.alone = false → t.seq = { s.seq with nums := [{ n with pend := [(.start, s.inp.msg.svdn, false)] }] }) ∧
        (s.seq.alone = true → t.seq = { s.seq with nums := [{ n with st := .started }] })) ∧
    (n.st = .started → exec .seqBegin s = .next (s.seqOut 0x14 s.inp.msg.svdn { num := n.num, result := 0 })) ∧
    (n.st = .voided → exec .seqBegin s = .next (s.seqOut 0x14 s.inp.msg.svdn { num := n.num, result := 1 }))) ∧
  (∀ (s : State) (n : SeqNum) (r : Nat), Primary s → s.seq.nums = [n] → n.comm = s.inp.msg.comm → n.tag = s.inp.msg.tag →
    s.rankOf n.comm s.inp.msg.svdn = some r → n.pend = [] →
    (n.st = .assigned → s.seq.waiting = [] →
      ∃ t, exec .seqCancel s = .next t ∧
        (s.seq.alone = false → t.seq = { s.seq with nums := [{ n with pend := [(.void_, s.inp.msg.svdn, false)] }] }) ∧
        (s.seq.alone = true → t.seq = { s.seq with nums := [{ n with st := .voided, shown := true }] })) ∧
    (n.st = .started → exec .seqCancel s =
      .next (s.seqOut 0x16 s.inp.msg.svdn { comm := n.comm, tag := n.tag, num := n.num, result := 2 })) ∧
    (n.st = .voided → exec .seqCancel s =
      .next (s.seqOut 0x16 s.inp.msg.svdn { comm := n.comm, tag := n.tag, num := n.num, result := 0 }))) ∧
  (∀ (s : State) (n : SeqNum) (r : Nat), Primary s → s.seq.nums = [n] → n.num = s.inp.msg.num → s.rankOf n.comm s.inp.msg.svdn = some r →
    n.st = .started → n.pend = [] → n.retires.contains r = false → s.seq.waiting = [] →
    ∃ t, exec .seqRetire s = .next t ∧
      (n.retires.length + 1 < (s.membersOf n.comm).length → t.seq = { s.seq with nums := [{ n with retires := r :: n.retires }] }) ∧
      ((s.membersOf n.comm).length ≤ n.retires.length + 1 → s.seq.alone = true → t.seq = { s.seq with nums := [] })) ∧
  (∀ s : State, Primary s → s.seq.nums = [] → exec .seqRetire s = .next (s.seqOut 0x18 s.inp.msg.svdn { num := s.inp.msg.num })) ∧
  (∀ (s : State) (n : SeqNum) (dest : BitVec 16), Primary s → s.seq.nums = [n] → n.num = s.inp.msg.num →
    n.pend = [(.start, dest, false)] → s.inp.msg.result = 0x12 → s.seq.waiting = [] →
    ∃ t, exec .seqMack s = .next t ∧ t.seq = { s.seq with nums := [{ n with pend := [], st := .started }] } ∧ SendsOnly { s with seq := t.seq } t) ∧
  (∀ s : State, NoVc5 s → s.seq.role = 2 → s.inp.msg.result = 0x10 → s.seq.nums = [] → s.inp.msg.num ∉ s.seq.gone →
    ∃ t, exec .seqMirror s = .next t ∧ t.seq.term = s.inp.msg.term ∧
      t.seq.next = (if after32 (s.inp.msg.num + 1) s.seq.next then s.inp.msg.num + 1 else s.seq.next) ∧
      SendsOnly { s with seq := t.seq } t ∧
      ∃ n, t.seq.nums = [n] ∧ n.num = s.inp.msg.num ∧ n.comm = s.inp.msg.comm ∧ n.tag = s.inp.msg.tag ∧ n.st = .assigned ∧ n.pend = []) ∧
  (∀ (s : State) (n : SeqNum), NoVc5 s → s.seq.role = 2 → s.seq.nums = [n] → n.num = s.inp.msg.num →
    ∃ t, exec .seqMirror s = .next t ∧ SendsOnly { s with seq := t.seq } t ∧
      (s.inp.msg.result = 0x10 → t.seq = { s.seq with term := s.inp.msg.term }) ∧
      (s.inp.msg.result = 0x11 → t.seq = { s.seq with term := s.inp.msg.term, nums := [{ n with st := .voided }] }) ∧
      (s.inp.msg.result = 0x12 → t.seq = { s.seq with term := s.inp.msg.term, nums := [{ n with st := .started }] }) ∧
      (s.inp.msg.result = 0x13 → t.seq = { s.seq with term := s.inp.msg.term, nums := [], gone := n.num :: s.seq.gone })) ∧
  (∀ (op : Byte) (b : Bool) (m : SeqMsg), seqMsgOf (seqPacket op b m) = m) ∧
  (∀ (s : State) (q : Packet) (n : Nat), s.boot.halt ≠ .fatal → s.holdq = [] → s.loop = [] → s.homeHold = [] → s.fwdWin = [] →
    s.mig.inFunc = none → (portIn s).headPacket 5 = some (q, n) → s.seq.role = 2 →
    (q.op = 0x1B → ∃ t, exec .seqBeat s = .next t ∧ t.seq = { s.seq with term := (seqMsgOf q).term, next := (seqMsgOf q).num } ∧
      t = { s.dropUnits s.inp.port 5 n with seq := t.seq }) ∧
    (q.op ≠ 0x1B → exec .seqBeat s = .next s)) ∧
  (∀ s : State, NoVc5 s → s.seq.role = 2 →
    exec .seqBeat s = .next { s with seq := { s.seq with term := s.inp.msg.term, next := s.inp.msg.num } }) ∧
  (∀ s : State, s.seq.role = 1 → s.seq.alone = false →
    exec .seqBeatTimer s = .next (s.seqOut 0x1B s.seq.peer { num := s.seq.next })) ∧
  (∀ (i : Instr) (s : State), (i = .seqBeatTimeout ∨ i = .takeover) → s.seq.role = 2 →
    ∃ t, exec i s = .next t ∧ t.seq = { s.seq with role := 1, term := s.seq.term + 1, alone := true, event := s.seq.event ||| 5,
                                                          nums := s.seq.nums.map (fun n => { n with shown := true }) } ∧
      t.groups = s.groups ∧ t.keys = s.keys ∧
      ∀ n ∈ s.seq.nums, ∀ v ∈ s.membersOf n.comm, ∃ m, (0x11, m) ∈ t.unanswered ∧ m.dvdn = v ∧ m.num = n.num ∧
        m.result = (if n.st = .voided then 1 else 0)) ∧
  (∀ (s : State) (op : Byte) (m : SeqMsg), s.unanswered[s.inp.k]? = some (op, m) →
    exec .seqMessageRepeat s = .next (s.sendMsg 5 { seqPacket op (op == 0x11 || op == 0x19) m with
      sfunc := BitVec.ofNat 6 ((s.partOf m.svdn.toNat).getD 0) })) ∧
  (∀ s : State, ∃ t, exec .csqRoleWrite s = .next t ∧ t.seq.peer = s.inp.v.extractLsb' 0 16 ∧
    let r := (s.inp.v.extractLsb' 29 2).toNat
    let off := s.seq.role ≠ 1 ∧ s.seq.role ≠ 2
    (off → r = 1 → t.seq.role = 1 ∧ t.seq.term = 1 ∧ t.seq.next = 0 ∧ t.seq.nums = [] ∧ t.seq.gone = []) ∧
    (¬(off ∧ r = 1) → r ≠ s.seq.role → s.seq.nums ≠ [] →
      t.seq.role = s.seq.role ∧ t.seq.nums = s.seq.nums ∧ t.seq.event.getLsbD 1 = true) ∧
    (¬(off ∧ r = 1) → s.seq.nums = [] ∨ r = s.seq.role → t.seq.role = r)) ∧
  (∀ s : State, exec .ceSeqWrite s = .next { s with ceTerm := 1, seq := { s.seq with
    cePrimary := s.inp.v.extractLsb' 16 16, ceStandby := s.inp.v.extractLsb' 0 16 } }) ∧
  (∀ (s : State) (ms : List (BitVec 16)), s.inp.members = some ms → 2 ≤ ms.length → ms.length ≤ 4096 → ms.Nodup →
    ∃ t, exec .communicatorInstall s = .next t ∧ t = { s with comms := t.comms } ∧ t.membersOf s.inp.comm = ms ∧
      ∀ c, c ≠ s.inp.comm → t.membersOf c = s.membersOf c) ∧
  (∀ s : State, s.inp.members = none → (∀ n ∈ s.seq.nums, n.comm ≠ s.inp.comm) → (∀ k ∈ s.keys, k.comm ≠ s.inp.comm) →
    ∃ t, exec .communicatorInstall s = .next t ∧ t = { s with comms := t.comms } ∧ t.membersOf s.inp.comm = [])

/-- The collective engine as a member (R80 to R83, R88, R90, R460, R462, R463, R475): an assignment gives a key its number
and place in the order, the head of a function's chain begins, a grant starts it and a void is passed over; the data phase
writes its result and retires; answers reach the groups that asked; a message for no member is discarded with a record, which
names CSQ_EVENT by the model's choice (log 44). -/
def Obligations.EngineFollowsTheOrder : Prop :=
  (∀ (s : State) (f : Nat), ForMember s f 0x11 → s.inp.msg.result = 0 → s.earlySegs = [] →
    (∀ k, s.keys = [k] → k.func = f → k.comm = s.inp.msg.comm → k.tag = s.inp.msg.tag → k.num = none → k.retired = false →
      ∃ t, exec .seqAssign s = .next t ∧ SendsOnly { s with keys := t.keys } t ∧
        t.keys = [{ k with num := some s.inp.msg.num, prev := s.inp.msg.prev, first := s.inp.msg.first }]) ∧
    (s.keys = [] → (s.func f).passed = none →
      ∃ t, exec .seqAssign s = .next t ∧ SendsOnly { s with keys := t.keys } t ∧
        t.keys = [{ func := f, comm := s.inp.msg.comm, tag := s.inp.msg.tag, num := some s.inp.msg.num, prev := s.inp.msg.prev
                    first := s.inp.msg.first }])) ∧
  (∀ (s : State) (f : Nat) (k : KeyEnt), ForMember s f 0x11 → s.inp.msg.result = 1 → s.earlySegs = [] → s.keys = [k] → k.func = f →
    k.comm = s.inp.msg.comm → k.tag = s.inp.msg.tag → k.num = none → k.retired = false → k.begun = false → s.unanswered = [] →
    exec .seqAssign s = .next { s with keys := [{ k with
      num := some s.inp.msg.num, prev := s.inp.msg.prev, first := s.inp.msg.first, void_ := true }] }) ∧
  (∀ (s : State) (f : Nat) (k : KeyEnt) (num : W32), s.inp.func = f → s.keys = [k] → k.func = f → k.num = some num → k.retired = false →
    (match (s.func f).passed with | some p => k.first = false ∧ k.prev = p | none => k.first = true) → s.wholeStop f = false →
    (k.void_ = false → k.issued = true ∨ k.orphan = true → k.begun = false →
      exec .engineBeginNumber s = .next ({ s with keys := [{ k with
        begun := true, desc := if k.orphan then some (k.desc.getD k.orphanDesc) else k.desc }] }.engineMsg f 0x13 k.comm k.tag num 0)) ∧
    (k.void_ = true → k.issued = false →
      ∃ t, exec .engineBeginNumber s = .next t ∧ (t.func f).passed = some num ∧ t.keys = [{ k with retired := true }] ∧
        t.groups = s.groups)) ∧
  (∀ (s : State) (f : Nat) (k : KeyEnt) (d : CollDesc), ForMember s f 0x14 → s.keys = [k] → k.func = f → k.num = some s.inp.msg.num →
    k.begun = true → k.granted = false → k.retired = false → k.desc = some d → s.unanswered = [] →
    (s.inp.msg.result = 0 → d.kind ≠ 1 → exec .seqGrant s = .next { s with keys := [{ k with granted := true }] }) ∧
    (s.inp.msg.result = 1 → k.issued = false →
      ∃ t, exec .seqGrant s = .next t ∧ (t.func f).passed = some s.inp.msg.num ∧
        t.keys = [{ k with void_ := true, retired := true }])) ∧
  (∀ (s u v : State) (f : Nat) (k : KeyEnt) (d : CollDesc) (num : W32) (ms : List (BitVec 16)) (r : Nat) (src : Nat → List W32),
    s.inp.func = f → s.keys = [k] → k.func = f → k.comm = s.inp.comm → k.tag = s.inp.tag → k.desc = some d → k.num = some num →
    d.kind ≠ 1 → s.ringOf f k = some (ms, r) → k.granted = true → k.retired = false → k.orphan = false → s.wholeStop f = false →
    s.bring k d ms.length r s.inp.others = .ok src u → u.keys = [k] → k.srcFail = false → k.dstFail = false →
    u.engWrite f k d d.dst (wordsBytes (collResult d ms.length r src)) (d.dstN ms.length / 16384 + 2) = .ok () v →
    exec .collDataPhaseComplete s = .next
      (((v.completeColl f d (if s.inp.flag then 8 else 1) (some num)).passNum f num).engineMsg f 0x17 s.inp.comm s.inp.tag num 0)) ∧
  (∀ (s : State) (f : Nat) (k : KeyEnt) (d : CollDesc) (ms : List (BitVec 16)) (r : Nat), s.inp.func = f → s.keys = [k] → k.func = f →
    k.num = some s.inp.num → k.granted = true → k.retired = false → k.desc = some d → d.kind = 1 → s.ringOf f k = some (ms, r) →
    (s.inp.hop = 0 → k.begunSent = true → k.begunAck = false →
      exec .collSegmentRepeat s = .next (s.sendBegun f s.inp.num (ms.getD ((r + ms.length - 1) % ms.length) 0))) ∧
    (∀ ws, 1 ≤ s.inp.hop → s.inp.hop < ms.length → s.inp.seg * (ms.length - 1) + s.inp.hop - 1 < k.sent →
      k.acked.contains (s.inp.seg * (ms.length - 1) + s.inp.hop - 1) = false →
      k.got.find? (fun e => e.1 == ((r + ms.length + 1 - s.inp.hop) % ms.length, s.inp.seg)) =
        some (((r + ms.length + 1 - s.inp.hop) % ms.length, s.inp.seg), ws) →
      exec .collSegmentRepeat s = .next (s.sendHop f s.inp.num (s.inp.seg * (ms.length - 1) + s.inp.hop - 1)
        (ms.getD ((r + 1) % ms.length) 0) s.inp.hop s.inp.seg (ws.take (min 64 (d.count - 64 * s.inp.seg)))))) ∧
  (∀ (s u : State) (f c : Nat) (co : Core) (x : Cancel), ForMember s f 0x16 → s.cores = [(c, co)] → co.cancels = [x] → s.savedTeams = [] →
    s.unanswered = [] → x.comm = s.inp.msg.comm → x.tag = s.inp.msg.tag → (s.team c (s.group c x.gs).team).func = f →
    noLatch x.latch = true → s.inp.msg.result = 0 →
    u = s.engineWrite f (s.team c (s.group c x.gs).team).ctx (s.team c (s.group c x.gs).team).launch
      (s.teamIndex (s.team c (s.group c x.gs).team)) x.va (leBytes 8 1) →
    ∃ t, exec .seqCresult s = .next t ∧ (t.core c).cancels = (u.core c).cancels.filter (fun y => y != x) ∧
      (t.group c x.gs).cp = (u.group c x.gs).cp - 1 ∧ t.mem = u.mem) ∧
  (∀ (s : State) (f : Nat) (k : KeyEnt), ForMember s f 0x18 → s.unanswered = [] → s.keys = [k] → k.func = f → k.num = some s.inp.msg.num →
    k.retired = true →
    ∃ t, exec .seqDone s = .next t ∧ t.keys = [] ∧ t = { s with keys := [], begunSeen := t.begunSeen, earlySegs := t.earlySegs }) ∧
  (∀ (i : Instr) (op : Byte) (s : State), (i, op) ∈ [(Instr.seqAssign, 0x11), (.seqGrant, 0x14), (.seqCresult, 0x16), (.seqDone, 0x18),
      (.seqTerm, 0x1C)] → NoVc5 s → s.memberOf op s.inp.msg = false → s.seq.role ≠ 1 →
    exec i s = .next (if s.seq.role = 2 then s else s.record 0x120004 (s.seq.event.setWidth 32))) ∧
  (∀ (s : State) (f : Nat), NoVc5 s → s.memberOf 0x1C s.inp.msg = true → s.partOf s.inp.msg.dvdn.toNat = some f →
    (s.seq.role = 1 → after16 s.inp.msg.term s.seq.term = false) → after16 s.inp.msg.term s.ceTerm = true → s.unanswered = [] →
    exec .seqTerm s = .next { s with ceTerm := s.inp.msg.term, seq := { s.seq with cePrimary := s.inp.msg.svdn } }) ∧
  (∀ (s : State) (td : BitVec 8) (comm : BitVec 16) (tag : W32) (sp : Bool), (s.group s.inp.core s.inp.gs).live = true →
    (s.group s.inp.core s.inp.gs).cstat = some (td, comm, tag, sp) →
    ∃ t, exec .cstatAnswer s = .next t ∧ t = { s with groups := t.groups } ∧
      let g := s.group s.inp.core s.inp.gs
      let h := t.group s.inp.core s.inp.gs
      h.cstat = none ∧ h.woff = g.woff + 1 ∧ h.v = g.v ∧ h.k = g.k ∧
      ∀ n, h.sget n = if n = sNum td then s.keyState (s.team s.inp.core g.team).func comm tag else g.sget n)

/-- The host's accesses and register writes (R42, R48, R69, R97 to R99, R103, R104, R149, R182): the bridge answers for
itself and refuses an empty slot; a write reaches the management window only from PF0 or Hasp; a notify moves the tail,
or sets the bit that says why it did not; QCFG and QERR change as they may. -/
def Obligations.HostReachesRegisters : Prop :=
  (∀ s : State, s.inp.space = .mgmt → s.inp.size = 4 →
    (∀ f, s.inp.who = .func f → exec .registerWrite s = .next s) ∧
    (s.inp.who = .pf0 → s.inp.off = 0x180000 → ∃ t, exec .registerWrite s = .next t ∧ t = { s with age := t.age, funcs := t.funcs } ∧
      t.age = s.inp.v.toNat % 65536 ∧ (t.age ≠ 0 → t.funcs = s.funcs) ∧
      ∀ f, f < 64 → t.func f = { s.func f with holder := if t.age = 0 then none else (s.func f).holder }) ∧
    (s.inp.who = .hasp → s.inp.off = 0x170010 → exec .registerWrite s =
      .next { s with mig := { s.mig with event := s.mig.event &&& ~~~(s.inp.v.setWidth 7) } }) ∧
    (∀ p, p < 18 → (s.inp.who = .pf0 ∨ s.inp.who = .hasp) → s.inp.off = 0x100000 + p * 0x1000 + 8 → exec .registerWrite s =
      .next (s.setPort p { s.port p with event := (s.port p).event &&& ~~~(s.inp.v.setWidth 5) }))) ∧
  (∀ (s : State) (f q : Nat), s.inp.space = .bar0 f → s.inp.size = 4 → q < 64 → s.inp.off = q * 0x40 + 0x18 →
    exec .registerWrite s = .next (s.setQueue f q { s.queue f q with err := (s.queue f q).err &&& ~~~(s.inp.v &&& 0xE0000000) })) ∧
  (∀ s : State, s.boot.bridge = true → s.inp.bus = s.boot.slot → s.present s.inp.func = true →
    (s.inp.cfgWr = none → exec .hostConfigRequest s = .next (s.emit (.hostAnswer s.inp.bus.toNat s.inp.func true
      (BitVec.ofNat 64 (leNat (leBytes 4 (s.cfgRead s.inp.func (s.inp.off / 4)).toNat)))))) ∧
    (∀ v be, s.inp.cfgWr = some (v, be) → exec .hostConfigRequest s =
      .next ((s.cfgWrite s.inp.func (s.inp.off / 4) v be).emit (.hostAnswer s.inp.bus.toNat s.inp.func true 0))) ∧
    (s.inp.mmioWr = none → s.inp.bar = 0 → exec .hostMmioRequest s = .next (s.emit (.hostAnswer s.inp.bus.toNat s.inp.func true
      (BitVec.ofNat 64 (leNat (regBytes (s.bar0Read s.inp.func) s.inp.off s.inp.size)))))) ∧
    (∀ v, s.inp.mmioWr = some v → s.inp.bar = 0 → s.inp.size = 4 → exec .hostMmioRequest s =
      .next ((s.bar0Write s.inp.func s.inp.off 4 (BitVec.ofNat 32 (leNat (leBytes 4 v.toNat)))).emit
        (.hostAnswer s.inp.bus.toNat s.inp.func true 0)))) ∧
  (∀ s : State, s.boot.bridge = true → s.inp.bus ≠ s.boot.slot → tget none s.group8 s.inp.bus.toNat = none →
    exec .hostConfigRequest s = .next (s.emit (.hostAnswer s.inp.bus.toNat s.inp.func false 0)) ∧
    exec .hostMmioRequest s = .next (s.emit (.hostAnswer s.inp.bus.toNat s.inp.func false 0))) ∧
  (∀ s : State, s.boot.bridge = true → s.inp.bus = s.boot.slot → s.inp.func = 0 → s.inp.bar = 2 → s.boot.locked = true →
    exec .hostMmioRequest s = .next (s.emit (.hostAnswer s.inp.bus.toNat 0 false 0))) ∧
  (∀ s : State, s.boot.bridge = false → exec .hostConfigRequest s = .next s ∧ exec .hostMmioRequest s = .next s) ∧
  (∀ s : State, (s.func s.inp.func).flr = false → s.accepting = true →
    let x := s.queue s.inp.func s.inp.q
    let d := (s.inp.v - x.head).toNat
    ((s.inp.off ≠ 0 ∨ s.inp.size ≠ 4) →
      exec .notifyStore s = .next (s.setQueue s.inp.func s.inp.q { x with err := x.err ||| 0x20000000 })) ∧
    (s.inp.off = 0 → s.inp.size = 4 → x.size < d →
      exec .notifyStore s = .next (s.setQueue s.inp.func s.inp.q { x with err := x.err ||| 0xC0000000 })) ∧
    (s.inp.off = 0 → s.inp.size = 4 → d ≤ x.size → 1 ≤ (s.inp.v - x.tail).toNat → (s.inp.v - x.tail).toNat < 2 ^ 31 →
      exec .notifyStore s = .next (s.setQueue s.inp.func s.inp.q { x with tail := s.inp.v })) ∧
    (s.inp.off = 0 → s.inp.size = 4 → d ≤ x.size → (s.inp.v = x.tail ∨ 2 ^ 31 ≤ (s.inp.v - x.tail).toNat) →
      exec .notifyStore s = .next s)) ∧
  (∀ s : State, (s.func s.inp.func).flr = true ∨ s.boot.halt = .measure ∨ s.boot.halt = .fatal → exec .notifyStore s = .next s) ∧
  (∀ s : State,
    let x := { s.queue s.inp.func s.inp.q with cfg := s.inp.v &&& 0x80FFFFFF }
    exec .qcfgWrite s = .next (
      if ((s.queue s.inp.func s.inp.q).cfg.getLsbD 31 && s.inp.v.getLsbD 31) || !s.accepting then s
      else { s.setQueue s.inp.func s.inp.q x with
        ringCaps := tput none s.ringCaps (s.inp.func * 64 + s.inp.q) (if s.inp.v.getLsbD 31 then some (ringCap s.inp.func x) else none) })) ∧
  (∀ s : State, exec .qerrHaltClear s = .next (s.setQueue s.inp.func s.inp.q
    { s.queue s.inp.func s.inp.q with err := (s.queue s.inp.func s.inp.q).err &&& ~~~(s.inp.v &&& 0xE0000000) }))

/-- Commands of a queue (R100, R101, R105, R112, R114, R171, R182): a fetch by a scheduler core reads the next slot and advances
QHEAD, and no other firmware core fetches; a marker retires with its completion record; a copy moves its bytes and retires; a
launch whose record passes the checks becomes pending, and one with a reserved bit set retires and halts its queue. -/
def Obligations.CommandsRunAndRetire : Prop :=
  (∀ s : State, s.inp.fw = 0 ∨ 8 ≤ s.inp.fw → exec .commandFetch s = .next s) ∧
  (∀ (s u v : State) (f q slot : Nat) (ok : Bool) (b : List Byte), f = s.inp.func → q = s.inp.q → 1 ≤ s.inp.fw → s.inp.fw ≤ 7 →
    s.accepting = true → (s.func f).part = true → (s.func f).flr = false → (s.func f).fetchOff = false → (s.queue f q).fetchable = true →
    (s.serve s.inp.fw f q).bindCtx f (s.queue f q).ctx = .ok (ok, u) → slot = (s.queue f q).head.toNat →
    u.vaRead f (s.queue f q).ctx ((s.queue f q).base + BitVec.ofNat 64 (256 * (slot % (s.queue f q).size))) 256 = .bytes b v →
    cmdBad b = none →
    ∃ t, exec .commandFetch s = .next t ∧
      t = v.setQueue f q { v.queue f q with head := (v.queue f q).head + 1, cmds := (v.queue f q).cmds ++
        [{ cmdOf b slot (s.queue f q).ctx with waitPrev := b.getD 1 0 &&& 1 == 1 || (cmdOf b slot (s.queue f q).ctx).kind == 4 }] }) ∧
  (∀ (s w : State) (f q slot : Nat) (c : Cmd), f = s.inp.func → q = s.inp.q → slot = s.inp.slot → OneCmd s f q slot 4 c → Served s f →
    (s.func f).flr = false → s.wholeStop f = false → CmdStarted s w f q c →
    (c.caddr = 0 → (c.irq = true → s.boot.bridge = true ∧ s.owed = [] ∧ s.devWrites f = false) →
      ∃ t, exec .markerCommand s = .next t ∧
        t = (if c.irq then w.emit (.msix f (s.queue f q).vec) else w).setQueue f q
          { s.queue f q with cmds := [], done := (s.queue f q).done + 1 }) ∧
    (∀ pa, c.caddr ≠ 0 → c.caddr.toNat % 16 = 0 → Reaches w f c.ctx c.caddr 1 pa →
      ∃ t, exec .markerCommand s = .next t ∧ WroteAt s.mem t.mem pa (leBytes 4 c.cseq.toNat ++ leBytes 12 0) ∧
        (t.queue f q).cmds = [] ∧ (t.queue f q).done = (s.queue f q).done + 1)) ∧
  (∀ (s : State) (f q slot : Nat) (c : Cmd), f = s.inp.func → q = s.inp.q → slot = s.inp.slot → OneCmd s f q slot 3 c → Served s f →
    s.wholeStop f = false → ∃ t, exec .copyCommand s = .next t ∧ CmdStarted s t f q c) ∧
  (∀ (s : State) (f q slot len pd : Nat) (c : Cmd) (bs : List Byte), s.inp.copy = .queue f q slot → (s.queue f q).cmds = [c] → c.slot = slot →
    c.kind = 3 → c.started = true → c.done = 0 → c.caddr = 0 → c.irq = false → len = c.w4.toNat % 2 ^ 40 → 1 ≤ len →
    c.w2.toNat % 4096 + len ≤ 4096 → c.w3.toNat % 4096 + len ≤ 4096 → s.cores = [] → s.l2 = [] → s.streams = [] →
    (s.func f).flr = false → s.wholeStop f = false → s.vaRead f c.ctx c.w2 len = .bytes bs s → bs.length = len →
    Reaches s f c.ctx c.w3 1 pd →
    ∃ t, exec .copyCommandComplete s = .next t ∧ WroteAt s.mem t.mem pd bs ∧ t.groups = s.groups ∧
      t.queue f q = { s.queue f q with cmds := [], done := (s.queue f q).done + 1 }) ∧
  (∀ (s v : State) (f q slot : Nat) (c : Cmd) (b : List Byte), f = s.inp.func → q = s.inp.q → slot = s.inp.slot → OneCmd s f q slot 1 c →
    s.wholeStop f = false → s.vaRead f c.ctx c.w2 256 = .bytes b v → (v.func f).flr = false →
    (recordReserved b = true → c.caddr = 0 → c.irq = false → Served v f → OneCmd v f q slot 1 c →
      ∃ t, exec .launchCommand s = .next t ∧ t.launches = v.launches ∧ (t.queue f q).cmds = [] ∧
        (t.queue f q).done = (v.queue f q).done + 1 ∧ (t.queue f q).err = ((v.queue f q).halt 5 (slot % (v.queue f q).size)).err) ∧
    (∀ u, recordReserved b = false → c.w2.toNat % 64 = 0 → (recordOf b).ok = true → ({} : Usage).fits (recordOf b).need = true →
      v.bindCtx f (recordOf b).ctx = .ok (true, u) → Served u f → OneCmd u f q slot 1 c →
      (u.coresOf f ≠ [] → u.partitionOk f (recordOf b) = true) →
      ∃ t, exec .launchCommand s = .next t ∧ t.nextLaunch = u.nextLaunch + 1 ∧ (t.queue f q).cmds = [{ c with started := true }] ∧
        t.launches = u.launches ++ [{ id := u.nextLaunch, func := f, owner := .queue f q slot, lrec := recordOf b, startMs := u.ms
                                      total := (recordOf b).clusters, resident := [], saved := [], unchecked := (u.coresOf f).isEmpty }]))

/-- The distributor and the end of groups and teams (R173, R174, R180, R182, R183, R200, R209, R210): a launch that fits is
placed with its groups at their entry, one that has waited long holds its function, a millisecond is counted to each
function's cores; a group that can end leaves its place and with the last one its team its banks; a scrub ends clean, and a
core whose stopping teams are quiet saves them. -/
def Obligations.TeamsComeAndGo : Prop :=
  (∀ (s : State) (l : Launch) (p : Piece) (r : Role) (c : Nat), s.loading s.inp.func = false → s.placeOrder s.inp.func = [l] → l.func = s.inp.func → s.plan l = some [[(p, c)]] →
    p.saved = none → l.saved = [] → s.needsScrub c l.func l.lrec.ctx = false → (s.core c).scrub = false → l.lrec.cbook = 0 → Served s l.func →
    s.groups = [] → s.teams = [] → s.launches = [l] → l.lrec.roles = [r] → r.ngrp = 1 → (s.func l.func).probex.rights = none →
    ∃ t, exec .distributorPlace s = .next t ∧
      let tm := t.team c 0
      let g := t.group c 0
      tm.live = true ∧ tm.launch = l.id ∧ tm.func = l.func ∧ tm.ctx = l.lrec.ctx ∧ tm.x = p.index % l.lrec.gx ∧
      tm.y = p.index / l.lrec.gx % l.lrec.gy ∧ tm.z = p.index / (l.lrec.gx * l.lrec.gy) ∧
      g.live = true ∧ g.team = 0 ∧ g.nreg = r.nreg ∧ g.grp = 0 ∧ g.bhdr = l.lrec.code + BitVec.ofNat 64 (8 * r.entry.toNat) ∧
      g.woff = 0 ∧ g.v = [] ∧ g.k = [] ∧ g.ctr = [] ∧ g.exited = 0 ∧ g.tm = false ∧ g.mode = l.lrec.mode ∧
      (∀ n, g.sget n = if n = 0 then l.lrec.param else 0) ∧
      ∃ k, t.launches = [k] ∧ k.next = l.next + 1 ∧ k.resident = l.resident ++ [(c, 0)] ∧ k.total = l.total) ∧
  (∀ (s : State) (l : Launch), s.launches = [l] → l.func = s.inp.func → l.next < l.total → s.age ≠ 0 → (s.func s.inp.func).holder = none →
    16 * s.age ≤ s.ms - l.startMs →
    exec .launchHold s = .next (s.setFunc s.inp.func { s.func s.inp.func with holder := some l.id })) ∧
  (∀ s : State, ∃ t, exec .disCtimeTick s = .next t ∧ t = { s with ms := s.ms + 1, funcs := t.funcs } ∧
    ∀ f, f < 64 → (t.func f).ctime = satInc (s.func f).ctime
      (distinct ((s.teamsOf (fun _ x => x.func == f)).map Prod.fst)).length) ∧
  (∀ (s : State) (tm : Team), let c := s.inp.core
    let p := s.inp.gs
    tm = s.team c (s.group c p).team → s.canEnd c p = true → (s.core c).latch.arrivals = [] → s.right tm.func tm.ctx rTRACE = false →
    ((∃ q, q ≠ p ∧ q < 64 ∧ (c * 64 + q, s.group c q) ∈ s.groups ∧ (s.group c q).live = true ∧ (s.group c q).team = (s.group c p).team) →
      p < 64 → exec .groupEnd s = .next (s.setGroup c p {})) ∧
    ((∀ e ∈ s.groups, e.1 / 64 = c → e.2.live = true → e.1 % 64 = p) → p < 64 → s.launches = [] → (s.core c).toScrub = false →
      ∃ t, exec .groupEnd s = .next t ∧ t.group c p = {} ∧ t.team c (s.group c p).team = {} ∧ t.mem = s.mem ∧
        ∀ b, b < 32 → (s.core c).shut.length = 32 → b ∈ tm.win.map Prod.snd ++ tm.fifo.map Prod.snd → (t.core c).shut.getD b .scratch = .cache)) ∧
  (∀ s : State, (s.core s.inp.core).scrub = true → s.evicting s.inp.core = false →
    exec .scrubComplete s = .next (s.setCore s.inp.core { s.core s.inp.core with scrub := false })) ∧
  (∀ (s : State) (c : Nat) (co : Core), c = s.inp.core → s.cores = [(c, co)] → co.stop = true →
    (s.teamsOf (fun c' x => c' == c && x.stopping) = [] →
      exec .coreStop s = .next { s with cores := [(c, { co with stop := false })] }) ∧
    (∀ t, s.stopSet c = [(c, t)] → (s.team c t).stopping = true → s.teamQuiet c t = true →
      s.teamsOf (fun c' x => c' == c && x.stopping) = [(c, t)] → t < 8 →
      ∃ u x, exec .coreStop s = .next u ∧ u.savedTeams = s.savedTeams ++ [x] ∧ (u.core c).stop = false ∧ u.team c t = {} ∧
        x.launch = (s.team c t).launch ∧ x.set = s.nextSaved ∧ x.team.x = (s.team c t).x ∧ x.team.stopping = false ∧
        ∀ e ∈ x.groups, (s.group c e.1).team = t ∧ e.2.v = (s.group c e.1).v ∧
          e.2.s = (s.group c e.1).s ∧ e.2.k = (s.group c e.1).k ∧ e.2.bhdr = (s.group c e.1).bhdr ∧ e.2.woff = (s.group c e.1).woff))

/-- Graphs (R184 to R189): a table that passes the checks starts with the nodes that have no predecessor, one of no nodes
is refused; a node that retires has run arrives at all its successors, an arrival counts down and the last starts its node,
and a graph whose nodes have all retired retires its command. -/
def Obligations.GraphsRun : Prop :=
  (∀ (s w : State) (f q slot n : Nat) (c : Cmd), f = s.inp.func → q = s.inp.q → slot = s.inp.slot → OneCmd s f q slot 2 c →
    s.wholeStop f = false → n = c.w3.toNat % 65536 →
    (n = 0 → c.caddr = 0 → c.irq = false → Served s f →
      ∃ t, exec .graphCommand s = .next t ∧ t.graphs = s.graphs ∧ (t.queue f q).cmds = [] ∧
        (t.queue f q).err = ((s.queue f q).halt 4 (slot % (s.queue f q).size)).err) ∧
    (∀ u x y, n = 1 → c.w2.toNat % 64 = 0 →
      s.graphNode { id := s.nextLaunch, func := f, q, slot, addr := c.w2, ctx := c.ctx, n := 1 } 0 = .got (x, y) u →
      Served u f → OneCmd u f q slot 2 c → CmdStarted u w f q c → tableBad [x] = none →
      ∃ t, exec .graphCommand s = .next t ∧ t.nextLaunch = w.nextLaunch + 1 ∧
        t.graphs = w.graphs ++ [{ id := s.nextLaunch, func := f, q, slot, addr := c.w2, ctx := c.ctx, n := 1
                                  todo := if x.npred = 0 then [.start 0] else [] }])) ∧
  (∀ (s u : State) (g : Graph) (a : GAct) (i : Nat) (x : GNode) (y : GState), s.graphs = [g] → g.id = s.inp.run → g.todo = [a] →
    s.launches = [] → s.owed = [] → s.wholeStop g.func = false → s.graphNode g i = .got (x, y) u →
    (a = .retire i 2 → y.retired = false → x.kind ≠ 5 →
      exec .graphNodeRetire s = .next ((u.putState g i { y with st := 2 }).setGraph
        { g with todo := x.all.map (fun j => .arrive j true) })) ∧
    (∀ run, a = .arrive i run → y.retired = false → y.cnt ≠ 0 →
      exec .graphNodeRetire s = .next ((u.putState g i { y with cnt := y.cnt - 1, runarr := y.runarr || run }).setGraph
        { g with todo := if y.cnt ≠ 1 then [] else if y.runarr = true ∨ run = true ∨ x.npred = 0 then [.start i] else [.retire i 3] })) ∧
    (a = .start i → g.failed = [] → x.kind = 2 →
      exec .graphNodeRetire s = .next ((u.putState g i { y with st := 1 }).setGraph
        { g with todo := [], copies := g.copies ++ [(i, 0, none)] }))) ∧
  (∀ (s : State) (g : Graph) (c : Cmd) (l : List (GNode × GState)), s.graphs = [g] → g.id = s.inp.run → g.todo = [] → g.copies = [] →
    g.failed = [] → s.launches = [] → s.owed = [] → s.wholeStop g.func = false → s.graphNodes g g.n = .got l s →
    (∀ e ∈ l, e.2.retired = true) → s.cores = [] → s.l2 = [] →
    s.streams = [] → (s.queue g.func g.q).cmds = [c] → c.slot = g.slot → c.caddr = 0 → c.irq = false →
    ∃ t, exec .graphNodeRetire s = .next t ∧ t.graphs = [] ∧
      t.queue g.func g.q = { s.queue g.func g.q with cmds := [], done := (s.queue g.func g.q).done + 1 })

/-- Translations and errors found in memory (R125 to R147): a walk ends in an entry of the core's TLB or parks its group; a
parked group tries again, or has passed its limit where it still does not translate; a refusal terminates the launch; an
invalidation removes what it covers and clears BUSY after; a page moves between tiers step by step; a patrol and a lost line
are logged, the lost line one class up. -/
def Obligations.FaultsAndErrorsEnd : Prop :=
  (∀ (s : State) (c p va : Nat) (g : Group) (w : Walk) (r : Except XlStop TlbEntry), p < 64 → coreDie c = s.inp.die → s.inp.k = 0 →
    s.groups = [(c * 64 + p, g)] → g.live = true → tget [] s.walks s.inp.die = [w] → (s.team c g.team).func = w.func →
    (s.team c g.team).ctx = w.ctx → g.miss = [(va, w.access)] → va < 2 ^ 64 → va / 65536 = w.page →
    (s.translate s.inp.die w.func w.ctx (BitVec.ofNat 64 (w.page * 65536)) w.access).1 = r →
    (∀ e, r = .ok e → e.windowed w.access = false →
      ∃ t, exec .walkComplete s = .next t ∧ (t.core c).tlb = (e :: (s.core c).tlb.filter (fun x => x != e)).take 64 ∧
        (t.group c p).miss = [] ∧ (t.group c p).park = g.park ∧ tget [] t.walks s.inp.die = [] ∧ t.mem = s.mem) ∧
    (∀ x, r = .error (.fault x) → x.stage2 = false → x.level ≠ 0 → g.park = none →
      ∃ t, exec .walkComplete s = .next t ∧ (t.group c p).miss = [] ∧ tget [] t.walks s.inp.die = [] ∧
        (t.group c p).park = some { flt := { x with va := BitVec.ofNat 64 va }, active := true, recs := [w.page] })) ∧
  (∀ (s : State) (k : Park), (s.group s.inp.core s.inp.gs).park = some k →
    exec .parkedRetry s = .next (s.setGroup s.inp.core s.inp.gs
      { s.group s.inp.core s.inp.gs with park := some { k with active := false } })) ∧
  (∀ (s : State) (c p : Nat) (k : Park) (tm : Team), s.inp.target = .group c p → (s.group c p).park = some k → k.flt.stage2 = false →
    tm = s.team c (s.group c p).team → s.hasLimit tm.func tm.ctx = true →
    let r := (s.translate (coreDie c) tm.func tm.ctx k.flt.va k.flt.access).1
    (∀ x, r = .error (.fault x) →
      exec .flimExpire s = .next (s.setGroup c p { s.group c p with park := some { k with active := false, expired := true } })) ∧
    ((∃ e, r = .ok e) ∨ r = .error .transit →
      exec .flimExpire s = .next (s.setGroup c p { s.group c p with park := some { k with active := false } }))) ∧
  (∀ (s : State) (c p : Nat) (x : XlFault) (l : Launch), s.inp.target = .group c p → s.haspFaults = [(.group c p, x)] →
    x.ofRing = false → s.launches = [l] → (s.team c (s.group c p).team).launch = l.id → l.resident ≠ [] →
    ∃ t, exec .haspStage2Refuse s = .next t ∧ t.haspFaults = [] ∧
      t.launches = [{ l with next := l.total, saved := [], status := 3, unchecked := false, park := none }] ∧
      ∀ x ∈ s.teamsOf (fun _ y => y.launch == l.id), (t.team x.1 x.2).term = true) ∧
  (∀ s : State, (s.inp.who ≠ .hasp ∨ s.inv.busy = true → exec .xlInv s = .next s) ∧
    (∀ i : XlInv, i = { s.inv with flush := false, scope := s.inp.v.extractLsb' 28 2, func := s.inp.v.toNat % 64 } →
      s.inp.who = .hasp → s.inv.busy = false → s.inp.v.getLsbD 31 = true → s.inp.v.getLsbD 30 = false →
      ∃ t, exec .xlInv s = .next t ∧ t.inv.busy = true ∧ t.nwc = [] ∧
        (∀ c, (t.core c).tlb = (s.core c).tlb.filter (fun e => !s.invHits i e.func e.gpage (e.sfa / 65536))) ∧
        (∀ d, tget [] t.l2tlb d = (tget [] s.l2tlb d).filter (fun e => !s.invHits i e.func e.gpage (e.sfa / 65536))) ∧
        (i.scope = 2 → t.pcache = []))) ∧
  (∀ s : State, s.inv.busy = true →
    ((∃ u ∈ s.inv.users, ∃ a ∈ (tget {} s.groups u.1).acc, a.id = u.2) → exec .xlInvComplete s = .next s) ∧
    (s.inv.users = [] → s.inv.engines = [] → s.inv.locs = [] → s.inv.scope = 2 → s.owed = [] →
      (∀ e ∈ s.cores, e.2.tq = []) →
      ∃ t, exec .xlInvComplete s = .next t ∧ t.inv = { s.inv with busy := false, users := [], engines := [], locs := [] } ∧
        ∀ c p, p < 64 → (s.group c p).live = true →
          (t.group c p).park = (s.group c p).park.map (fun k => { k with active := false }))) ∧
  (∀ (s : State) (f : Nat) (e : W64), f = s.inp.func → e = tget 0 (s.func f).place s.inp.page →
    (∀ transit, s.inp.stage = .open_ transit → plV e = true → s.tierOf f s.inp.page = none → s.mig.dir = 0 ∨ s.mig.func ≠ f →
      ∃ t, exec .tierMove s = .next t ∧ t.tiers = s.tiers ++ [{ func := f, page := s.inp.page }] ∧
        tget 0 (t.func f).place s.inp.page = e ||| (if transit then 0x1000000000000000 else 0x2000000000000000)) ∧
    (∀ toPool loc x, s.inp.stage = .copy toPool loc → s.tierOf f s.inp.page = some x → x.inv = false → exec .tierMove s = .next s) ∧
    (∀ loc x, s.inp.stage = .copy false loc → s.tierOf f s.inp.page = some x → x.inv = true → x.copied = none →
      s.reservedPage (loc / 65536) = false → plPool e = false →
      ∃ t, exec .tierMove s = .next t ∧ t.funcs = s.funcs ∧ WroteAt s.mem t.mem loc (bytesAt s.mem (plLoc e) 65536)) ∧
    (∀ toPool loc x, s.inp.stage = .finish toPool loc → s.tierOf f s.inp.page = some x → loc % 65536 = 0 →
      (x.copied ≠ some loc → exec .tierMove s = .next s) ∧
      (x.copied = some loc → x.written = false → s.streams = [] →
        ∃ t, exec .tierMove s = .next t ∧ tget 0 (t.func f).place s.inp.page =
          BitVec.ofNat 64 (2 ^ 63 + (if toPool then 2 ^ 62 else 0) + loc)))) ∧
  (∀ (s : State) (k : Nat), s.inp.bad = [k] → k < 2 ^ 35 → s.poison.contains k = false →
    ∃ t, exec .patrolScrub s = .next t ∧ t.poison = k :: s.poison ∧ t.mecCe = satInc s.mecCe s.inp.count ∧
      t.mecUe = satInc s.mecUe ∧ t.teams = s.teams ∧ t.mem = s.mem ∧
      (s.mecLogB.getLsbD 31 = false → t.mecLogA = BitVec.ofNat 32 (k / 8) ∧ t.mecLogB.getLsbD 31 = true ∧
        t.mecLogB.getLsbD 24 = true ∧ t.mecLogB.getLsbD 25 = false)) ∧
  (∀ (s : State) (y : Sector), s.inp.site.src = 2 → s.l1Get s.inp.site.core s.inp.page = some y →
    (y.dirty = 0 → exec .dirtyLineLost s = .next s) ∧
    (y.dirty ≠ 0 → y.own = 0 → y.priv = true →
      ∃ t, exec .dirtyLineLost s = .next t ∧ t.l1Get s.inp.site.core s.inp.page = none ∧ t.mecUe = satInc s.mecUe ∧
        (s.mecLogB.getLsbD 31 = false → t.mecLogB.getLsbD 31 = true ∧ t.mecLogB.extractLsb' 26 2 = 1 ∧ t.mecLogB.getLsbD 25 = true) ∧
        ∀ x ∈ s.teamsOf (fun _ z => z.func == y.func && z.ctx == y.ctx), (t.team x.1 x.2).term = true))

/-- The mailbox and partitions (R95 to R98, R110, R111), capability faults (R112 to R114) and function resets (R106, R107, R109): a
request is answered and a refused one changes nothing; a partition is given, or waits for the teams it displaces; one is
taken with its memory zeroed; a reset terminates the function's work and completes when nothing of it is left. -/
def Obligations.PartitionsAndResets : Prop :=
  (∀ s : State, s.mail.busy = false → s.mail.done = true → exec .partSet s = .next s ∧ exec .badcmd s = .next s) ∧
  (∀ (s : State) (f quota : Nat) (r : MailReq) (rs : List Rect), r = s.inp.mail → Asked s 0x10 → f = askedFor s → quota = mailQuota r →
    rs = (rectWords r).map rectOf →
    (f = 0 ∨ (s.func f).vfOn = false → ∃ t, exec .partSet s = .next t ∧ Declined s t 5) ∧
    (f ≠ 0 → (s.func f).vfOn = true → (s.func f).flr = true ∨ s.migrating f = true → ∃ t, exec .partSet s = .next t ∧ Declined s t 4) ∧
    (f ≠ 0 → (s.func f).vfOn = true → (s.func f).flr = false → s.migrating f = false →
      (∀ x, s.rectRefusal f r = some x → ∃ t, exec .partSet s = .next t ∧ Declined s t x.toNat) ∧
      (s.rectRefusal f r = none →
        let less : Prop := (s.func f).part = true ∧ quota < (s.func f).quota
        let named : Prop := s.s2Above f (s.func f).vdn.toNat (quota * 2 ^ 29) [1, 2, 3] (s.func f).s2root = true
        (less → named → ∃ t, exec .partSet s = .next t ∧ Declined s t 3) ∧
        ((less → ¬named) → s.displaced f rs = [] → (less → s.usesAbove f quota = false) →
          ∃ u t : State, exec .partSet s = .next t ∧ t = (u.checkLates f).answer r 0 ∧ Answered s t 0 ∧ (s.launches = [] → t = u.answer r 0) ∧
            (u.func f).rects = rs ∧ (u.func f).quota = quota ∧ (u.func f).part = true ∧ (u.func f).placeOff = false ∧
            (∀ p, p < quota * 8192 → p < (s.func f).quota * 8192 → tget 0 (s.func f).place p ≠ 0 →
              tget 0 (u.func f).place p = tget 0 (s.func f).place p) ∧
            ((s.func f).part = true → (u.func f).vdn = (s.func f).vdn ∧ u.mem = s.mem)) ∧
        ((less → ¬named) → s.displaced f rs ≠ [] →
          ∃ t, exec .partSet s = .next t ∧ t.mail.busy = true ∧ t.mail.done = false ∧ (t.func f).rects = (s.func f).rects ∧
            (t.func f).quota = (s.func f).quota ∧ (t.func f).placeOff = true ∧ (t.func 0).placeOff = true ∧
            ∀ k tm, s.teams = [(k, tm)] → tm.live = true → tm.term = false → (t.team (k / 8) (k % 8)).stopping = true)))) ∧
  (∀ (s : State) (f : Nat) (r : MailReq), r = s.inp.mail → Asked s 0x11 → f = askedFor s →
    (f = 0 ∨ (s.func f).vfOn = false ∨ (s.func f).part = false → ∃ t, exec .partClear s = .next t ∧ Declined s t 5) ∧
    (f ≠ 0 → (s.func f).vfOn = true → (s.func f).part = true → (s.func f).flr = true ∨ s.migrating f = true →
      ∃ t, exec .partClear s = .next t ∧ Declined s t 4) ∧
    (f ≠ 0 → (s.func f).vfOn = true → (s.func f).part = true → (s.func f).flr = false → s.migrating f = false →
      (s.teamsOf (fun _ x => x.func == f) ≠ [] →
        ∃ t, exec .partClear s = .next t ∧ t.mail.busy = true ∧ t.mail.done = false ∧ (t.func f).placeOff = true ∧
          (t.func f).quota = (s.func f).quota) ∧
      (s.teamsOf (fun _ x => x.func == f) = [] → s.usesAbove f 0 = false →
        ∃ u t : State, exec .partClear s = .next t ∧ t = (u.checkLates f).answer r 0 ∧ Answered s t 0 ∧ (s.launches = [] → t = u.answer r 0) ∧
          (u.func f).rects = [] ∧ (u.func f).quota = 0 ∧ (u.func f).place = [] ∧
          ((∀ e ∈ (s.func f).place, plPool e.2 = false) → ∀ a, byteAt u.mem a =
            if (s.func f).place.any (fun e => plV e.2 && decide (plLoc e.2 ≤ a) && decide (a < plLoc e.2 + 65536)) then 0
            else byteAt s.mem a)))) ∧
  (∀ s : State, Asked s (s.inp.mail.toNat % 256) →
    s.inp.mail.toNat % 256 ∉ [0x10, 0x11, 0x20, 0x21, 0x22, 0x23, 0x28, 0x29, 0x30, 0x31, 0x32, 0x33] →
    ∃ t, exec .badcmd s = .next t ∧ Declined s t 6) ∧
  (∀ (s : State) (a : CapAccess) (c : Nat) (tag : Bool), a = s.inp.acc → s.capOf a = (c, tag) →
    let base := c / 2 ^ 64
    let len := c / 2 ^ 24 % 2 ^ 40
    let kind := c / 2 ^ 20 % 16
    let perm := c / 2 ^ 16 % 16
    let fits : Prop := tag = true ∧ c / 2 ^ 6 % 2 ^ 10 = 0 ∧ kind < 4 ∧ kind = a.kind.toNat ∧ perm &&& a.perm.toNat = a.perm.toNat ∧
      base ≤ a.addr ∧ a.addr + a.size ≤ base + len ∧ (kind = 1 → ∃ e ∈ s.ringCaps, e.2 = some (BitVec.ofNat 128 c)) ∧
      (kind = 3 → c % 64 = a.owner.toNat) ∧
      ∀ d, a.derive = some d → d.toNat / 2 ^ 6 % 2 ^ 10 = 0 ∧ perm % 2 = 1 ∧ base ≤ d.toNat / 2 ^ 64 ∧
        d.toNat / 2 ^ 64 + d.toNat / 2 ^ 24 % 2 ^ 40 ≤ base + len ∧ d.toNat / 2 ^ 16 % 16 &&& perm = d.toNat / 2 ^ 16 % 16 ∧
        d.toNat / 2 ^ 20 % 16 = kind ∧ d.toNat % 64 = c % 64
    (fits → a.derive = none → exec .firmwareCapabilityFault s = .next s) ∧
    (∀ d, fits → a.derive = some d → a.addr % 16 = 0 → a.size = 16 → a.perm.getLsbD 2 = true →
      ∃ t, exec .firmwareCapabilityFault s = .next t ∧ WroteAt s.mem t.mem a.addr (leBytes 16 d.toNat) ∧
        tget false t.capTags (a.addr / 16) = true ∧ t.funcs = s.funcs) ∧
    (¬fits → s.inp.fw = 0 ∨ 8 ≤ s.inp.fw → exec .firmwareCapabilityFault s = .next s) ∧
    (¬fits → 1 ≤ s.inp.fw → s.inp.fw ≤ 7 →
      (∀ k, s.inp.cmd = none ∨ (s.inp.cmd = some k ∧ s.endCmd k.1 k.2.1 k.2.2 sCAPFAULT = none) →
        ∃ t, exec .firmwareCapabilityFault s = .next t ∧ t.mem = s.mem ∧ t.groups = s.groups ∧ t.launches = s.launches ∧
          t.serving = s.serving.filter (fun e => e.1 != s.inp.fw) ∧
          ∀ f q, t.queue f q = if (s.inp.fw, f, q) ∈ s.serving then
            (s.queue f q).halt 2 ((s.queue f q).head.toNat % (s.queue f q).size) else s.queue f q) ∧
      (∀ f q slot l, s.inp.cmd = some (f, q, slot) → s.launches = [l] → l.owner = .queue f q slot → l.resident ≠ [] →
        ∃ t, exec .firmwareCapabilityFault s = .next t ∧
          t.launches = [{ l with next := l.total, saved := [], status := 2, unchecked := false, park := none }] ∧
          ∀ x ∈ s.teamsOf (fun _ y => y.launch == l.id), (t.team x.1 x.2).term = true) ∧
      (∀ f q slot k, s.inp.cmd = some (f, q, slot) → s.launches = [] → s.graphs = [] → (s.queue f q).cmds = [k] → k.slot = slot →
        k.caddr = 0 → k.irq = false →
        exec .firmwareCapabilityFault s = .next (s.setQueue f q
          ({ s.queue f q with cmds := [], done := (s.queue f q).done + 1 }.halt 2 (slot % (s.queue f q).size)))))) ∧
  (∀ (s : State) (f : Nat), f = s.inp.func → (s.func f).flr = false → f = 0 ∨ (s.func f).vfOn = true →
    (s.mig.inFunc = some f → exec .flr s = .next { s with mig := { s.mig with inFlr := true } }) ∧
    (s.mig.inFunc ≠ some f → s.mig.func = f →
      (s.mig.dir = 1 → 3 ≤ s.mig.phase → s.mig.phase < 8 →
        exec .flr s = .next (({ s with mig := { s.mig with flrHeld := true } } : State).hasp s.mig.dest 0xF4 f)) ∧
      (s.mig.dir = 3 → s.mig.phase < 8 → exec .flr s = .next { s with mig := { s.mig with flrHeld := true } }) ∧
      (s.mig.dir = 1 → s.mig.phase < 3 → s.mig.switched = false →
        ∃ t, exec .flr s = .next t ∧ (t.func f).flr = true ∧ t.mig.dir = 0 ∧ t.mig.event.getLsbD 2 = true)) ∧
    (s.mig.inFunc ≠ some f → ¬(s.mig.func = f ∧ (s.mig.dir = 1 ∨ s.mig.dir = 3) ∧ s.mig.phase < 8) →
      ∃ t, exec .flr s = .next t ∧ (t.func f).flr = true ∧ (t.func f).fetchOff = true ∧ (t.func f).rects = (s.func f).rects ∧
        (t.func f).quota = (s.func f).quota ∧ (t.func f).place = (s.func f).place ∧ t.mem = s.mem ∧
        (∀ q, (t.queue f q).cmds = (s.queue f q).cmds.filter (fun c => c.started)) ∧
        (∀ g ∈ t.graphs, g.func ≠ f) ∧ (∀ l ∈ t.launches, l.func = f → l.next = l.total ∧ l.saved = []) ∧
        ∀ x ∈ s.teamsOf (fun _ y => y.func == f), (t.team x.1 x.2).term = true ∧ (t.core x.1).toScrub = true)) ∧
  (∀ (s : State) (f : Nat), f = s.inp.func → (s.func f).flr = true →
    let left : Prop := s.teamsOf (fun _ y => y.func == f) ≠ [] ∨
      (∃ x ∈ s.streams, ∃ y ∈ x.out ++ x.queue, y.1.sfunc.toNat = f) ∨ ∃ y ∈ s.heldIds, y.1.sfunc.toNat = f
    (left → exec .flrComplete s = .next s) ∧
    (¬left →
      ∃ t, exec .flrComplete s = .next t ∧ (t.func f).flr = false ∧ (t.func f).fetchOff = false ∧ (t.func f).queues = [] ∧
        (t.func f).probex = {} ∧ (t.func f).holder = none ∧ (t.func f).place = (s.func f).place ∧
        (t.func f).rects = (s.func f).rects ∧ (t.func f).quota = (s.func f).quota ∧ t = { s with funcs := t.funcs }))

/-- Migrations and checkpoints (R148 to R170): MIG_OUT claims the dirty bits and asks the destination; passes clear them, and
the stop decision follows STOPBLK, MIG_STOPNOW or MAXPASS; quiesce, its limit, the image, the final copy, failures and aborts;
MIG_IN reserves a partition; CKPT quiesces, and RESTORE checks the image first and resumes once its records are loaded. What one
Hasp tells another, and its codes, are the model's choice (log 43). -/
def Obligations.MigrationsAndImages : Prop :=
  (∀ (s : State) (f : Nat) (r : MailReq), r = s.inp.mail → Asked s 0x20 → f = askedFor s →
    (f = 0 → s.mig.dir ≠ 1 → ∃ t, exec .migOut s = .next t ∧ Declined s t 5) ∧
    (f ≠ 0 → (s.func f).vfOn = true → (s.func f).part = true → s.mig.dir = 3 → ∃ t, exec .migOut s = .next t ∧ Declined s t 4) ∧
    (Settled s f → (s.func f).dirtyUse = 0 → vtValid (tget 0 s.vdnTab (mailWord r 1 % 65536)) = true → mailWord r 3 % 2 ^ 18 ≠ 0 →
      ∃ t, exec .migOut s = .next t ∧ t.mail.busy = true ∧ t.mail.done = false ∧ (t.func f).dirtyUse = 1 ∧ t.mig.func = f ∧
        t.mig.dir = 1 ∧ t.mig.phase = 0 ∧ t.mig.pass = 0 ∧ t.mig.dest = BitVec.ofNat 16 (mailWord r 1) ∧
        t.mig.stopblk = mailWord r 2 % 2 ^ 32 ∧ t.mig.maxpass = mailWord r 2 / 2 ^ 32 % 256 ∧
        t.mig.ports = BitVec.ofNat 18 (mailWord r 3))) ∧
  (∀ s : State, Asked s 0x21 →
    ((s.mig.dir = 1 ∧ s.mig.func = askedFor s ∧ s.mig.phase = 1) →
      ∃ t, exec .migStopnow s = .next t ∧ Answered s t 0 ∧ t = { s with mail := t.mail, mig := { s.mig with stopnow := true } }) ∧
    (¬(s.mig.dir = 1 ∧ s.mig.func = askedFor s ∧ s.mig.phase = 1) → ∃ t, exec .migStopnow s = .next t ∧ Declined s t 7)) ∧
  (∀ (s : State) (f : Nat), Asked s 0x22 → f = askedFor s →
    (s.mig.dir = 1 → s.mig.func = f → s.mig.phase ≤ 5 → s.mig.switched = false → s.mig.flrHeld = false →
      ∃ t, exec .migAbort s = .next t ∧ Answered s t 0 ∧ OutOver s t f false ∧ t.mig.event.getLsbD 2 = true) ∧
    (s.mig.dir ≠ 1 → ∃ t, exec .migAbort s = .next t ∧ Declined s t 7)) ∧
  (∀ (s : State) (f : Nat) (r : MailReq), r = s.inp.mail → Asked s 0x23 → f = askedFor s → f ≠ 0 → (s.func f).vfOn = true →
    (s.mig.inFunc ≠ none ∨ (s.func f).part = true ∨ (s.func f).flr = true → ∃ t, exec .migIn s = .next t ∧ Declined s t 4) ∧
    (s.mig.inFunc = none → (s.func f).part = false → (s.func f).flr = false →
      (∀ x, s.rectRefusal f r = some x → ∃ t, exec .migIn s = .next t ∧ Declined s t x.toNat) ∧
      (s.rectRefusal f r = none →
        ∃ t, exec .migIn s = .next t ∧ Answered s t 0 ∧ t.mig.inFunc = some f ∧ t.mig.inSrc = BitVec.ofNat 16 (mailWord r 9) ∧
          t.mig.inPhase = 1 ∧ (t.func f).rects = (rectWords r).map rectOf ∧ (t.func f).quota = mailQuota r ∧
          (t.func f).part = false ∧ (t.func f).fetchOff = true ∧ (t.func f).placeOff = true))) ∧
  (∀ (s : State) (f : Nat), f = s.inp.func → s.mig.dir = 1 → s.mig.func = f → s.mig.flrHeld = false →
    (s.mig.phase = 0 → ∃ t, exec .nodest s = .next t ∧ OutOver s t f false ∧ t.mail.done = true ∧ t.mail.busy = false ∧
      t.mail.resp = BitVec.ofNat 128 (8 + mailCmd s.mail.req * 2 ^ 8 + mailFunc s.mail.req * 2 ^ 16)) ∧
    (s.mig.phase ≠ 0 → s.mig.phase ≤ 6 → s.mig.switched = true →
      exec .migDestTimeout s = .next ((s.emit (.report 0x161)).hasp s.mig.dest 0xF5 f)) ∧
    (3 ≤ s.mig.phase → s.mig.phase ≤ 6 → s.mig.switched = false →
      ∃ t, exec .migDestTimeout s = .next t ∧ OutOver s t f false ∧ t.mig.event.getLsbD 3 = true) ∧
    (∀ pg e, s.mig.phase = 1 → s.mig.err = false → (s.func f).place = [(pg, e)] → plV e = true → plPool e = false →
      (s.mig.pass = 0 → ∃ t, exec .precopyPassEnd s = .next t ∧ t.mig.pass = 1 ∧ t.mig.resid = 16 ∧ t.mem = s.mem ∧
        (∀ i, i < 16 → tget false t.dirty (plLoc e / 4096 + i) = false) ∧
        (16 ≤ s.mig.stopblk ∨ s.mig.stopnow = true → t.mig.phase = 2 ∧ (t.func f).placeOff = true) ∧
        (s.mig.stopblk < 16 → s.mig.stopnow = false →
          t.mig.phase = (if s.mig.maxpass = 1 then 2 else 1) ∧ (s.mig.maxpass = 1 → t.mig.event.getLsbD 6 = true))) ∧
      (s.mig.pass ≠ 0 → s.dirty = [] → ∃ t, exec .precopyPassEnd s = .next t ∧ t.mig.resid = 0 ∧ t.mig.phase = 2 ∧
        (t.func f).placeOff = true)) ∧
    (s.mig.phase = 2 → s.mig.err = false →
      (s.inp.answer = some true →
        ((∀ x ∈ s.tiers, x.func ≠ f) → ∃ t, exec .migPrecheck s = .next t ∧ Quiescing s t f) ∧
        ((∃ x ∈ s.tiers, x.func = f) → exec .migPrecheck s = .next { s with mig := { s.mig with accepted := true } })) ∧
      (s.inp.answer = some false → ∃ t, exec .migPrecheck s = .next t ∧ OutOver s t f false ∧ t.mig.event.getLsbD 1 = true)) ∧
    (s.mig.phase = 3 → (s.mig.err = false → (s.teamsOf (fun _ y => y.func == f) ≠ [] → exec .quiesceDone s = .next s) ∧
        (s.teamsOf (fun _ y => y.func == f) = [] → s.owed = [] → s.streams = [] → s.heldIds = [] → s.cores = [] → s.l2 = [] →
          ∃ t, exec .quiesceDone s = .next t ∧ t.mig.phase = 4 ∧ t.mem = s.mem)) ∧
      ∃ t, exec .stoplate s = .next t ∧ t.mig.phase = 1 ∧ t.mig.event.getLsbD 4 = true ∧ (t.func f).placeOff = false ∧
        (t.func f).fetchOff = (s.func f).flr ∧ (s.func f).vdn ∉ t.homeHold ∧
        ∀ c k, k < 8 → (s.team c k).func = f → (t.team c k).stopping = false) ∧
    (s.mig.phase = 4 →
      (s.streaming = true → exec .quiesceDone s = .next s) ∧
      (s.streaming = false → s.mig.err = false → exec .quiesceDone s = .next { s with mig := { s.mig with phase := 5 } })) ∧
    (s.mig.phase = 5 → s.mig.err = false → s.dirty = [] →
      ∃ t, exec .finalCopyDone s = .next t ∧ t.mig.phase = 6 ∧ t.mig.resid = 0)) ∧
  (∀ (s : State) (f : Nat), s.inp.answer = none → s.mig.inFunc = some f →
    (s.reqsOk f s.inp.reqs = true → exec .migPrecheck s =
      .next (({ s with mig := { s.mig with inPhase := 2 } } : State).hasp s.mig.inSrc 0xF3 f)) ∧
    (s.reqsOk f s.inp.reqs = false → ∃ t, exec .migPrecheck s = .next t ∧ t.mig.inFunc = none ∧ (t.func f).quota = 0)) ∧
  (∀ (s : State) (f : Nat) (r : MailReq), r = s.inp.mail → Asked s 0x28 → f = askedFor s → Settled s f → (s.func f).dirtyUse = 0 →
    ∃ t, exec .ckpt s = .next t ∧ Answered s t 0 ∧ Quiescing s t f ∧ (t.func f).dirtyUse = 0 ∧ t.mig.dir = 3 ∧ t.mig.func = f ∧
      t.mig.tvdn = BitVec.ofNat 16 (mailWord r 1) ∧ t.mig.toff = mailWord r 2 % 2 ^ 44 ∧ t.mig.keep = (mailWord r 3).testBit 0) ∧
  (∀ (s : State) (f : Nat), f = s.inp.func → s.mig.dir = 3 → s.mig.func = f → s.mig.phase = 5 → s.mig.err = false → s.streams = [] →
    s.mig.flrHeld = false → (s.func f).dirtyUse = 0 →
    ∃ t, exec .finalCopyDone s = .next t ∧ OutOver s t f s.mig.keep ∧ t.mig.event.getLsbD 5 = true) ∧
  (∀ (s : State) (f : Nat) (r : MailReq), r = s.inp.mail → Asked s 0x29 → f = askedFor s → Settled s f → (s.func f).dirtyUse = 0 →
    mailWord r 1 % 65536 ≠ 0xFFFF →
    (s.inp.img.magic ≠ 0x4E534901 ∨ s.inp.img.digestOk = false → ∃ t, exec .restoreImg s = .next t ∧ Declined s t 7) ∧
    (s.inp.img.magic = 0x4E534901 → s.inp.img.version = 1 → s.inp.img.digestOk = true → s.inp.img.maxNest < 255 →
      s.reqsOk f s.inp.img.req = true → s.inp.img.blocks = [] → s.launches = [] → s.teams = [] →
      ∃ u : State, exec .restoreImg s = .next ((u.answer r 0).resumeGo f) ∧ u.mig.func = f ∧ u.mig.dir = 3 ∧ u.mig.phase = 7 ∧
        (u.func f).fetchOff = true ∧ (u.func f).placeOff = true ∧ u.mem = s.mem ∧ ∀ q, q < 64 →
          let b := (s.inp.bytes.drop (256 + 64 * q)).take 64
          (u.queue f q).base = BitVec.ofNat 64 (leNat (b.take 8)) ∧ (u.queue f q).head = BitVec.ofNat 32 (leNat ((b.drop 12).take 4)) ∧
          (u.queue f q).tail = BitVec.ofNat 32 (leNat ((b.drop 20).take 4)))) ∧
  (∀ (s : State) (f : Nat), f = s.inp.func → s.mig.dir = 3 → s.mig.func = f → s.mig.phase = 7 → s.mig.inFunc ≠ some f →
    s.mig.flrHeld = false → (s.func f).dirtyUse = 0 → s.toLoad f = [] →
    ∃ t, exec .distributorPlace s = .next t ∧ OutOver s t f false ∧ t.mig.event.getLsbD 5 = true)

/-- Rights, halts and edits, buffers, trials, sessions and passes (R290 to R304): each request or register write has its
effect where its right is held, and none where it is not. -/
def Obligations.ProbexServes : Prop :=
  (∀ (s : State) (f ctx : Nat), Asked s 0x30 → f = askedFor s → ctx = mailWord s.inp.mail 1 % 256 →
    (f = 0 → ∃ t, exec .dbgGrant s = .next t ∧ Declined s t 5) ∧
    (∀ c b, Settled s f → (s.func f).probex.rights = some (c, b) → c ≠ ctx → ∃ t, exec .dbgGrant s = .next t ∧ Declined s t 4) ∧
    (Settled s f → (s.func f).probex.rights = none → ∃ t, exec .dbgGrant s = .next t ∧ Answered s t 0 ∧
      (t.func f).probex = { (s.func f).probex with rights := some (ctx, BitVec.ofNat 6 (mailWord s.inp.mail 1 / 256)) })) ∧
  (∀ (s : State) (f : Nat), Asked s 0x31 → f = askedFor s → Settled s f →
    ∃ t, exec .dbgRevoke s = .next t ∧ Answered s t 0 ∧ (t.func f).probex.rights = none ∧ (t.func f).probex.trial = false ∧
      (t.func f).probex.pass = false ∧ (t.func f).probex.session = none ∧ (t.func f).dirtyUse ≠ 2 ∧
      (∀ i, i < 16 → (tget 0 (t.func f).probex.bp i).getLsbD 31 = false) ∧
      (∀ b, b < 2 → (tget 0 (t.func f).probex.tbCtrl b).getLsbD 31 = false) ∧
      ∀ x ∈ s.debugGroups f, (t.group x.1 x.2).halted = false) ∧
  (∀ (s : State) (f : Nat), Asked s 0x32 → f = askedFor s → Settled s f →
    (s.holds f rPROF = false → ∃ t, exec .profBegin s = .next t ∧ Declined s t 7) ∧
    (s.holds f rPROF = true → s.idle f = true →
      ((s.func f).dirtyUse ≠ 0 → ∃ t, exec .profBegin s = .next t ∧ Declined s t 4) ∧
      (∀ pg e, (s.func f).dirtyUse = 0 → s.cores = [] → s.l2 = [] → (s.func f).place = [(pg, e)] → plV e = true → plPool e = false →
        ∃ t, exec .profBegin s = .next t ∧ Answered s t 0 ∧ (t.func f).dirtyUse = 2 ∧ (t.func f).probex.passNo = 0 ∧
          (t.func f).probex.session = some (BitVec.ofNat 16 (mailWord s.inp.mail 1), mailWord s.inp.mail 2 % 2 ^ 44) ∧
          ∀ i, i < 16 → tget [] (t.func f).probex.snap (16 * pg + i) = bytesAt s.mem (plLoc e + 4096 * i) 4096))) ∧
  (∀ (s : State) (f : Nat), Asked s 0x33 → f = askedFor s → Settled s f →
    ((s.func f).probex.session = none → ∃ t, exec .profEnd s = .next t ∧ Declined s t 7) ∧
    ((s.func f).probex.session ≠ none → ∃ t, exec .profEnd s = .next t ∧ Answered s t 0 ∧ (t.func f).probex.session = none ∧
      (t.func f).probex.pass = false ∧ (t.func f).dirtyUse = (if (s.func f).dirtyUse = 2 then 0 else (s.func f).dirtyUse))) ∧
  (∀ (s : State) (f c p : Nat) (g : Group), f = s.inp.func → s.debugGroups f = [(c, p)] → p < 64 → g = s.group c p →
    (s.holds f rHALT = false → exec .prbHaltAll s = .next s ∧ exec .prbHaltRelease s = .next s ∧ exec .prbHaltOne s = .next s) ∧
    (s.holds f rHALT = true →
      (g.halted = false → exec .prbHaltAll s = .next (s.setGroup c p
        (if g.atWord then { g with halted := true, held := none } else { g with haltReq := true }))) ∧
      (g.halted = true → exec .prbHaltAll s = .next s ∧
        exec .prbHaltRelease s = .next (s.setGroup c p { g with halted := false, relHalt := true }) ∧
        (s.inp.v.toNat / 2 ^ 16 % 2 ^ 10 = c → s.inp.v.toNat % 2 ^ 6 = p → ∃ t, exec .prbHaltOne s = .next t ∧
          (t.func f).probex.haltCore = c ∧ (t.func f).probex.haltGs = p ∧
          t.group c p = { g with halted := false, relHalt := true })))) ∧
  (∀ (s : State) (f c p ctx : Nat) (r : BitVec 6) (g : Group), f = s.inp.func → (s.func f).probex.rights = some (ctx, r) →
    c = (s.func f).probex.haltCore → p = (s.func f).probex.haltGs → g = s.group c p →
    (r.getLsbD 2 = false → exec .prbEdit s = .next s) ∧
    (r.getLsbD 2 = true → (s.debugGroups f).contains (c, p) = true →
      (g.halted = false → ∃ t, exec .prbEdit s = .next t ∧ (t.func f).probex.editStat = 3 ∧ t.group c p = g) ∧
      (∀ n, g.halted = true → n = (s.inp.v.extractLsb' 8 8).toNat → ∃ t, exec .prbEdit s = .next t ∧ (t.func f).probex.editStat = 0 ∧
        let k := (s.inp.v.extractLsb' 26 2).toNat
        let l := (s.inp.v.extractLsb' 0 7).toNat
        let e := (s.func f).probex.eval
        t.group c p = (match k with
          | 0 => if n < g.nreg ∧ l < 32 then g.vput n l (e.setWidth 32) else g
          | 1 => if n < 64 then g.sput n e else g
          | 2 => if n < 8 then g.kput n (e.setWidth 32) else g
          | _ => if e &&& ~~~modeMask = 0 then { g with mode := e } else g))) ∧
    (∀ t x, r.getLsbD 2 = true → (s.debugGroups f).contains (c, p) = false → s.savedTeams = [t] → t.team.func = f → t.team.ctx = ctx →
      t.core = c → t.groups = [(p, x)] → x.halted = true →
      ∃ u, exec .prbEdit s = .next u ∧ (15 ≤ x.edits.length → (u.func f).probex.editStat = 2 ∧ u.savedTeams = s.savedTeams) ∧
        (x.edits.length < 15 → (u.func f).probex.editStat = 1 ∧ u.savedTeams = [{ t with groups := [(p, { x with edits := x.edits ++
          [{ kind := s.inp.v.extractLsb' 26 2, reg := s.inp.v.extractLsb' 8 8, lane := s.inp.v.extractLsb' 0 7
             val := (s.func f).probex.eval }] })] }]))) ∧
  (∀ (s : State) (f b : Nat) (x : Probex), f = s.inp.func → b = s.inp.buf → x = (s.func f).probex →
    (b < 2 → s.holds f rTRACE = true → exec .tbWptrWrite s = .next (s.setProbex f { x with
      tbWptr := tput 0 x.tbWptr b (s.inp.v &&& 0xBFFFFFE0), tbFull := tput false x.tbFull b false })) ∧
    (s.holds f rTRACE = false → exec .tbWptrWrite s = .next s) ∧
    (exec .causalStart s = .next (if s.holds f rPROF then s.setProbex f { x with prog := [], trial := true } else s)) ∧
    (x.trial = false → exec .causalStop s = .next s) ∧
    (∀ c r, x.rights = some (c, r) → r.getLsbD 4 = true → x.trial = true →
      ∃ t, exec .causalStop s = .next t ∧ (t.func f).probex.trial = false ∧ (t.func f).probex.prog = x.prog) ∧
    (s.holds f rPROF = true → x.session ≠ none → x.pass = false → ∃ t, exec .passStart s = .next t ∧
      (t.func f).probex.pass = true ∧ (t.func f).probex.pcnt = [] ∧ (t.func f).probex.mismatch = false ∧
      (t.func f).probex.enforce = (x.passNo != 0 && !x.noReplay) ∧ (x.passNo ≠ 0 → (t.func f).probex.left = x.log) ∧
      (x.passNo = 0 → (t.func f).probex.log = []) ∧ ∀ e ∈ s.homeBlocks f, tget false t.dirty e.2 = false) ∧
    (∀ ctx r, x.rights = some (ctx, r) → r.getLsbD 4 = true → x.pass = true → s.teamsOf (fun _ y => y.func == f) ≠ [] →
      exec .passEnd s = .next (s.setProbex f { x with ending := true })) ∧
    (∀ ctx r pg e, x.rights = some (ctx, r) → r.getLsbD 4 = true → x.pass = true → s.teamsOf (fun _ y => y.func == f) = [] →
      s.cores = [] → s.l2 = [] → x.openRuns = [] → x.left = [] → tbEn x 0 = false → s.sessionBlocks f ctx = [] → s.setFunc f (s.func f) = s →
      (s.func f).place = [(pg, e)] → plV e = true → plPool e = false →
      (∀ i, i < 16 → (tget [] x.snap (16 * pg + i)).length = 4096) →
      ∃ t, exec .passEnd s = .next t ∧ (t.func f).probex.pass = false ∧ (t.func f).probex.passNo = x.passNo + 1 ∧
        ∀ i k, i < 16 → k < 4096 → byteAt t.mem (plLoc e + 4096 * i + k) =
          if tget false s.dirty (plLoc e / 4096 + i) then (tget [] x.snap (16 * pg + i)).getD k 0
          else byteAt s.mem (plLoc e + 4096 * i + k)) ∧
    (s.atomWaits f s.inp.slice = none → exec .replayAtomicTimeout s = .next s) ∧
    (∀ w, s.atomWaits f s.inp.slice = some w → ∃ t, exec .replayAtomicTimeout s = .next t ∧
      (t.func f).probex.mismatch = true ∧ (t.func f).probex.enforce = false))

/-- Outstanding accesses are performed (R237 to R250, R417), shutters flip (R220 to R222), the matrix unit (R439) and the
transfer engine (R230, R454) complete their work, and a core's schedulers move (R61, R191, R264, R291, R405): a lane's value reaches its
registers or its place, its wait counter falls, and imprecise faults are taken at a boundary. -/
def Obligations.WorkIsPerformed : Prop :=
  (∀ (s : State) (c p : Nat) (a : Access) (x : LanePart), OneLane s c p a x →
    (∀ b o, x.loc = .own b o → NoneWait s c →
      (a.op = .load → ∃ t, exec .loadComplete s = .next t ∧ Loaded s t c p a x ((s.core c).scrNum b o a.bytes) ∧ Words t c (s.core c)) ∧
      (a.op = .store → ∃ t, exec .storeAck s = .next t ∧ Stored s t c p ∧ Words t c ((s.core c).scrPut b o a.bytes x.data.toNat)) ∧
      (∀ k, a.op = .atom k → ∃ t, exec .loadComplete s = .next t ∧ Loaded s t c p a x ((s.core c).scrNum b o a.bytes) ∧
        Words t c ((s.core c).scrPut b o a.bytes (a.newVal x ((s.core c).scrNum b o a.bytes))))) ∧
    (∀ d c' b, x.loc = .dist d → s.distBank c (s.group c p).team d = some (c', b) → NoneWait s c' →
      (a.op = .load → ∃ t, exec .clusterAgentDelivery s = .next t ∧ Loaded s t c p a x ((s.core c').scrNum b (saOff d) a.bytes)) ∧
      (a.op = .store → ∃ t, exec .clusterAgentDelivery s = .next t ∧ Stored s t c p ∧
        Words t c' ((s.core c').scrPut b (saOff d) a.bytes x.data.toNat))) ∧
    (∀ pa, x.loc = .home pa → InSector s c pa a.bytes → (s.func (s.team c (s.group c p).team).func).probex.pass = false →
      (a.op = .load →
        ∃ t, exec .loadComplete s = .next t ∧ Loaded s t c p a x (numAt s.mem pa a.bytes) ∧ ((s.core c).l1 = [] → t.mem = s.mem)) ∧
      (a.op = .store → 2 ≤ a.scope.code.toNat →
        ∃ t, exec .storeAck s = .next t ∧ Stored s t c p ∧ WroteAt s.mem t.mem pa (leBytes a.bytes x.data.toNat)) ∧
      (a.op = .store → a.scope.code.toNat < 2 → a.strm ≠ 2 → ∃ t y, exec .storeAck s = .next t ∧ Stored s t c p ∧
        ((s.core c).l1 = [] → t.mem = s.mem) ∧ t.l1Get c (pa / 32) = some y ∧ y.dirty = byteMask (pa % 32) a.bytes ∧
        y.num (pa % 32) a.bytes = x.data.toNat % 2 ^ (8 * a.bytes)) ∧
      (∀ k, a.op = .atom k → 3 ≤ a.scope.code.toNat → ∃ t, exec .loadComplete s = .next t ∧
        Loaded s t c p a x (numAt s.mem pa a.bytes) ∧
        WroteAt s.mem t.mem pa (leBytes a.bytes (a.newVal x (numAt s.mem pa a.bytes))))) ∧
    (∀ st, x.loc = .err st → st ≠ 0 → a.op = .load → (s.group c p).impr = [] → ∃ t, exec .loadComplete s = .next t ∧
      (t.group c p).acc = [] ∧ (t.group c p).ld = (s.group c p).ld - 1 ∧ (t.group c p).v = (s.group c p).v ∧
      (t.group c p).s = (s.group c p).s ∧
      (t.group c p).impr = [{ cause := cRemote, info := st.toNat, addr := BitVec.ofNat 64 x.faddr }])) ∧
  (∀ (s : State) (c : Nat) (e : Flip), c = s.inp.core → (s.core c).flips[s.inp.pos]? = some e →
    ((∃ x ∈ (s.core c).flips.take s.inp.pos, x.team = e.team) → exec .shutFlip s = .next s) ∧
    ((∀ x ∈ (s.core c).flips.take s.inp.pos, x.team ≠ e.team) → e.begun = false →
      ∃ t, exec .shutFlip s = .next t ∧ (t.core c).flips =
        (s.core c).flips.set s.inp.pos { e with begun := true, bank := (s.core c).cacheWays.headD 0 }) ∧
    ((∀ x ∈ (s.core c).flips.take s.inp.pos, x.team ≠ e.team) → e.begun = true →
      (if e.giveUp then s.flipBusy c e else s.evicting c) = true → exec .shutFlip s = .next s) ∧
    ((∀ x ∈ (s.core c).flips.take s.inp.pos, x.team ≠ e.team) → e.begun = true →
      (if e.giveUp then s.flipBusy c e else s.evicting c) = false → (s.group c e.gs).live = true → ∃ t, exec .shutFlip s = .next t ∧
      (∀ w, w < 4096 → (t.core c).word e.bank w = {}) ∧
      (t.core c).shut = (s.core c).shut.set e.bank (if e.giveUp then .cache else if e.fifo then .fifo else .scratch) ∧
      (t.core c).flips = (s.core c).flips.eraseIdx s.inp.pos ∧ (t.group c e.gs).cp = (s.group c e.gs).cp - 1 ∧
      (t.team c e.team).win = (s.team c e.team).win ++ (if e.giveUp = false ∧ e.fifo = false then [(e.num, e.bank)] else []) ∧
      (t.team c e.team).fifo = (s.team c e.team).fifo ++ (if e.giveUp = false ∧ e.fifo = true then [(e.num, e.bank)] else []))) ∧
  (∀ (s : State) (c : Nat) (o : TileOp) (ts : List Nat), c = s.inp.core → (s.core c).tq = [o] → o.kind = .zero ts →
    ((∃ b ∈ o.before, ∃ a ∈ (s.group c b.1).acc, a.id = b.2) → exec .tileOpComplete s = .next s) ∧
    (o.before = [] → ∃ t, exec .tileOpComplete s = .next t ∧ (t.core c).tq = [] ∧ (t.group c o.gs).tl = (s.group c o.gs).tl - 1 ∧
      ∀ k i j, i < 64 → j < 64 → (t.core c).accAt k i j = if k ∈ ts then 0 else (s.core c).accAt k i j)) ∧
  (∀ (s : State) (c : Nat) (x : CteDesc) (src dst : W64) (a1 a2 : W32) (len b1 o1 b2 o2 : Nat), c = s.inp.core → s.inp.pos = 0 →
    s.desc? c s.inp.desc = some x → x.kind = .copy src dst len 1 1 0 0 0 0 → noLatch x.latch = true → x.done = [] → x.count = 0 →
    (s.core c).stop = false → 1 ≤ len → dst.toNat % 4096 + len ≤ 4096 → src.toNat % 16384 + len ≤ 16384 →
    globTgt src = .scr a1 → globTgt dst = .scr a2 → NoneWait s c →
    s.scratchLoc c (s.group c x.gs).team a1 = some (.own b1 o1) → s.scratchLoc c (s.group c x.gs).team a2 = some (.own b2 o2) →
    (s.team c (s.group c x.gs).team).term = false →
    ∃ t, exec .cteUnitComplete s = .next t ∧ t.desc? c s.inp.desc = none ∧ (t.group c x.gs).cp = (s.group c x.gs).cp - 1 ∧
      Words t c ((s.core c).scrPut b2 o2 len ((s.core c).scrNum b1 o1 len)) ∧ t.mem = s.mem) ∧
  (∀ (s : State) (c k p : Nat), c = s.inp.core → k = s.inp.slot → p ∈ s.slotReady c k → 64 ≤ (s.group c p).starve →
    (∀ q ∈ s.slotReady c k, q ≠ p → 64 ≤ (s.group c q).starve → (s.group c p).age < (s.group c q).age) →
    exec .starvationWin s = .next { s with cur := { core := c, gs := p, go := true } }) ∧
  (∀ (s : State) (c p : Nat), c = s.inp.core → p = s.inp.gs →
    exec .yieldDelayExpire s = .next (if (s.group c p).yieldClk = 1 then s.setGroup c p { s.group c p with yieldClk := 0 } else s) ∧
    exec .causalDelayExpire s = .next (if (s.group c p).causalClk = 1 then s.setGroup c p { s.group c p with causalClk := 0 } else s) ∧
    ((s.group c p).ready = false → exec .impreciseFaultDelivery s = .next s ∧ exec .remoteAccessFault s = .next s) ∧
    (∀ i l, CanTake s c p → (s.group c p).impr = i :: l →
      (∃ t, exec .impreciseFaultDelivery s = .next t ∧ TookFault s t c p i ∧ (t.group c p).impr = l) ∧
      (i.cause = cRemote → ∃ t, exec .remoteAccessFault s = .next t ∧ TookFault s t c p i ∧ (t.group c p).impr = l))) ∧
  (∀ s : State, exec .syncClr s = .next (if s.inp.v.getLsbD 0 then { s with syncDrop := 0 } else s)) ∧
  (∀ (s : State) (c k : Nat), c = s.inp.core → k = s.sampleEvery c → (s.core c).sampleDue = false →
    exec .sampleInterval s =
      .next (if k ≠ 0 ∧ k ≤ (s.core c).sampleClk then s.setCore c { s.core c with sampleDue := true } else s))

/-- A step of a group that is to issue: when the eight bytes of HBM at its position decode to an instruction, and no trap,
halt or breakpoint comes first, the step is exec of that instruction, counted; the count changes no memory and nothing of
a group but how long it has waited. A word that decodes to nothing takes the illegal-instruction trap. With no group to
issue, the head of the agenda runs, an event as exec of it. A tripped module takes no step but a cold start (R16, R307, R320, R329). -/
def Obligations.StepRunsTheDecodedInstruction : Prop :=
  (∀ (s t : State) (e : TlbEntry) (pa : Nat), s.boot.halt ≠ .tripped → s.cur.go = true →
    t = { s with cur := { s.cur with go := false } } → s.cg.live = true → s.cg.allExited = false → s.cg.impr = [] →
    s.cg.woff ≠ 0 → s.cg.woff < s.cg.blen → s.cg.haltReq = false → s.right s.ct.func s.ct.ctx rREAD = false →
    s.right s.ct.func s.ct.ctx rHALT = false → s.cg.addr.toNat < 2 ^ 55 → s.xlOf s.cur.core s.cur.gs s.cg.addr 3 = some e →
    e.loc.add (s.cg.addr.toNat % 65536) = .home pa → s.poison = [] → s.weak = [] →
    let r := decodeBytes (bytesAt s.mem pa 8)
    (∀ i, r = .ok (i, []) → step s = match exec i t with
      | .next u => .next (t.afterIssue i u)
      | .fault x => .fault x
      | .refused x => .refused x) ∧
    (∀ x, r = .error x → step s = .next (t.takeTrap s.cur.core s.cur.gs 1 0 false 0 0 s.cg.pos))) ∧
  (∀ (s u : State) (i : Instr), (s.afterIssue i u).mem = u.mem ∧ (s.afterIssue i u).teams = u.teams ∧
    ∀ c p, (s.afterIssue i u).group c p = { u.group c p with
      starve := ((s.afterIssue i u).group c p).starve, causalClk := ((s.afterIssue i u).group c p).causalClk }) ∧
  (∀ (s : State) (i : Instr) (x : EventArgs) (rest : List Turn), s.boot.halt ≠ .tripped → s.cur.go = false →
    s.agenda = .event i x :: rest →
    (i.isWord = false → step s = exec i { s with agenda := rest, inp := x }) ∧
    (i.isWord = true → step s = .next { s with agenda := rest })) ∧
  (∀ s : State, s.boot.halt = .tripped → (∀ x rest, s.agenda ≠ .event .coldStart x :: rest) → step s = .fault .clocksStopped)

/-- Words that the spec writes out decode to the instructions it writes beside them (R326, R331, R357, R365, R400, R406,
R424, R426, R442, and the worked examples of files 14 to 21). -/
def Obligations.SpecWordsDecode : Prop :=
  decode 0x2460803860900405 = .ok (.ffma { d := 4, a := 1, b := 0xC3, c := 4, na := true, aa := false, nb := false, ab := false
                                           nc := false, ac := false, clamp := false, dsc := .one, ty := .f32
                                           g := { neg := false, k := 2 }, sp := true }) ∧
  decode 0x40881228063470F2 = .ok (.pair { h0 := { cop := 1, d := 8, a := 9, b := 10, na := false, nb := false, t := false }
                                           h1 := { cop := 3, d := 13, a := 14, b := 15, na := false, nb := false, t := true }
                                           sp := false }) ∧
  decode 0x6022989FE0080C40 = .ok (.ld { d := 0x14, base := 0xC4, idx := 0xFF, ofs := 0x40, scope := .device, strm := 0, size := .b32
                                         g := { neg := false, k := 0 }, sp := false }) ∧
  decode 0x80400601FFFFF800 = .ok (.bany { a := 0, mask := { neg := false, k := 3 }, b := 0, ofs := 0xFFFFFC, imm := 0, sp := false }) ∧
  decode 0x2700E0601C400400 = .ok (.cvt { d := 7, a := 3, b := 0, c := 0xE2, na := false, aa := false, nb := false, ab := false
                                          nc := false, ac := false, clamp := false, dsc := .one, ty := .f32
                                          g := { neg := false, k := 0 }, sp := false }) ∧
  decode 0xE060200000600000 = .ok (.mfsr { d := 1, a := 0, sreg := 3, imm := 0, g := { neg := false, k := 0 }, sp := false }) ∧
  decode 0x8200040000001C00 = .ok (.ifW { a := 0, mask := { neg := false, k := 2 }, b := 0, ofs := 14, imm := 0, sp := false }) ∧
  decode 0x612058BFE0000040 = .ok (.ldwFE { d := 2, base := 0xC5, idx := 0xFF, ofs := 0, scope := .plain, strm := 0, size := .b32
                                            g := { neg := false, k := 0 }, sp := false }) ∧
  decode 0x614078BFE0000040 = .ok (.stwE { d := 3, base := 0xC5, idx := 0xFF, ofs := 0, scope := .plain, strm := 0, size := .b32
                                           g := { neg := false, k := 0 }, sp := false }) ∧
  decode 0x6800D900A0020C40 = .ok (.atomAdd { d := 6, base := 0xC8, idx := 5, ofs := 0x10, scope := .device, strm := 0, size := .b32
                                              g := { neg := false, k := 0 }, sp := false }) ∧
  decode 0xA040595980000000 = .ok (.tmmag { td := 2, ra := 0xCA, rb := 0xCC, aux := 0, fn := 0, g := { neg := false, k := 0 }, sp := false }) ∧
  decode 0xC038800000002000 = .ok (.movi { d := 0xC4, a := 0, imm := 0x100, g := { neg := false, k := 0 }, sp := false })

/-- Encoding and decoding agree, for every instruction word with every operand at every value its encoding admits: a
well-formed word's encoding decodes to it, a word that decodes is the encoding of what it decodes to, which is well formed,
and an event has no word (R307 to R319, R326 to R331). -/
def Obligations.EncodingAndDecodingAgree : Prop :=
  (∀ i : Instr, i.isWord = true → i.wf = true → ∃ w, encode i = some w ∧ decode w = .ok i) ∧
  (∀ (w : W64) (i : Instr), decode w = .ok i → i.isWord = true ∧ i.wf = true ∧ encode i = some w) ∧
  (∀ i : Instr, i.isWord = false → encode i = none)

/-- Every step keeps memory in its canonical form: addresses rise strictly and no listed byte is zero, so that equal
memories are equal data. -/
def Obligations.StepsKeepMemoryCanonical : Prop :=
  ∀ s t : State, Memory.wf s.mem = true → step s = .next t → Memory.wf t.mem = true

/-- The machine before its first start: memory is canonical and reads zero everywhere, nothing is running, resident or
outstanding, and the registers hold the reset values the spec gives them: AGE 10, LOGN 4, and zero in the other queue registers and
in the mailbox, migration, error and Probex registers (R98, R99, R147, R149, R182, R264). -/
def Obligations.ResetState : Prop :=
  Memory.wf State.reset.mem = true ∧ (∀ a, byteAt State.reset.mem a = 0) ∧ State.reset.groups = [] ∧ State.reset.teams = [] ∧
  State.reset.launches = [] ∧ State.reset.streams = [] ∧ State.reset.age = 10 ∧
  State.reset.boot.halt = .none_ ∧ State.reset.mail.done = false ∧ State.reset.mig.event = 0 ∧ State.reset.mecUe = 0 ∧
  State.reset.syncDrop = 0 ∧
  ∀ f q, (State.reset.queue f q).base = 0 ∧ (State.reset.queue f q).cfg = 4 ∧ (State.reset.queue f q).head = 0 ∧
    (State.reset.queue f q).done = 0 ∧ (State.reset.queue f q).tail = 0 ∧ (State.reset.func f).probex.rights = none
end

