-- ==== Sys2Proof/Laws/PerInstr.lean ====
section
/-! SUPPORT. What holds of each instruction as syntax, one lemma for each constructor. -/

namespace Sys2Proof.Laws.WordOrEvent

/-- An instruction has a word exactly when it is no event, and an event is always well formed (R307, R331). -/
def Statement (i : Instr) : Prop := (encode i).isSome = i.isWord ∧ (i.isWord = false → i.wf = true)

theorem pair (f : PForm) : Statement (.pair f) := ⟨rfl, fun h => by cases h⟩
theorem iadd (f : VForm) : Statement (.iadd f) := ⟨rfl, fun h => by cases h⟩
theorem isub (f : VForm) : Statement (.isub f) := ⟨rfl, fun h => by cases h⟩
theorem imul (f : VForm) : Statement (.imul f) := ⟨rfl, fun h => by cases h⟩
theorem imulh (f : VForm) : Statement (.imulh f) := ⟨rfl, fun h => by cases h⟩
theorem imad (f : VForm) : Statement (.imad f) := ⟨rfl, fun h => by cases h⟩
theorem imin (f : VForm) : Statement (.imin f) := ⟨rfl, fun h => by cases h⟩
theorem imax (f : VForm) : Statement (.imax f) := ⟨rfl, fun h => by cases h⟩
theorem icmp (f : VForm) : Statement (.icmp f) := ⟨rfl, fun h => by cases h⟩
theorem isel (f : VForm) : Statement (.isel f) := ⟨rfl, fun h => by cases h⟩
theorem lea (f : VForm) : Statement (.lea f) := ⟨rfl, fun h => by cases h⟩
theorem andV (f : VForm) : Statement (.andV f) := ⟨rfl, fun h => by cases h⟩
theorem orV (f : VForm) : Statement (.orV f) := ⟨rfl, fun h => by cases h⟩
theorem xorV (f : VForm) : Statement (.xorV f) := ⟨rfl, fun h => by cases h⟩
theorem andn (f : VForm) : Statement (.andn f) := ⟨rfl, fun h => by cases h⟩
theorem shl (f : VForm) : Statement (.shl f) := ⟨rfl, fun h => by cases h⟩
theorem shr (f : VForm) : Statement (.shr f) := ⟨rfl, fun h => by cases h⟩
theorem sar (f : VForm) : Statement (.sar f) := ⟨rfl, fun h => by cases h⟩
theorem bfe (f : VForm) : Statement (.bfe f) := ⟨rfl, fun h => by cases h⟩
theorem bfi (f : VForm) : Statement (.bfi f) := ⟨rfl, fun h => by cases h⟩
theorem popc (f : VForm) : Statement (.popc f) := ⟨rfl, fun h => by cases h⟩
theorem clz (f : VForm) : Statement (.clz f) := ⟨rfl, fun h => by cases h⟩
theorem brev (f : VForm) : Statement (.brev f) := ⟨rfl, fun h => by cases h⟩
theorem idp4 (f : VForm) : Statement (.idp4 f) := ⟨rfl, fun h => by cases h⟩
theorem fdp2 (f : VForm) : Statement (.fdp2 f) := ⟨rfl, fun h => by cases h⟩
theorem fadd (f : VForm) : Statement (.fadd f) := ⟨rfl, fun h => by cases h⟩
theorem fsub (f : VForm) : Statement (.fsub f) := ⟨rfl, fun h => by cases h⟩
theorem fmul (f : VForm) : Statement (.fmul f) := ⟨rfl, fun h => by cases h⟩
theorem ffma (f : VForm) : Statement (.ffma f) := ⟨rfl, fun h => by cases h⟩
theorem fmin (f : VForm) : Statement (.fmin f) := ⟨rfl, fun h => by cases h⟩
theorem fmax (f : VForm) : Statement (.fmax f) := ⟨rfl, fun h => by cases h⟩
theorem fcmp (f : VForm) : Statement (.fcmp f) := ⟨rfl, fun h => by cases h⟩
theorem fsel (f : VForm) : Statement (.fsel f) := ⟨rfl, fun h => by cases h⟩
theorem frnd (f : VForm) : Statement (.frnd f) := ⟨rfl, fun h => by cases h⟩
theorem fclass (f : VForm) : Statement (.fclass f) := ⟨rfl, fun h => by cases h⟩
theorem frcp (f : VForm) : Statement (.frcp f) := ⟨rfl, fun h => by cases h⟩
theorem frsq (f : VForm) : Statement (.frsq f) := ⟨rfl, fun h => by cases h⟩
theorem fsqrt (f : VForm) : Statement (.fsqrt f) := ⟨rfl, fun h => by cases h⟩
theorem fexp2 (f : VForm) : Statement (.fexp2 f) := ⟨rfl, fun h => by cases h⟩
theorem flog2 (f : VForm) : Statement (.flog2 f) := ⟨rfl, fun h => by cases h⟩
theorem fsin (f : VForm) : Statement (.fsin f) := ⟨rfl, fun h => by cases h⟩
theorem fcos (f : VForm) : Statement (.fcos f) := ⟨rfl, fun h => by cases h⟩
theorem ftanh (f : VForm) : Statement (.ftanh f) := ⟨rfl, fun h => by cases h⟩
theorem cvt (f : VForm) : Statement (.cvt f) := ⟨rfl, fun h => by cases h⟩
theorem pack (f : VForm) : Statement (.pack f) := ⟨rfl, fun h => by cases h⟩
theorem unpack (f : VForm) : Statement (.unpack f) := ⟨rfl, fun h => by cases h⟩
theorem rand (f : VForm) : Statement (.rand f) := ⟨rfl, fun h => by cases h⟩
theorem mov (f : VForm) : Statement (.mov f) := ⟨rfl, fun h => by cases h⟩
theorem shfl (f : VForm) : Statement (.shfl f) := ⟨rfl, fun h => by cases h⟩
theorem shflx (f : VForm) : Statement (.shflx f) := ⟨rfl, fun h => by cases h⟩
theorem shflup (f : VForm) : Statement (.shflup f) := ⟨rfl, fun h => by cases h⟩
theorem shfldn (f : VForm) : Statement (.shfldn f) := ⟨rfl, fun h => by cases h⟩
theorem shflr (f : VForm) : Statement (.shflr f) := ⟨rfl, fun h => by cases h⟩
theorem vote (f : VForm) : Statement (.vote f) := ⟨rfl, fun h => by cases h⟩
theorem ballot (f : VForm) : Statement (.ballot f) := ⟨rfl, fun h => by cases h⟩
theorem matchV (f : VForm) : Statement (.matchV f) := ⟨rfl, fun h => by cases h⟩
theorem vred (f : VForm) : Statement (.vred f) := ⟨rfl, fun h => by cases h⟩
theorem vscan (f : VForm) : Statement (.vscan f) := ⟨rfl, fun h => by cases h⟩
theorem vstep (f : VForm) : Statement (.vstep f) := ⟨rfl, fun h => by cases h⟩
theorem rdfirst (f : VForm) : Statement (.rdfirst f) := ⟨rfl, fun h => by cases h⟩
theorem rdlane (f : VForm) : Statement (.rdlane f) := ⟨rfl, fun h => by cases h⟩
theorem wrlane (f : VForm) : Statement (.wrlane f) := ⟨rfl, fun h => by cases h⟩
theorem kand (f : VForm) : Statement (.kand f) := ⟨rfl, fun h => by cases h⟩
theorem kor (f : VForm) : Statement (.kor f) := ⟨rfl, fun h => by cases h⟩
theorem kxor (f : VForm) : Statement (.kxor f) := ⟨rfl, fun h => by cases h⟩
theorem knot (f : VForm) : Statement (.knot f) := ⟨rfl, fun h => by cases h⟩
theorem kmov (f : VForm) : Statement (.kmov f) := ⟨rfl, fun h => by cases h⟩
theorem kpop (f : VForm) : Statement (.kpop f) := ⟨rfl, fun h => by cases h⟩
theorem kffs (f : VForm) : Statement (.kffs f) := ⟨rfl, fun h => by cases h⟩
theorem vxec (f : VForm) : Statement (.vxec f) := ⟨rfl, fun h => by cases h⟩
theorem spawn (f : VForm) : Statement (.spawn f) := ⟨rfl, fun h => by cases h⟩
theorem ld (f : MForm) : Statement (.ld f) := ⟨rfl, fun h => by cases h⟩
theorem st (f : MForm) : Statement (.st f) := ⟨rfl, fun h => by cases h⟩
theorem lds (f : MForm) : Statement (.lds f) := ⟨rfl, fun h => by cases h⟩
theorem sts (f : MForm) : Statement (.sts f) := ⟨rfl, fun h => by cases h⟩
theorem ldAcq (f : MForm) : Statement (.ldAcq f) := ⟨rfl, fun h => by cases h⟩
theorem stRel (f : MForm) : Statement (.stRel f) := ⟨rfl, fun h => by cases h⟩
theorem ldwF (f : MForm) : Statement (.ldwF f) := ⟨rfl, fun h => by cases h⟩
theorem ldwFE (f : MForm) : Statement (.ldwFE f) := ⟨rfl, fun h => by cases h⟩
theorem stwE (f : MForm) : Statement (.stwE f) := ⟨rfl, fun h => by cases h⟩
theorem tagset (f : MForm) : Statement (.tagset f) := ⟨rfl, fun h => by cases h⟩
theorem tagclr (f : MForm) : Statement (.tagclr f) := ⟨rfl, fun h => by cases h⟩
theorem ldfrag (f : MForm) : Statement (.ldfrag f) := ⟨rfl, fun h => by cases h⟩
theorem ldfragT (f : MForm) : Statement (.ldfragT f) := ⟨rfl, fun h => by cases h⟩
theorem larm (f : MForm) : Statement (.larm f) := ⟨rfl, fun h => by cases h⟩
theorem barinit (f : MForm) : Statement (.barinit f) := ⟨rfl, fun h => by cases h⟩
theorem barr (f : MForm) : Statement (.barr f) := ⟨rfl, fun h => by cases h⟩
theorem bwait (f : MForm) : Statement (.bwait f) := ⟨rfl, fun h => by cases h⟩
theorem arrw (f : MForm) : Statement (.arrw f) := ⟨rfl, fun h => by cases h⟩
theorem fenceAcq (f : MForm) : Statement (.fenceAcq f) := ⟨rfl, fun h => by cases h⟩
theorem fenceRel (f : MForm) : Statement (.fenceRel f) := ⟨rfl, fun h => by cases h⟩
theorem fenceFull (f : MForm) : Statement (.fenceFull f) := ⟨rfl, fun h => by cases h⟩
theorem shutS (f : MForm) : Statement (.shutS f) := ⟨rfl, fun h => by cases h⟩
theorem shutQ (f : MForm) : Statement (.shutQ f) := ⟨rfl, fun h => by cases h⟩
theorem shutC (f : MForm) : Statement (.shutC f) := ⟨rfl, fun h => by cases h⟩
theorem shutCq (f : MForm) : Statement (.shutCq f) := ⟨rfl, fun h => by cases h⟩
theorem qpush (f : MForm) : Statement (.qpush f) := ⟨rfl, fun h => by cases h⟩
theorem qpop (f : MForm) : Statement (.qpop f) := ⟨rfl, fun h => by cases h⟩
theorem pref (f : MForm) : Statement (.pref f) := ⟨rfl, fun h => by cases h⟩
theorem cinvL1 (f : MForm) : Statement (.cinvL1 f) := ⟨rfl, fun h => by cases h⟩
theorem cinvTlb (f : MForm) : Statement (.cinvTlb f) := ⟨rfl, fun h => by cases h⟩
theorem cinvCtx (f : MForm) : Statement (.cinvCtx f) := ⟨rfl, fun h => by cases h⟩
theorem atomAdd (f : MForm) : Statement (.atomAdd f) := ⟨rfl, fun h => by cases h⟩
theorem atomMin (f : MForm) : Statement (.atomMin f) := ⟨rfl, fun h => by cases h⟩
theorem atomMax (f : MForm) : Statement (.atomMax f) := ⟨rfl, fun h => by cases h⟩
theorem atomMinN (f : MForm) : Statement (.atomMinN f) := ⟨rfl, fun h => by cases h⟩
theorem atomMaxN (f : MForm) : Statement (.atomMaxN f) := ⟨rfl, fun h => by cases h⟩
theorem atomAnd (f : MForm) : Statement (.atomAnd f) := ⟨rfl, fun h => by cases h⟩
theorem atomOr (f : MForm) : Statement (.atomOr f) := ⟨rfl, fun h => by cases h⟩
theorem atomXor (f : MForm) : Statement (.atomXor f) := ⟨rfl, fun h => by cases h⟩
theorem atomExch (f : MForm) : Statement (.atomExch f) := ⟨rfl, fun h => by cases h⟩
theorem atomCas (f : MForm) : Statement (.atomCas f) := ⟨rfl, fun h => by cases h⟩
theorem atomFadd (f : MForm) : Statement (.atomFadd f) := ⟨rfl, fun h => by cases h⟩
theorem atomFmin (f : MForm) : Statement (.atomFmin f) := ⟨rfl, fun h => by cases h⟩
theorem atomFmax (f : MForm) : Statement (.atomFmax f) := ⟨rfl, fun h => by cases h⟩
theorem atomIncwrap (f : MForm) : Statement (.atomIncwrap f) := ⟨rfl, fun h => by cases h⟩
theorem redAdd (f : MForm) : Statement (.redAdd f) := ⟨rfl, fun h => by cases h⟩
theorem redMin (f : MForm) : Statement (.redMin f) := ⟨rfl, fun h => by cases h⟩
theorem redMax (f : MForm) : Statement (.redMax f) := ⟨rfl, fun h => by cases h⟩
theorem redMinN (f : MForm) : Statement (.redMinN f) := ⟨rfl, fun h => by cases h⟩
theorem redMaxN (f : MForm) : Statement (.redMaxN f) := ⟨rfl, fun h => by cases h⟩
theorem redAnd (f : MForm) : Statement (.redAnd f) := ⟨rfl, fun h => by cases h⟩
theorem redOr (f : MForm) : Statement (.redOr f) := ⟨rfl, fun h => by cases h⟩
theorem redXor (f : MForm) : Statement (.redXor f) := ⟨rfl, fun h => by cases h⟩
theorem redFadd (f : MForm) : Statement (.redFadd f) := ⟨rfl, fun h => by cases h⟩
theorem redFmin (f : MForm) : Statement (.redFmin f) := ⟨rfl, fun h => by cases h⟩
theorem redFmax (f : MForm) : Statement (.redFmax f) := ⟨rfl, fun h => by cases h⟩
theorem redIncwrap (f : MForm) : Statement (.redIncwrap f) := ⟨rfl, fun h => by cases h⟩
theorem bra (f : CForm) : Statement (.bra f) := ⟨rfl, fun h => by cases h⟩
theorem bany (f : CForm) : Statement (.bany f) := ⟨rfl, fun h => by cases h⟩
theorem ball (f : CForm) : Statement (.ball f) := ⟨rfl, fun h => by cases h⟩
theorem bnone (f : CForm) : Statement (.bnone f) := ⟨rfl, fun h => by cases h⟩
theorem brx (f : CForm) : Statement (.brx f) := ⟨rfl, fun h => by cases h⟩
theorem call (f : CForm) : Statement (.call f) := ⟨rfl, fun h => by cases h⟩
theorem ret (f : CForm) : Statement (.ret f) := ⟨rfl, fun h => by cases h⟩
theorem ifW (f : CForm) : Statement (.ifW f) := ⟨rfl, fun h => by cases h⟩
theorem elseW (f : CForm) : Statement (.elseW f) := ⟨rfl, fun h => by cases h⟩
theorem endifW (f : CForm) : Statement (.endifW f) := ⟨rfl, fun h => by cases h⟩
theorem loopW (f : CForm) : Statement (.loopW f) := ⟨rfl, fun h => by cases h⟩
theorem breakW (f : CForm) : Statement (.breakW f) := ⟨rfl, fun h => by cases h⟩
theorem contW (f : CForm) : Statement (.contW f) := ⟨rfl, fun h => by cases h⟩
theorem endloopW (f : CForm) : Statement (.endloopW f) := ⟨rfl, fun h => by cases h⟩
theorem exitW (f : CForm) : Statement (.exitW f) := ⟨rfl, fun h => by cases h⟩
theorem exits (f : CForm) : Statement (.exits f) := ⟨rfl, fun h => by cases h⟩
theorem movi (f : IForm) : Statement (.movi f) := ⟨rfl, fun h => by cases h⟩
theorem movih (f : IForm) : Statement (.movih f) := ⟨rfl, fun h => by cases h⟩
theorem iaddi (f : IForm) : Statement (.iaddi f) := ⟨rfl, fun h => by cases h⟩
theorem andi (f : IForm) : Statement (.andi f) := ⟨rfl, fun h => by cases h⟩
theorem ori (f : IForm) : Statement (.ori f) := ⟨rfl, fun h => by cases h⟩
theorem xori (f : IForm) : Statement (.xori f) := ⟨rfl, fun h => by cases h⟩
theorem shli (f : IForm) : Statement (.shli f) := ⟨rfl, fun h => by cases h⟩
theorem icmpi (f : IForm) : Statement (.icmpi f) := ⟨rfl, fun h => by cases h⟩
theorem fmovi (f : IForm) : Statement (.fmovi f) := ⟨rfl, fun h => by cases h⟩
theorem leai (f : IForm) : Statement (.leai f) := ⟨rfl, fun h => by cases h⟩
theorem wait (f : IForm) : Statement (.wait f) := ⟨rfl, fun h => by cases h⟩
theorem nop (f : XForm) : Statement (.nop f) := ⟨rfl, fun h => by cases h⟩
theorem yield (f : XForm) : Statement (.yield f) := ⟨rfl, fun h => by cases h⟩
theorem mfsr (f : XForm) : Statement (.mfsr f) := ⟨rfl, fun h => by cases h⟩
theorem mtsr (f : XForm) : Statement (.mtsr f) := ⟨rfl, fun h => by cases h⟩
theorem trap (f : XForm) : Statement (.trap f) := ⟨rfl, fun h => by cases h⟩
theorem trapRet (f : XForm) : Statement (.trapRet f) := ⟨rfl, fun h => by cases h⟩
theorem bkpt (f : XForm) : Statement (.bkpt f) := ⟨rfl, fun h => by cases h⟩
theorem prog (f : XForm) : Statement (.prog f) := ⟨rfl, fun h => by cases h⟩
theorem tmma (f : TForm) : Statement (.tmma f) := ⟨rfl, fun h => by cases h⟩
theorem tmmag (f : TForm) : Statement (.tmmag f) := ⟨rfl, fun h => by cases h⟩
theorem tzero (f : TForm) : Statement (.tzero f) := ⟨rfl, fun h => by cases h⟩
theorem tloada (f : TForm) : Statement (.tloada f) := ⟨rfl, fun h => by cases h⟩
theorem tdrain (f : TForm) : Statement (.tdrain f) := ⟨rfl, fun h => by cases h⟩
theorem hread (f : TForm) : Statement (.hread f) := ⟨rfl, fun h => by cases h⟩
theorem cbook (f : TForm) : Statement (.cbook f) := ⟨rfl, fun h => by cases h⟩
theorem cbookDef (f : TForm) : Statement (.cbookDef f) := ⟨rfl, fun h => by cases h⟩
theorem tsplit (f : TForm) : Statement (.tsplit f) := ⟨rfl, fun h => by cases h⟩
theorem cpy (f : TForm) : Statement (.cpy f) := ⟨rfl, fun h => by cases h⟩
theorem cpy2 (f : TForm) : Statement (.cpy2 f) := ⟨rfl, fun h => by cases h⟩
theorem cpy3 (f : TForm) : Statement (.cpy3 f) := ⟨rfl, fun h => by cases h⟩
theorem fput (f : TForm) : Statement (.fput f) := ⟨rfl, fun h => by cases h⟩
theorem fget (f : TForm) : Statement (.fget f) := ⟨rfl, fun h => by cases h⟩
theorem fsigInstr (f : TForm) : Statement (.fsigInstr f) := ⟨rfl, fun h => by cases h⟩
theorem coll (f : TForm) : Statement (.coll f) := ⟨rfl, fun h => by cases h⟩
theorem ccancel (f : TForm) : Statement (.ccancel f) := ⟨rfl, fun h => by cases h⟩
theorem cstat (f : TForm) : Statement (.cstat f) := ⟨rfl, fun h => by cases h⟩
theorem coldStart : Statement .coldStart := ⟨rfl, fun _ => rfl⟩
theorem warmStart : Statement .warmStart := ⟨rfl, fun _ => rfl⟩
theorem haspMarkPreserved : Statement .haspMarkPreserved := ⟨rfl, fun _ => rfl⟩
theorem supplyOrThermalExcursion : Statement .supplyOrThermalExcursion := ⟨rfl, fun _ => rfl⟩
theorem clockStep : Statement .clockStep := ⟨rfl, fun _ => rfl⟩
theorem moduleTrip : Statement .moduleTrip := ⟨rfl, fun _ => rfl⟩
theorem dataFlitRx : Statement .dataFlitRx := ⟨rfl, fun _ => rfl⟩
theorem linkControlFlitTx : Statement .linkControlFlitTx := ⟨rfl, fun _ => rfl⟩
theorem linkControlFlitRx : Statement .linkControlFlitRx := ⟨rfl, fun _ => rfl⟩
theorem controlFlitTimeout : Statement .controlFlitTimeout := ⟨rfl, fun _ => rfl⟩
theorem parityFlitTx : Statement .parityFlitTx := ⟨rfl, fun _ => rfl⟩
theorem parityFlitRx : Statement .parityFlitRx := ⟨rfl, fun _ => rfl⟩
theorem parityTimeout : Statement .parityTimeout := ⟨rfl, fun _ => rfl⟩
theorem laneBad : Statement .laneBad := ⟨rfl, fun _ => rfl⟩
theorem linkIdleTimeout : Statement .linkIdleTimeout := ⟨rfl, fun _ => rfl⟩
theorem linkRetrainDone : Statement .linkRetrainDone := ⟨rfl, fun _ => rfl⟩
theorem linkFail : Statement .linkFail := ⟨rfl, fun _ => rfl⟩
theorem ezlRetrain : Statement .ezlRetrain := ⟨rfl, fun _ => rfl⟩
theorem ezlWiden : Statement .ezlWiden := ⟨rfl, fun _ => rfl⟩
theorem ezlDisable : Statement .ezlDisable := ⟨rfl, fun _ => rfl⟩
theorem ezlWmarkWrite : Statement .ezlWmarkWrite := ⟨rfl, fun _ => rfl⟩
theorem ezlClear : Statement .ezlClear := ⟨rfl, fun _ => rfl⟩
theorem registerWrite : Statement .registerWrite := ⟨rfl, fun _ => rfl⟩
theorem readReq : Statement .readReq := ⟨rfl, fun _ => rfl⟩
theorem writeReq : Statement .writeReq := ⟨rfl, fun _ => rfl⟩
theorem postedReq : Statement .postedReq := ⟨rfl, fun _ => rfl⟩
theorem atomicReq : Statement .atomicReq := ⟨rfl, fun _ => rfl⟩
theorem fsigReq : Statement .fsigReq := ⟨rfl, fun _ => rfl⟩
theorem cfgrd : Statement .cfgrd := ⟨rfl, fun _ => rfl⟩
theorem cfgwr : Statement .cfgwr := ⟨rfl, fun _ => rfl⟩
theorem mmiord : Statement .mmiord := ⟨rfl, fun _ => rfl⟩
theorem mmiowr : Statement .mmiowr := ⟨rfl, fun _ => rfl⟩
theorem hostrd : Statement .hostrd := ⟨rfl, fun _ => rfl⟩
theorem hostwr : Statement .hostwr := ⟨rfl, fun _ => rfl⟩
theorem hostConfigRequest : Statement .hostConfigRequest := ⟨rfl, fun _ => rfl⟩
theorem hostMmioRequest : Statement .hostMmioRequest := ⟨rfl, fun _ => rfl⟩
theorem cdata : Statement .cdata := ⟨rfl, fun _ => rfl⟩
theorem cbegun : Statement .cbegun := ⟨rfl, fun _ => rfl⟩
theorem mstream : Statement .mstream := ⟨rfl, fun _ => rfl⟩
theorem rdata : Statement .rdata := ⟨rfl, fun _ => rfl⟩
theorem rack : Statement .rack := ⟨rfl, fun _ => rfl⟩
theorem resumeMsg : Statement .resumeMsg := ⟨rfl, fun _ => rfl⟩
theorem abortMsg : Statement .abortMsg := ⟨rfl, fun _ => rfl⟩
theorem streamFreezeTimeout : Statement .streamFreezeTimeout := ⟨rfl, fun _ => rfl⟩
theorem rfaultRetryResend : Statement .rfaultRetryResend := ⟨rfl, fun _ => rfl⟩
theorem freezeConditionClear : Statement .freezeConditionClear := ⟨rfl, fun _ => rfl⟩
theorem freezeConditionPermanent : Statement .freezeConditionPermanent := ⟨rfl, fun _ => rfl⟩
theorem heldRequestSend : Statement .heldRequestSend := ⟨rfl, fun _ => rfl⟩
theorem remoteAccessFault : Statement .remoteAccessFault := ⟨rfl, fun _ => rfl⟩
theorem packetUnknownOp : Statement .packetUnknownOp := ⟨rfl, fun _ => rfl⟩
theorem vdnUpdate : Statement .vdnUpdate := ⟨rfl, fun _ => rfl⟩
theorem vdnDrainComplete : Statement .vdnDrainComplete := ⟨rfl, fun _ => rfl⟩
theorem vdnAck : Statement .vdnAck := ⟨rfl, fun _ => rfl⟩
theorem vdnUpdateRepeat : Statement .vdnUpdateRepeat := ⟨rfl, fun _ => rfl⟩
theorem forwardWindowExpire : Statement .forwardWindowExpire := ⟨rfl, fun _ => rfl⟩
theorem evrec : Statement .evrec := ⟨rfl, fun _ => rfl⟩
theorem hmsg : Statement .hmsg := ⟨rfl, fun _ => rfl⟩
theorem seqReg : Statement .seqReg := ⟨rfl, fun _ => rfl⟩
theorem seqAssign : Statement .seqAssign := ⟨rfl, fun _ => rfl⟩
theorem seqAack : Statement .seqAack := ⟨rfl, fun _ => rfl⟩
theorem seqBegin : Statement .seqBegin := ⟨rfl, fun _ => rfl⟩
theorem seqGrant : Statement .seqGrant := ⟨rfl, fun _ => rfl⟩
theorem seqCancel : Statement .seqCancel := ⟨rfl, fun _ => rfl⟩
theorem seqCresult : Statement .seqCresult := ⟨rfl, fun _ => rfl⟩
theorem seqRetire : Statement .seqRetire := ⟨rfl, fun _ => rfl⟩
theorem seqDone : Statement .seqDone := ⟨rfl, fun _ => rfl⟩
theorem seqMirror : Statement .seqMirror := ⟨rfl, fun _ => rfl⟩
theorem seqMack : Statement .seqMack := ⟨rfl, fun _ => rfl⟩
theorem seqBeat : Statement .seqBeat := ⟨rfl, fun _ => rfl⟩
theorem seqTerm : Statement .seqTerm := ⟨rfl, fun _ => rfl⟩
theorem seqMessageRepeat : Statement .seqMessageRepeat := ⟨rfl, fun _ => rfl⟩
theorem seqBeatTimer : Statement .seqBeatTimer := ⟨rfl, fun _ => rfl⟩
theorem seqBeatTimeout : Statement .seqBeatTimeout := ⟨rfl, fun _ => rfl⟩
theorem takeover : Statement .takeover := ⟨rfl, fun _ => rfl⟩
theorem csqRoleWrite : Statement .csqRoleWrite := ⟨rfl, fun _ => rfl⟩
theorem ceSeqWrite : Statement .ceSeqWrite := ⟨rfl, fun _ => rfl⟩
theorem engineBeginNumber : Statement .engineBeginNumber := ⟨rfl, fun _ => rfl⟩
theorem collDataPhaseComplete : Statement .collDataPhaseComplete := ⟨rfl, fun _ => rfl⟩
theorem collSegmentRepeat : Statement .collSegmentRepeat := ⟨rfl, fun _ => rfl⟩
theorem partSet : Statement .partSet := ⟨rfl, fun _ => rfl⟩
theorem partClear : Statement .partClear := ⟨rfl, fun _ => rfl⟩
theorem badcmd : Statement .badcmd := ⟨rfl, fun _ => rfl⟩
theorem migOut : Statement .migOut := ⟨rfl, fun _ => rfl⟩
theorem migStopnow : Statement .migStopnow := ⟨rfl, fun _ => rfl⟩
theorem migAbort : Statement .migAbort := ⟨rfl, fun _ => rfl⟩
theorem migIn : Statement .migIn := ⟨rfl, fun _ => rfl⟩
theorem nodest : Statement .nodest := ⟨rfl, fun _ => rfl⟩
theorem ckpt : Statement .ckpt := ⟨rfl, fun _ => rfl⟩
theorem restoreImg : Statement .restoreImg := ⟨rfl, fun _ => rfl⟩
theorem dbgGrant : Statement .dbgGrant := ⟨rfl, fun _ => rfl⟩
theorem dbgRevoke : Statement .dbgRevoke := ⟨rfl, fun _ => rfl⟩
theorem profBegin : Statement .profBegin := ⟨rfl, fun _ => rfl⟩
theorem profEnd : Statement .profEnd := ⟨rfl, fun _ => rfl⟩
theorem precopyPassEnd : Statement .precopyPassEnd := ⟨rfl, fun _ => rfl⟩
theorem migPrecheck : Statement .migPrecheck := ⟨rfl, fun _ => rfl⟩
theorem quiesceDone : Statement .quiesceDone := ⟨rfl, fun _ => rfl⟩
theorem stoplate : Statement .stoplate := ⟨rfl, fun _ => rfl⟩
theorem finalCopyDone : Statement .finalCopyDone := ⟨rfl, fun _ => rfl⟩
theorem migDestTimeout : Statement .migDestTimeout := ⟨rfl, fun _ => rfl⟩
theorem notifyStore : Statement .notifyStore := ⟨rfl, fun _ => rfl⟩
theorem qcfgWrite : Statement .qcfgWrite := ⟨rfl, fun _ => rfl⟩
theorem qerrHaltClear : Statement .qerrHaltClear := ⟨rfl, fun _ => rfl⟩
theorem commandFetch : Statement .commandFetch := ⟨rfl, fun _ => rfl⟩
theorem launchCommand : Statement .launchCommand := ⟨rfl, fun _ => rfl⟩
theorem graphCommand : Statement .graphCommand := ⟨rfl, fun _ => rfl⟩
theorem copyCommand : Statement .copyCommand := ⟨rfl, fun _ => rfl⟩
theorem markerCommand : Statement .markerCommand := ⟨rfl, fun _ => rfl⟩
theorem flr : Statement .flr := ⟨rfl, fun _ => rfl⟩
theorem flrComplete : Statement .flrComplete := ⟨rfl, fun _ => rfl⟩
theorem firmwareCapabilityFault : Statement .firmwareCapabilityFault := ⟨rfl, fun _ => rfl⟩
theorem bootApertureWrite : Statement .bootApertureWrite := ⟨rfl, fun _ => rfl⟩
theorem fwcRange : Statement .fwcRange := ⟨rfl, fun _ => rfl⟩
theorem walkComplete : Statement .walkComplete := ⟨rfl, fun _ => rfl⟩
theorem parkedRetry : Statement .parkedRetry := ⟨rfl, fun _ => rfl⟩
theorem flimExpire : Statement .flimExpire := ⟨rfl, fun _ => rfl⟩
theorem haspStage2Refuse : Statement .haspStage2Refuse := ⟨rfl, fun _ => rfl⟩
theorem xlInv : Statement .xlInv := ⟨rfl, fun _ => rfl⟩
theorem xlInvComplete : Statement .xlInvComplete := ⟨rfl, fun _ => rfl⟩
theorem tierMove : Statement .tierMove := ⟨rfl, fun _ => rfl⟩
theorem patrolScrub : Statement .patrolScrub := ⟨rfl, fun _ => rfl⟩
theorem dirtyLineLost : Statement .dirtyLineLost := ⟨rfl, fun _ => rfl⟩
theorem distributorPlace : Statement .distributorPlace := ⟨rfl, fun _ => rfl⟩
theorem launchHold : Statement .launchHold := ⟨rfl, fun _ => rfl⟩
theorem disCtimeTick : Statement .disCtimeTick := ⟨rfl, fun _ => rfl⟩
theorem scrubComplete : Statement .scrubComplete := ⟨rfl, fun _ => rfl⟩
theorem graphNodeRetire : Statement .graphNodeRetire := ⟨rfl, fun _ => rfl⟩
theorem starvationWin : Statement .starvationWin := ⟨rfl, fun _ => rfl⟩
theorem groupEnd : Statement .groupEnd := ⟨rfl, fun _ => rfl⟩
theorem coreStop : Statement .coreStop := ⟨rfl, fun _ => rfl⟩
theorem shutFlip : Statement .shutFlip := ⟨rfl, fun _ => rfl⟩
theorem clusterAgentDelivery : Statement .clusterAgentDelivery := ⟨rfl, fun _ => rfl⟩
theorem loadComplete : Statement .loadComplete := ⟨rfl, fun _ => rfl⟩
theorem storeAck : Statement .storeAck := ⟨rfl, fun _ => rfl⟩
theorem syncClr : Statement .syncClr := ⟨rfl, fun _ => rfl⟩
theorem prbHaltAll : Statement .prbHaltAll := ⟨rfl, fun _ => rfl⟩
theorem prbHaltRelease : Statement .prbHaltRelease := ⟨rfl, fun _ => rfl⟩
theorem prbHaltOne : Statement .prbHaltOne := ⟨rfl, fun _ => rfl⟩
theorem prbEdit : Statement .prbEdit := ⟨rfl, fun _ => rfl⟩
theorem sampleInterval : Statement .sampleInterval := ⟨rfl, fun _ => rfl⟩
theorem tbWptrWrite : Statement .tbWptrWrite := ⟨rfl, fun _ => rfl⟩
theorem causalStart : Statement .causalStart := ⟨rfl, fun _ => rfl⟩
theorem causalStop : Statement .causalStop := ⟨rfl, fun _ => rfl⟩
theorem causalDelayExpire : Statement .causalDelayExpire := ⟨rfl, fun _ => rfl⟩
theorem passStart : Statement .passStart := ⟨rfl, fun _ => rfl⟩
theorem passEnd : Statement .passEnd := ⟨rfl, fun _ => rfl⟩
theorem replayAtomicTimeout : Statement .replayAtomicTimeout := ⟨rfl, fun _ => rfl⟩
theorem yieldDelayExpire : Statement .yieldDelayExpire := ⟨rfl, fun _ => rfl⟩
theorem impreciseFaultDelivery : Statement .impreciseFaultDelivery := ⟨rfl, fun _ => rfl⟩
theorem tileOpComplete : Statement .tileOpComplete := ⟨rfl, fun _ => rfl⟩
theorem cteUnitComplete : Statement .cteUnitComplete := ⟨rfl, fun _ => rfl⟩
theorem dataFlitTx : Statement .dataFlitTx := ⟨rfl, fun _ => rfl⟩
theorem linkNarrowRequest : Statement .linkNarrowRequest := ⟨rfl, fun _ => rfl⟩
theorem communicatorInstall : Statement .communicatorInstall := ⟨rfl, fun _ => rfl⟩
theorem copyCommandComplete : Statement .copyCommandComplete := ⟨rfl, fun _ => rfl⟩
theorem cstatAnswer : Statement .cstatAnswer := ⟨rfl, fun _ => rfl⟩

end Sys2Proof.Laws.WordOrEvent
end

