-- ==== Sys2Proof/Laws/Table.lean ====
section
/-! SUPPORT. Laws of the finite tables and of byte memory: what is read after a write, that other keys keep
their values, and that every operation keeps the canonical form. -/

namespace Sys2Proof.Machine

variable {α : Type} [DecidableEq α]

theorem tget_tdrop (d : α) (t : Tbl α) (k j : Nat) :
    tget d (tdrop t k) j = if j = k then d else tget d t j := by
  induction t with
  | nil => simp [tdrop, tget]
  | cons e t ih =>
    obtain ⟨k', v⟩ := e
    by_cases h : k = k'
    · subst h; by_cases hj : j = k
      · subst hj; simpa [tdrop] using ih
      · simp [tdrop, tget, ih, hj]
    · by_cases hj : j = k
      · subst hj; simpa [tdrop, tget, h] using ih
      · simp [tdrop, tget, ih, h, hj]

/-- A key reads what was last written to it, and every other key what it read before. -/
theorem tget_tput (d : α) (t : Tbl α) (k : Nat) (v : α) (j : Nat) :
    tget d (tput d t k v) j = if j = k then v else tget d t j := by
  induction t with
  | nil =>
    by_cases hv : v = d
    · simp [tput, tget, hv]
    · simp [tput, tget, hv]
  | cons e t ih =>
    obtain ⟨k', v'⟩ := e
    by_cases h1 : k < k'
    · have hne : k ≠ k' := by omega
      by_cases hv : v = d <;> by_cases hj : j = k
      · subst hj; simp [tput, tget, h1, hv, tget_tdrop, hne]
      · simp [tput, tget, h1, hv, tget_tdrop, hj]
      · subst hj; simp [tput, tget, h1, hv]
      · simp [tput, tget, h1, hv, tget_tdrop, hj]
    · by_cases h2 : k = k'
      · subst h2
        by_cases hv : v = d <;> by_cases hj : j = k <;> simp [tput, tget, hv, tget_tdrop, hj]
      · by_cases hj : j = k
        · subst hj; simp [tput, tget, h1, h2, ih]
        · simp [tput, tget, h1, h2, ih, hj]

@[simp] theorem tget_tput_self (d : α) (t : Tbl α) (k : Nat) (v : α) : tget d (tput d t k v) k = v := by
  simp [tget_tput]
theorem tget_tput_ne (d : α) (t : Tbl α) {k j : Nat} (v : α) (h : j ≠ k) :
    tget d (tput d t k v) j = tget d t j := by
  simp [tget_tput, h]

/-! ## The canonical form -/

theorem tblWf_mono {d : α} {lo lo' : Nat} {t : Tbl α} (h : tblWf d lo t = true) (hl : lo' ≤ lo) :
    tblWf d lo' t = true := by
  cases t with
  | nil => rfl
  | cons e t => obtain ⟨k, v⟩ := e; simp [tblWf] at h ⊢; exact ⟨⟨by omega, h.1.2⟩, h.2⟩
theorem tdrop_below (d : α) (t : Tbl α) (k lo : Nat) (h : tblWf d lo t = true) (hk : k < lo) : tdrop t k = t := by
  induction t generalizing lo with
  | nil => rfl
  | cons e t ih =>
    obtain ⟨k', v⟩ := e
    simp [tblWf] at h
    have : k ≠ k' := by omega
    simp [tdrop, this, ih (k' + 1) h.2 (by omega)]
/-- Writing one key keeps the canonical form. -/
theorem tput_wf {d : α} {lo : Nat} {t : Tbl α} (k : Nat) (v : α) (h : tblWf d lo t = true) (hk : lo ≤ k) :
    tblWf d lo (tput d t k v) = true := by
  induction t generalizing lo with
  | nil => by_cases hv : v = d <;> simp [tput, tblWf, hv, hk]
  | cons e t ih =>
    obtain ⟨k', v'⟩ := e
    simp [tblWf] at h
    obtain ⟨⟨h1, h2⟩, h3⟩ := h
    by_cases hlt : k < k'
    · have hd : tdrop t k = t := tdrop_below d t k (k' + 1) h3 (by omega)
      by_cases hv : v = d
      · simp [tput, tblWf, hlt, hv, hd, h1, h2, h3]
      · simp [tput, tblWf, hlt, hv, hd, h2, h3, hk]
    · by_cases he : k = k'
      · subst he
        have hd : tdrop t k = t := tdrop_below d t k (k + 1) h3 (by omega)
        by_cases hv : v = d
        · simp [tput, hv, hd]; exact tblWf_mono h3 (by omega)
        · simp [tput, tblWf, hv, hd, h1, h3]
      · simp [tput, tblWf, hlt, he, h1, h2]
        exact ih h3 (by omega)
/-- Keeping some entries keeps the canonical form. -/
theorem tblWf_filter {d : α} {lo : Nat} {t : Tbl α} (p : Nat × α → Bool) (h : tblWf d lo t = true) :
    tblWf d lo (t.filter p) = true := by
  induction t generalizing lo with
  | nil => rfl
  | cons e t ih =>
    obtain ⟨k, v⟩ := e
    simp [tblWf] at h
    by_cases hp : p (k, v) = true
    · simp [hp, tblWf, h.1]; exact ih h.2
    · simp [hp]; exact tblWf_mono (ih h.2) (by omega)

/-! ## Memory -/

theorem byteAt_setByte (m : List Host.Cell) (a : Nat) (b : Byte) (x : Nat) :
    byteAt (setByte m a b) x = if x = a then b else byteAt m x := tget_tput 0 m a b x
/-- One byte written keeps memory in its canonical form. -/
theorem setByte_wf {m : List Host.Cell} (a : Nat) (b : Byte) (h : Memory.wf m = true) :
    Memory.wf (setByte m a b) = true := tput_wf a b h (Nat.zero_le a)
/-- A run of bytes written keeps memory in its canonical form. -/
theorem setBytes_wf {m : List Host.Cell} (a : Nat) (bs : List Byte) (h : Memory.wf m = true) :
    Memory.wf (setBytes m a bs) = true := by
  induction bs generalizing m a with
  | nil => exact h
  | cons b bs ih => exact ih (a + 1) (setByte_wf a b h)
/-- What a byte reads after a run of bytes is written. -/
theorem byteAt_setBytes (m : List Host.Cell) (a : Nat) (bs : List Byte) (x : Nat) :
    byteAt (setBytes m a bs) x = if a ≤ x ∧ x < a + bs.length then bs.getD (x - a) 0 else byteAt m x := by
  induction bs generalizing m a with
  | nil => simp [setBytes]
  | cons b bs ih =>
    rw [setBytes, ih, byteAt_setByte]
    by_cases h1 : x = a
    · subst h1; simp
    · by_cases h2 : a + 1 ≤ x ∧ x < a + 1 + bs.length
      · have h3 : a ≤ x ∧ x < a + (bs.length + 1) := by omega
        have h4 : x - a = (x - (a + 1)) + 1 := by omega
        simp [h2, h3, h4]
      · have h3 : ¬(a ≤ x ∧ x < a + (bs.length + 1)) := by omega
        rw [if_neg h2, if_neg h1, if_neg (by simpa using h3)]
theorem length_bytesAt (m : List Host.Cell) (a n : Nat) : (bytesAt m a n).length = n := by
  induction n generalizing a with
  | zero => rfl
  | succ n ih => simp [bytesAt, ih]
theorem getD_bytesAt (m : List Host.Cell) (a n i : Nat) (h : i < n) : (bytesAt m a n).getD i 0 = byteAt m (a + i) := by
  induction n generalizing a i with
  | zero => omega
  | succ n ih =>
    cases i with
    | zero => simp [bytesAt]
    | succ i => simp only [bytesAt, List.getD_cons_succ]; rw [ih (a + 1) i (by omega)]; congr 1; omega
/-- What was written is read back. -/
theorem bytesAt_setBytes (m : List Host.Cell) (a : Nat) (bs : List Byte) :
    bytesAt (setBytes m a bs) a bs.length = bs := by
  apply List.ext_getElem (length_bytesAt _ _ _)
  intro i h1 h2
  have h := getD_bytesAt (setBytes m a bs) a bs.length i h2
  rw [byteAt_setBytes] at h
  simp [List.getD_eq_getElem?_getD, h1, h2] at h
  exact h

/-! ## Numbers as bytes (R3) -/

theorem length_leBytes (n x : Nat) : (leBytes n x).length = n := by
  induction n generalizing x with
  | zero => rfl
  | succ n ih => simp [leBytes, ih]
theorem leNat_leBytes (n x : Nat) : leNat (leBytes n x) = x % 256 ^ n := by
  induction n generalizing x with
  | zero => simp [leBytes, leNat, Nat.mod_one]
  | succ n ih =>
    have h : (BitVec.ofNat 8 x : Byte).toNat = x % 256 := BitVec.toNat_ofNat x 8
    rw [leBytes, leNat, ih, h, pow_succ', Nat.mod_mul]
theorem numAt_setBytes (m : List Host.Cell) (a n x : Nat) :
    numAt (setBytes m a (leBytes n x)) a n = x % 256 ^ n := by
  have h := bytesAt_setBytes m a (leBytes n x)
  rw [length_leBytes] at h
  rw [numAt, h, leNat_leBytes]

end Sys2Proof.Machine
end

