-- ==== Sys2Proof/Laws/State.lean ====
section
/-! SUPPORT. Laws of the updates of State, one for each field, of reading back what an update wrote, and of the
shared operations on the group in issue, so that no proof unfolds a record update. -/

namespace Sys2Proof.Machine

/-! ## What each update leaves of each field -/

@[simp] theorem State.setGroup_agenda (s : State) (c p : Nat) (g : Group) : (s.setGroup c p g).agenda = s.agenda := rfl
@[simp] theorem State.setGroup_cur (s : State) (c p : Nat) (g : Group) : (s.setGroup c p g).cur = s.cur := rfl
@[simp] theorem State.setGroup_inp (s : State) (c p : Nat) (g : Group) : (s.setGroup c p g).inp = s.inp := rfl
@[simp] theorem State.setGroup_freeCtr (s : State) (c p : Nat) (g : Group) : (s.setGroup c p g).freeCtr = s.freeCtr := rfl
@[simp] theorem State.setGroup_out (s : State) (c p : Nat) (g : Group) : (s.setGroup c p g).out = s.out := rfl
@[simp] theorem State.setGroup_boot (s : State) (c p : Nat) (g : Group) : (s.setGroup c p g).boot = s.boot := rfl
@[simp] theorem State.setGroup_mem (s : State) (c p : Nat) (g : Group) : (s.setGroup c p g).mem = s.mem := rfl
@[simp] theorem State.setGroup_poison (s : State) (c p : Nat) (g : Group) : (s.setGroup c p g).poison = s.poison := rfl
@[simp] theorem State.setGroup_weak (s : State) (c p : Nat) (g : Group) : (s.setGroup c p g).weak = s.weak := rfl
@[simp] theorem State.setGroup_dirty (s : State) (c p : Nat) (g : Group) : (s.setGroup c p g).dirty = s.dirty := rfl
@[simp] theorem State.setGroup_teams (s : State) (c p : Nat) (g : Group) : (s.setGroup c p g).teams = s.teams := rfl
@[simp] theorem State.setGroup_cores (s : State) (c p : Nat) (g : Group) : (s.setGroup c p g).cores = s.cores := rfl
@[simp] theorem State.setGroup_launches (s : State) (c p : Nat) (g : Group) : (s.setGroup c p g).launches = s.launches := rfl
@[simp] theorem State.setGroup_nextLaunch (s : State) (c p : Nat) (g : Group) : (s.setGroup c p g).nextLaunch = s.nextLaunch := rfl
@[simp] theorem State.setGroup_savedTeams (s : State) (c p : Nat) (g : Group) : (s.setGroup c p g).savedTeams = s.savedTeams := rfl
@[simp] theorem State.setGroup_nextSaved (s : State) (c p : Nat) (g : Group) : (s.setGroup c p g).nextSaved = s.nextSaved := rfl
@[simp] theorem State.setGroup_nextPlaced (s : State) (c p : Nat) (g : Group) : (s.setGroup c p g).nextPlaced = s.nextPlaced := rfl
@[simp] theorem State.setGroup_graphs (s : State) (c p : Nat) (g : Group) : (s.setGroup c p g).graphs = s.graphs := rfl
@[simp] theorem State.setGroup_funcs (s : State) (c p : Nat) (g : Group) : (s.setGroup c p g).funcs = s.funcs := rfl
@[simp] theorem State.setGroup_age (s : State) (c p : Nat) (g : Group) : (s.setGroup c p g).age = s.age := rfl
@[simp] theorem State.setGroup_ms (s : State) (c p : Nat) (g : Group) : (s.setGroup c p g).ms = s.ms := rfl
@[simp] theorem State.setGroup_mail (s : State) (c p : Nat) (g : Group) : (s.setGroup c p g).mail = s.mail := rfl
@[simp] theorem State.setGroup_mig (s : State) (c p : Nat) (g : Group) : (s.setGroup c p g).mig = s.mig := rfl
@[simp] theorem State.setGroup_seq (s : State) (c p : Nat) (g : Group) : (s.setGroup c p g).seq = s.seq := rfl
@[simp] theorem State.setGroup_ceTerm (s : State) (c p : Nat) (g : Group) : (s.setGroup c p g).ceTerm = s.ceTerm := rfl
@[simp] theorem State.setGroup_comms (s : State) (c p : Nat) (g : Group) : (s.setGroup c p g).comms = s.comms := rfl
@[simp] theorem State.setGroup_keys (s : State) (c p : Nat) (g : Group) : (s.setGroup c p g).keys = s.keys := rfl
@[simp] theorem State.setGroup_unanswered (s : State) (c p : Nat) (g : Group) : (s.setGroup c p g).unanswered = s.unanswered := rfl
@[simp] theorem State.setGroup_begunSeen (s : State) (c p : Nat) (g : Group) : (s.setGroup c p g).begunSeen = s.begunSeen := rfl
@[simp] theorem State.setGroup_earlySegs (s : State) (c p : Nat) (g : Group) : (s.setGroup c p g).earlySegs = s.earlySegs := rfl
@[simp] theorem State.setGroup_ports (s : State) (c p : Nat) (g : Group) : (s.setGroup c p g).ports = s.ports := rfl
@[simp] theorem State.setGroup_vdnTab (s : State) (c p : Nat) (g : Group) : (s.setGroup c p g).vdnTab = s.vdnTab := rfl
@[simp] theorem State.setGroup_vdnUpds (s : State) (c p : Nat) (g : Group) : (s.setGroup c p g).vdnUpds = s.vdnUpds := rfl
@[simp] theorem State.setGroup_vdnOut (s : State) (c p : Nat) (g : Group) : (s.setGroup c p g).vdnOut = s.vdnOut := rfl
@[simp] theorem State.setGroup_haspSrc (s : State) (c p : Nat) (g : Group) : (s.setGroup c p g).haspSrc = s.haspSrc := rfl
@[simp] theorem State.setGroup_streams (s : State) (c p : Nat) (g : Group) : (s.setGroup c p g).streams = s.streams := rfl
@[simp] theorem State.setGroup_aliases (s : State) (c p : Nat) (g : Group) : (s.setGroup c p g).aliases = s.aliases := rfl
@[simp] theorem State.setGroup_heldIds (s : State) (c p : Nat) (g : Group) : (s.setGroup c p g).heldIds = s.heldIds := rfl
@[simp] theorem State.setGroup_tfreezes (s : State) (c p : Nat) (g : Group) : (s.setGroup c p g).tfreezes = s.tfreezes := rfl
@[simp] theorem State.setGroup_retries (s : State) (c p : Nat) (g : Group) : (s.setGroup c p g).retries = s.retries := rfl
@[simp] theorem State.setGroup_homeHold (s : State) (c p : Nat) (g : Group) : (s.setGroup c p g).homeHold = s.homeHold := rfl
@[simp] theorem State.setGroup_holdq (s : State) (c p : Nat) (g : Group) : (s.setGroup c p g).holdq = s.holdq := rfl
@[simp] theorem State.setGroup_fwdWin (s : State) (c p : Nat) (g : Group) : (s.setGroup c p g).fwdWin = s.fwdWin := rfl
@[simp] theorem State.setGroup_heldColl (s : State) (c p : Nat) (g : Group) : (s.setGroup c p g).heldColl = s.heldColl := rfl
@[simp] theorem State.setGroup_waitVdn (s : State) (c p : Nat) (g : Group) : (s.setGroup c p g).waitVdn = s.waitVdn := rfl
@[simp] theorem State.setGroup_loop (s : State) (c p : Nat) (g : Group) : (s.setGroup c p g).loop = s.loop := rfl
@[simp] theorem State.setGroup_fillLost (s : State) (c p : Nat) (g : Group) : (s.setGroup c p g).fillLost = s.fillLost := rfl
@[simp] theorem State.setGroup_owed (s : State) (c p : Nat) (g : Group) : (s.setGroup c p g).owed = s.owed := rfl
@[simp] theorem State.setGroup_group8 (s : State) (c p : Nat) (g : Group) : (s.setGroup c p g).group8 = s.group8 := rfl
@[simp] theorem State.setGroup_l2 (s : State) (c p : Nat) (g : Group) : (s.setGroup c p g).l2 = s.l2 := rfl
@[simp] theorem State.setGroup_l2tlb (s : State) (c p : Nat) (g : Group) : (s.setGroup c p g).l2tlb = s.l2tlb := rfl
@[simp] theorem State.setGroup_walks (s : State) (c p : Nat) (g : Group) : (s.setGroup c p g).walks = s.walks := rfl
@[simp] theorem State.setGroup_nwc (s : State) (c p : Nat) (g : Group) : (s.setGroup c p g).nwc = s.nwc := rfl
@[simp] theorem State.setGroup_pcache (s : State) (c p : Nat) (g : Group) : (s.setGroup c p g).pcache = s.pcache := rfl
@[simp] theorem State.setGroup_inv (s : State) (c p : Nat) (g : Group) : (s.setGroup c p g).inv = s.inv := rfl
@[simp] theorem State.setGroup_tiers (s : State) (c p : Nat) (g : Group) : (s.setGroup c p g).tiers = s.tiers := rfl
@[simp] theorem State.setGroup_sync (s : State) (c p : Nat) (g : Group) : (s.setGroup c p g).sync = s.sync := rfl
@[simp] theorem State.setGroup_syncStamp (s : State) (c p : Nat) (g : Group) : (s.setGroup c p g).syncStamp = s.syncStamp := rfl
@[simp] theorem State.setGroup_syncDrop (s : State) (c p : Nat) (g : Group) : (s.setGroup c p g).syncDrop = s.syncDrop := rfl
@[simp] theorem State.setGroup_mecCe (s : State) (c p : Nat) (g : Group) : (s.setGroup c p g).mecCe = s.mecCe := rfl
@[simp] theorem State.setGroup_mecUe (s : State) (c p : Nat) (g : Group) : (s.setGroup c p g).mecUe = s.mecUe := rfl
@[simp] theorem State.setGroup_mecLogA (s : State) (c p : Nat) (g : Group) : (s.setGroup c p g).mecLogA = s.mecLogA := rfl
@[simp] theorem State.setGroup_mecLogB (s : State) (c p : Nat) (g : Group) : (s.setGroup c p g).mecLogB = s.mecLogB := rfl
@[simp] theorem State.setGroup_haspFaults (s : State) (c p : Nat) (g : Group) : (s.setGroup c p g).haspFaults = s.haspFaults := rfl
@[simp] theorem State.setGroup_capTags (s : State) (c p : Nat) (g : Group) : (s.setGroup c p g).capTags = s.capTags := rfl
@[simp] theorem State.setGroup_serving (s : State) (c p : Nat) (g : Group) : (s.setGroup c p g).serving = s.serving := rfl
@[simp] theorem State.setGroup_ringCaps (s : State) (c p : Nat) (g : Group) : (s.setGroup c p g).ringCaps = s.ringCaps := rfl

@[simp] theorem State.setTeam_agenda (s : State) (c t : Nat) (x : Team) : (s.setTeam c t x).agenda = s.agenda := rfl
@[simp] theorem State.setTeam_cur (s : State) (c t : Nat) (x : Team) : (s.setTeam c t x).cur = s.cur := rfl
@[simp] theorem State.setTeam_inp (s : State) (c t : Nat) (x : Team) : (s.setTeam c t x).inp = s.inp := rfl
@[simp] theorem State.setTeam_freeCtr (s : State) (c t : Nat) (x : Team) : (s.setTeam c t x).freeCtr = s.freeCtr := rfl
@[simp] theorem State.setTeam_out (s : State) (c t : Nat) (x : Team) : (s.setTeam c t x).out = s.out := rfl
@[simp] theorem State.setTeam_boot (s : State) (c t : Nat) (x : Team) : (s.setTeam c t x).boot = s.boot := rfl
@[simp] theorem State.setTeam_mem (s : State) (c t : Nat) (x : Team) : (s.setTeam c t x).mem = s.mem := rfl
@[simp] theorem State.setTeam_poison (s : State) (c t : Nat) (x : Team) : (s.setTeam c t x).poison = s.poison := rfl
@[simp] theorem State.setTeam_weak (s : State) (c t : Nat) (x : Team) : (s.setTeam c t x).weak = s.weak := rfl
@[simp] theorem State.setTeam_dirty (s : State) (c t : Nat) (x : Team) : (s.setTeam c t x).dirty = s.dirty := rfl
@[simp] theorem State.setTeam_groups (s : State) (c t : Nat) (x : Team) : (s.setTeam c t x).groups = s.groups := rfl
@[simp] theorem State.setTeam_cores (s : State) (c t : Nat) (x : Team) : (s.setTeam c t x).cores = s.cores := rfl
@[simp] theorem State.setTeam_launches (s : State) (c t : Nat) (x : Team) : (s.setTeam c t x).launches = s.launches := rfl
@[simp] theorem State.setTeam_nextLaunch (s : State) (c t : Nat) (x : Team) : (s.setTeam c t x).nextLaunch = s.nextLaunch := rfl
@[simp] theorem State.setTeam_savedTeams (s : State) (c t : Nat) (x : Team) : (s.setTeam c t x).savedTeams = s.savedTeams := rfl
@[simp] theorem State.setTeam_nextSaved (s : State) (c t : Nat) (x : Team) : (s.setTeam c t x).nextSaved = s.nextSaved := rfl
@[simp] theorem State.setTeam_nextPlaced (s : State) (c t : Nat) (x : Team) : (s.setTeam c t x).nextPlaced = s.nextPlaced := rfl
@[simp] theorem State.setTeam_graphs (s : State) (c t : Nat) (x : Team) : (s.setTeam c t x).graphs = s.graphs := rfl
@[simp] theorem State.setTeam_funcs (s : State) (c t : Nat) (x : Team) : (s.setTeam c t x).funcs = s.funcs := rfl
@[simp] theorem State.setTeam_age (s : State) (c t : Nat) (x : Team) : (s.setTeam c t x).age = s.age := rfl
@[simp] theorem State.setTeam_ms (s : State) (c t : Nat) (x : Team) : (s.setTeam c t x).ms = s.ms := rfl
@[simp] theorem State.setTeam_mail (s : State) (c t : Nat) (x : Team) : (s.setTeam c t x).mail = s.mail := rfl
@[simp] theorem State.setTeam_mig (s : State) (c t : Nat) (x : Team) : (s.setTeam c t x).mig = s.mig := rfl
@[simp] theorem State.setTeam_seq (s : State) (c t : Nat) (x : Team) : (s.setTeam c t x).seq = s.seq := rfl
@[simp] theorem State.setTeam_ceTerm (s : State) (c t : Nat) (x : Team) : (s.setTeam c t x).ceTerm = s.ceTerm := rfl
@[simp] theorem State.setTeam_comms (s : State) (c t : Nat) (x : Team) : (s.setTeam c t x).comms = s.comms := rfl
@[simp] theorem State.setTeam_keys (s : State) (c t : Nat) (x : Team) : (s.setTeam c t x).keys = s.keys := rfl
@[simp] theorem State.setTeam_unanswered (s : State) (c t : Nat) (x : Team) : (s.setTeam c t x).unanswered = s.unanswered := rfl
@[simp] theorem State.setTeam_begunSeen (s : State) (c t : Nat) (x : Team) : (s.setTeam c t x).begunSeen = s.begunSeen := rfl
@[simp] theorem State.setTeam_earlySegs (s : State) (c t : Nat) (x : Team) : (s.setTeam c t x).earlySegs = s.earlySegs := rfl
@[simp] theorem State.setTeam_ports (s : State) (c t : Nat) (x : Team) : (s.setTeam c t x).ports = s.ports := rfl
@[simp] theorem State.setTeam_vdnTab (s : State) (c t : Nat) (x : Team) : (s.setTeam c t x).vdnTab = s.vdnTab := rfl
@[simp] theorem State.setTeam_vdnUpds (s : State) (c t : Nat) (x : Team) : (s.setTeam c t x).vdnUpds = s.vdnUpds := rfl
@[simp] theorem State.setTeam_vdnOut (s : State) (c t : Nat) (x : Team) : (s.setTeam c t x).vdnOut = s.vdnOut := rfl
@[simp] theorem State.setTeam_haspSrc (s : State) (c t : Nat) (x : Team) : (s.setTeam c t x).haspSrc = s.haspSrc := rfl
@[simp] theorem State.setTeam_streams (s : State) (c t : Nat) (x : Team) : (s.setTeam c t x).streams = s.streams := rfl
@[simp] theorem State.setTeam_aliases (s : State) (c t : Nat) (x : Team) : (s.setTeam c t x).aliases = s.aliases := rfl
@[simp] theorem State.setTeam_heldIds (s : State) (c t : Nat) (x : Team) : (s.setTeam c t x).heldIds = s.heldIds := rfl
@[simp] theorem State.setTeam_tfreezes (s : State) (c t : Nat) (x : Team) : (s.setTeam c t x).tfreezes = s.tfreezes := rfl
@[simp] theorem State.setTeam_retries (s : State) (c t : Nat) (x : Team) : (s.setTeam c t x).retries = s.retries := rfl
@[simp] theorem State.setTeam_homeHold (s : State) (c t : Nat) (x : Team) : (s.setTeam c t x).homeHold = s.homeHold := rfl
@[simp] theorem State.setTeam_holdq (s : State) (c t : Nat) (x : Team) : (s.setTeam c t x).holdq = s.holdq := rfl
@[simp] theorem State.setTeam_fwdWin (s : State) (c t : Nat) (x : Team) : (s.setTeam c t x).fwdWin = s.fwdWin := rfl
@[simp] theorem State.setTeam_heldColl (s : State) (c t : Nat) (x : Team) : (s.setTeam c t x).heldColl = s.heldColl := rfl
@[simp] theorem State.setTeam_waitVdn (s : State) (c t : Nat) (x : Team) : (s.setTeam c t x).waitVdn = s.waitVdn := rfl
@[simp] theorem State.setTeam_loop (s : State) (c t : Nat) (x : Team) : (s.setTeam c t x).loop = s.loop := rfl
@[simp] theorem State.setTeam_fillLost (s : State) (c t : Nat) (x : Team) : (s.setTeam c t x).fillLost = s.fillLost := rfl
@[simp] theorem State.setTeam_owed (s : State) (c t : Nat) (x : Team) : (s.setTeam c t x).owed = s.owed := rfl
@[simp] theorem State.setTeam_group8 (s : State) (c t : Nat) (x : Team) : (s.setTeam c t x).group8 = s.group8 := rfl
@[simp] theorem State.setTeam_l2 (s : State) (c t : Nat) (x : Team) : (s.setTeam c t x).l2 = s.l2 := rfl
@[simp] theorem State.setTeam_l2tlb (s : State) (c t : Nat) (x : Team) : (s.setTeam c t x).l2tlb = s.l2tlb := rfl
@[simp] theorem State.setTeam_walks (s : State) (c t : Nat) (x : Team) : (s.setTeam c t x).walks = s.walks := rfl
@[simp] theorem State.setTeam_nwc (s : State) (c t : Nat) (x : Team) : (s.setTeam c t x).nwc = s.nwc := rfl
@[simp] theorem State.setTeam_pcache (s : State) (c t : Nat) (x : Team) : (s.setTeam c t x).pcache = s.pcache := rfl
@[simp] theorem State.setTeam_inv (s : State) (c t : Nat) (x : Team) : (s.setTeam c t x).inv = s.inv := rfl
@[simp] theorem State.setTeam_tiers (s : State) (c t : Nat) (x : Team) : (s.setTeam c t x).tiers = s.tiers := rfl
@[simp] theorem State.setTeam_sync (s : State) (c t : Nat) (x : Team) : (s.setTeam c t x).sync = s.sync := rfl
@[simp] theorem State.setTeam_syncStamp (s : State) (c t : Nat) (x : Team) : (s.setTeam c t x).syncStamp = s.syncStamp := rfl
@[simp] theorem State.setTeam_syncDrop (s : State) (c t : Nat) (x : Team) : (s.setTeam c t x).syncDrop = s.syncDrop := rfl
@[simp] theorem State.setTeam_mecCe (s : State) (c t : Nat) (x : Team) : (s.setTeam c t x).mecCe = s.mecCe := rfl
@[simp] theorem State.setTeam_mecUe (s : State) (c t : Nat) (x : Team) : (s.setTeam c t x).mecUe = s.mecUe := rfl
@[simp] theorem State.setTeam_mecLogA (s : State) (c t : Nat) (x : Team) : (s.setTeam c t x).mecLogA = s.mecLogA := rfl
@[simp] theorem State.setTeam_mecLogB (s : State) (c t : Nat) (x : Team) : (s.setTeam c t x).mecLogB = s.mecLogB := rfl
@[simp] theorem State.setTeam_haspFaults (s : State) (c t : Nat) (x : Team) : (s.setTeam c t x).haspFaults = s.haspFaults := rfl
@[simp] theorem State.setTeam_capTags (s : State) (c t : Nat) (x : Team) : (s.setTeam c t x).capTags = s.capTags := rfl
@[simp] theorem State.setTeam_serving (s : State) (c t : Nat) (x : Team) : (s.setTeam c t x).serving = s.serving := rfl
@[simp] theorem State.setTeam_ringCaps (s : State) (c t : Nat) (x : Team) : (s.setTeam c t x).ringCaps = s.ringCaps := rfl

@[simp] theorem State.setCore_agenda (s : State) (c : Nat) (x : Core) : (s.setCore c x).agenda = s.agenda := rfl
@[simp] theorem State.setCore_cur (s : State) (c : Nat) (x : Core) : (s.setCore c x).cur = s.cur := rfl
@[simp] theorem State.setCore_inp (s : State) (c : Nat) (x : Core) : (s.setCore c x).inp = s.inp := rfl
@[simp] theorem State.setCore_freeCtr (s : State) (c : Nat) (x : Core) : (s.setCore c x).freeCtr = s.freeCtr := rfl
@[simp] theorem State.setCore_out (s : State) (c : Nat) (x : Core) : (s.setCore c x).out = s.out := rfl
@[simp] theorem State.setCore_boot (s : State) (c : Nat) (x : Core) : (s.setCore c x).boot = s.boot := rfl
@[simp] theorem State.setCore_mem (s : State) (c : Nat) (x : Core) : (s.setCore c x).mem = s.mem := rfl
@[simp] theorem State.setCore_poison (s : State) (c : Nat) (x : Core) : (s.setCore c x).poison = s.poison := rfl
@[simp] theorem State.setCore_weak (s : State) (c : Nat) (x : Core) : (s.setCore c x).weak = s.weak := rfl
@[simp] theorem State.setCore_dirty (s : State) (c : Nat) (x : Core) : (s.setCore c x).dirty = s.dirty := rfl
@[simp] theorem State.setCore_groups (s : State) (c : Nat) (x : Core) : (s.setCore c x).groups = s.groups := rfl
@[simp] theorem State.setCore_teams (s : State) (c : Nat) (x : Core) : (s.setCore c x).teams = s.teams := rfl
@[simp] theorem State.setCore_launches (s : State) (c : Nat) (x : Core) : (s.setCore c x).launches = s.launches := rfl
@[simp] theorem State.setCore_nextLaunch (s : State) (c : Nat) (x : Core) : (s.setCore c x).nextLaunch = s.nextLaunch := rfl
@[simp] theorem State.setCore_savedTeams (s : State) (c : Nat) (x : Core) : (s.setCore c x).savedTeams = s.savedTeams := rfl
@[simp] theorem State.setCore_nextSaved (s : State) (c : Nat) (x : Core) : (s.setCore c x).nextSaved = s.nextSaved := rfl
@[simp] theorem State.setCore_nextPlaced (s : State) (c : Nat) (x : Core) : (s.setCore c x).nextPlaced = s.nextPlaced := rfl
@[simp] theorem State.setCore_graphs (s : State) (c : Nat) (x : Core) : (s.setCore c x).graphs = s.graphs := rfl
@[simp] theorem State.setCore_funcs (s : State) (c : Nat) (x : Core) : (s.setCore c x).funcs = s.funcs := rfl
@[simp] theorem State.setCore_age (s : State) (c : Nat) (x : Core) : (s.setCore c x).age = s.age := rfl
@[simp] theorem State.setCore_ms (s : State) (c : Nat) (x : Core) : (s.setCore c x).ms = s.ms := rfl
@[simp] theorem State.setCore_mail (s : State) (c : Nat) (x : Core) : (s.setCore c x).mail = s.mail := rfl
@[simp] theorem State.setCore_mig (s : State) (c : Nat) (x : Core) : (s.setCore c x).mig = s.mig := rfl
@[simp] theorem State.setCore_seq (s : State) (c : Nat) (x : Core) : (s.setCore c x).seq = s.seq := rfl
@[simp] theorem State.setCore_ceTerm (s : State) (c : Nat) (x : Core) : (s.setCore c x).ceTerm = s.ceTerm := rfl
@[simp] theorem State.setCore_comms (s : State) (c : Nat) (x : Core) : (s.setCore c x).comms = s.comms := rfl
@[simp] theorem State.setCore_keys (s : State) (c : Nat) (x : Core) : (s.setCore c x).keys = s.keys := rfl
@[simp] theorem State.setCore_unanswered (s : State) (c : Nat) (x : Core) : (s.setCore c x).unanswered = s.unanswered := rfl
@[simp] theorem State.setCore_begunSeen (s : State) (c : Nat) (x : Core) : (s.setCore c x).begunSeen = s.begunSeen := rfl
@[simp] theorem State.setCore_earlySegs (s : State) (c : Nat) (x : Core) : (s.setCore c x).earlySegs = s.earlySegs := rfl
@[simp] theorem State.setCore_ports (s : State) (c : Nat) (x : Core) : (s.setCore c x).ports = s.ports := rfl
@[simp] theorem State.setCore_vdnTab (s : State) (c : Nat) (x : Core) : (s.setCore c x).vdnTab = s.vdnTab := rfl
@[simp] theorem State.setCore_vdnUpds (s : State) (c : Nat) (x : Core) : (s.setCore c x).vdnUpds = s.vdnUpds := rfl
@[simp] theorem State.setCore_vdnOut (s : State) (c : Nat) (x : Core) : (s.setCore c x).vdnOut = s.vdnOut := rfl
@[simp] theorem State.setCore_haspSrc (s : State) (c : Nat) (x : Core) : (s.setCore c x).haspSrc = s.haspSrc := rfl
@[simp] theorem State.setCore_streams (s : State) (c : Nat) (x : Core) : (s.setCore c x).streams = s.streams := rfl
@[simp] theorem State.setCore_aliases (s : State) (c : Nat) (x : Core) : (s.setCore c x).aliases = s.aliases := rfl
@[simp] theorem State.setCore_heldIds (s : State) (c : Nat) (x : Core) : (s.setCore c x).heldIds = s.heldIds := rfl
@[simp] theorem State.setCore_tfreezes (s : State) (c : Nat) (x : Core) : (s.setCore c x).tfreezes = s.tfreezes := rfl
@[simp] theorem State.setCore_retries (s : State) (c : Nat) (x : Core) : (s.setCore c x).retries = s.retries := rfl
@[simp] theorem State.setCore_homeHold (s : State) (c : Nat) (x : Core) : (s.setCore c x).homeHold = s.homeHold := rfl
@[simp] theorem State.setCore_holdq (s : State) (c : Nat) (x : Core) : (s.setCore c x).holdq = s.holdq := rfl
@[simp] theorem State.setCore_fwdWin (s : State) (c : Nat) (x : Core) : (s.setCore c x).fwdWin = s.fwdWin := rfl
@[simp] theorem State.setCore_heldColl (s : State) (c : Nat) (x : Core) : (s.setCore c x).heldColl = s.heldColl := rfl
@[simp] theorem State.setCore_waitVdn (s : State) (c : Nat) (x : Core) : (s.setCore c x).waitVdn = s.waitVdn := rfl
@[simp] theorem State.setCore_loop (s : State) (c : Nat) (x : Core) : (s.setCore c x).loop = s.loop := rfl
@[simp] theorem State.setCore_fillLost (s : State) (c : Nat) (x : Core) : (s.setCore c x).fillLost = s.fillLost := rfl
@[simp] theorem State.setCore_owed (s : State) (c : Nat) (x : Core) : (s.setCore c x).owed = s.owed := rfl
@[simp] theorem State.setCore_group8 (s : State) (c : Nat) (x : Core) : (s.setCore c x).group8 = s.group8 := rfl
@[simp] theorem State.setCore_l2 (s : State) (c : Nat) (x : Core) : (s.setCore c x).l2 = s.l2 := rfl
@[simp] theorem State.setCore_l2tlb (s : State) (c : Nat) (x : Core) : (s.setCore c x).l2tlb = s.l2tlb := rfl
@[simp] theorem State.setCore_walks (s : State) (c : Nat) (x : Core) : (s.setCore c x).walks = s.walks := rfl
@[simp] theorem State.setCore_nwc (s : State) (c : Nat) (x : Core) : (s.setCore c x).nwc = s.nwc := rfl
@[simp] theorem State.setCore_pcache (s : State) (c : Nat) (x : Core) : (s.setCore c x).pcache = s.pcache := rfl
@[simp] theorem State.setCore_inv (s : State) (c : Nat) (x : Core) : (s.setCore c x).inv = s.inv := rfl
@[simp] theorem State.setCore_tiers (s : State) (c : Nat) (x : Core) : (s.setCore c x).tiers = s.tiers := rfl
@[simp] theorem State.setCore_sync (s : State) (c : Nat) (x : Core) : (s.setCore c x).sync = s.sync := rfl
@[simp] theorem State.setCore_syncStamp (s : State) (c : Nat) (x : Core) : (s.setCore c x).syncStamp = s.syncStamp := rfl
@[simp] theorem State.setCore_syncDrop (s : State) (c : Nat) (x : Core) : (s.setCore c x).syncDrop = s.syncDrop := rfl
@[simp] theorem State.setCore_mecCe (s : State) (c : Nat) (x : Core) : (s.setCore c x).mecCe = s.mecCe := rfl
@[simp] theorem State.setCore_mecUe (s : State) (c : Nat) (x : Core) : (s.setCore c x).mecUe = s.mecUe := rfl
@[simp] theorem State.setCore_mecLogA (s : State) (c : Nat) (x : Core) : (s.setCore c x).mecLogA = s.mecLogA := rfl
@[simp] theorem State.setCore_mecLogB (s : State) (c : Nat) (x : Core) : (s.setCore c x).mecLogB = s.mecLogB := rfl
@[simp] theorem State.setCore_haspFaults (s : State) (c : Nat) (x : Core) : (s.setCore c x).haspFaults = s.haspFaults := rfl
@[simp] theorem State.setCore_capTags (s : State) (c : Nat) (x : Core) : (s.setCore c x).capTags = s.capTags := rfl
@[simp] theorem State.setCore_serving (s : State) (c : Nat) (x : Core) : (s.setCore c x).serving = s.serving := rfl
@[simp] theorem State.setCore_ringCaps (s : State) (c : Nat) (x : Core) : (s.setCore c x).ringCaps = s.ringCaps := rfl

@[simp] theorem State.setFunc_agenda (s : State) (f : Nat) (x : Func) : (s.setFunc f x).agenda = s.agenda := rfl
@[simp] theorem State.setFunc_cur (s : State) (f : Nat) (x : Func) : (s.setFunc f x).cur = s.cur := rfl
@[simp] theorem State.setFunc_inp (s : State) (f : Nat) (x : Func) : (s.setFunc f x).inp = s.inp := rfl
@[simp] theorem State.setFunc_freeCtr (s : State) (f : Nat) (x : Func) : (s.setFunc f x).freeCtr = s.freeCtr := rfl
@[simp] theorem State.setFunc_out (s : State) (f : Nat) (x : Func) : (s.setFunc f x).out = s.out := rfl
@[simp] theorem State.setFunc_boot (s : State) (f : Nat) (x : Func) : (s.setFunc f x).boot = s.boot := rfl
@[simp] theorem State.setFunc_mem (s : State) (f : Nat) (x : Func) : (s.setFunc f x).mem = s.mem := rfl
@[simp] theorem State.setFunc_poison (s : State) (f : Nat) (x : Func) : (s.setFunc f x).poison = s.poison := rfl
@[simp] theorem State.setFunc_weak (s : State) (f : Nat) (x : Func) : (s.setFunc f x).weak = s.weak := rfl
@[simp] theorem State.setFunc_dirty (s : State) (f : Nat) (x : Func) : (s.setFunc f x).dirty = s.dirty := rfl
@[simp] theorem State.setFunc_groups (s : State) (f : Nat) (x : Func) : (s.setFunc f x).groups = s.groups := rfl
@[simp] theorem State.setFunc_teams (s : State) (f : Nat) (x : Func) : (s.setFunc f x).teams = s.teams := rfl
@[simp] theorem State.setFunc_cores (s : State) (f : Nat) (x : Func) : (s.setFunc f x).cores = s.cores := rfl
@[simp] theorem State.setFunc_launches (s : State) (f : Nat) (x : Func) : (s.setFunc f x).launches = s.launches := rfl
@[simp] theorem State.setFunc_nextLaunch (s : State) (f : Nat) (x : Func) : (s.setFunc f x).nextLaunch = s.nextLaunch := rfl
@[simp] theorem State.setFunc_savedTeams (s : State) (f : Nat) (x : Func) : (s.setFunc f x).savedTeams = s.savedTeams := rfl
@[simp] theorem State.setFunc_nextSaved (s : State) (f : Nat) (x : Func) : (s.setFunc f x).nextSaved = s.nextSaved := rfl
@[simp] theorem State.setFunc_nextPlaced (s : State) (f : Nat) (x : Func) : (s.setFunc f x).nextPlaced = s.nextPlaced := rfl
@[simp] theorem State.setFunc_graphs (s : State) (f : Nat) (x : Func) : (s.setFunc f x).graphs = s.graphs := rfl
@[simp] theorem State.setFunc_age (s : State) (f : Nat) (x : Func) : (s.setFunc f x).age = s.age := rfl
@[simp] theorem State.setFunc_ms (s : State) (f : Nat) (x : Func) : (s.setFunc f x).ms = s.ms := rfl
@[simp] theorem State.setFunc_mail (s : State) (f : Nat) (x : Func) : (s.setFunc f x).mail = s.mail := rfl
@[simp] theorem State.setFunc_mig (s : State) (f : Nat) (x : Func) : (s.setFunc f x).mig = s.mig := rfl
@[simp] theorem State.setFunc_seq (s : State) (f : Nat) (x : Func) : (s.setFunc f x).seq = s.seq := rfl
@[simp] theorem State.setFunc_ceTerm (s : State) (f : Nat) (x : Func) : (s.setFunc f x).ceTerm = s.ceTerm := rfl
@[simp] theorem State.setFunc_comms (s : State) (f : Nat) (x : Func) : (s.setFunc f x).comms = s.comms := rfl
@[simp] theorem State.setFunc_keys (s : State) (f : Nat) (x : Func) : (s.setFunc f x).keys = s.keys := rfl
@[simp] theorem State.setFunc_unanswered (s : State) (f : Nat) (x : Func) : (s.setFunc f x).unanswered = s.unanswered := rfl
@[simp] theorem State.setFunc_begunSeen (s : State) (f : Nat) (x : Func) : (s.setFunc f x).begunSeen = s.begunSeen := rfl
@[simp] theorem State.setFunc_earlySegs (s : State) (f : Nat) (x : Func) : (s.setFunc f x).earlySegs = s.earlySegs := rfl
@[simp] theorem State.setFunc_ports (s : State) (f : Nat) (x : Func) : (s.setFunc f x).ports = s.ports := rfl
@[simp] theorem State.setFunc_vdnTab (s : State) (f : Nat) (x : Func) : (s.setFunc f x).vdnTab = s.vdnTab := rfl
@[simp] theorem State.setFunc_vdnUpds (s : State) (f : Nat) (x : Func) : (s.setFunc f x).vdnUpds = s.vdnUpds := rfl
@[simp] theorem State.setFunc_vdnOut (s : State) (f : Nat) (x : Func) : (s.setFunc f x).vdnOut = s.vdnOut := rfl
@[simp] theorem State.setFunc_haspSrc (s : State) (f : Nat) (x : Func) : (s.setFunc f x).haspSrc = s.haspSrc := rfl
@[simp] theorem State.setFunc_streams (s : State) (f : Nat) (x : Func) : (s.setFunc f x).streams = s.streams := rfl
@[simp] theorem State.setFunc_aliases (s : State) (f : Nat) (x : Func) : (s.setFunc f x).aliases = s.aliases := rfl
@[simp] theorem State.setFunc_heldIds (s : State) (f : Nat) (x : Func) : (s.setFunc f x).heldIds = s.heldIds := rfl
@[simp] theorem State.setFunc_tfreezes (s : State) (f : Nat) (x : Func) : (s.setFunc f x).tfreezes = s.tfreezes := rfl
@[simp] theorem State.setFunc_retries (s : State) (f : Nat) (x : Func) : (s.setFunc f x).retries = s.retries := rfl
@[simp] theorem State.setFunc_homeHold (s : State) (f : Nat) (x : Func) : (s.setFunc f x).homeHold = s.homeHold := rfl
@[simp] theorem State.setFunc_holdq (s : State) (f : Nat) (x : Func) : (s.setFunc f x).holdq = s.holdq := rfl
@[simp] theorem State.setFunc_fwdWin (s : State) (f : Nat) (x : Func) : (s.setFunc f x).fwdWin = s.fwdWin := rfl
@[simp] theorem State.setFunc_heldColl (s : State) (f : Nat) (x : Func) : (s.setFunc f x).heldColl = s.heldColl := rfl
@[simp] theorem State.setFunc_waitVdn (s : State) (f : Nat) (x : Func) : (s.setFunc f x).waitVdn = s.waitVdn := rfl
@[simp] theorem State.setFunc_loop (s : State) (f : Nat) (x : Func) : (s.setFunc f x).loop = s.loop := rfl
@[simp] theorem State.setFunc_fillLost (s : State) (f : Nat) (x : Func) : (s.setFunc f x).fillLost = s.fillLost := rfl
@[simp] theorem State.setFunc_owed (s : State) (f : Nat) (x : Func) : (s.setFunc f x).owed = s.owed := rfl
@[simp] theorem State.setFunc_group8 (s : State) (f : Nat) (x : Func) : (s.setFunc f x).group8 = s.group8 := rfl
@[simp] theorem State.setFunc_l2 (s : State) (f : Nat) (x : Func) : (s.setFunc f x).l2 = s.l2 := rfl
@[simp] theorem State.setFunc_l2tlb (s : State) (f : Nat) (x : Func) : (s.setFunc f x).l2tlb = s.l2tlb := rfl
@[simp] theorem State.setFunc_walks (s : State) (f : Nat) (x : Func) : (s.setFunc f x).walks = s.walks := rfl
@[simp] theorem State.setFunc_nwc (s : State) (f : Nat) (x : Func) : (s.setFunc f x).nwc = s.nwc := rfl
@[simp] theorem State.setFunc_pcache (s : State) (f : Nat) (x : Func) : (s.setFunc f x).pcache = s.pcache := rfl
@[simp] theorem State.setFunc_inv (s : State) (f : Nat) (x : Func) : (s.setFunc f x).inv = s.inv := rfl
@[simp] theorem State.setFunc_tiers (s : State) (f : Nat) (x : Func) : (s.setFunc f x).tiers = s.tiers := rfl
@[simp] theorem State.setFunc_sync (s : State) (f : Nat) (x : Func) : (s.setFunc f x).sync = s.sync := rfl
@[simp] theorem State.setFunc_syncStamp (s : State) (f : Nat) (x : Func) : (s.setFunc f x).syncStamp = s.syncStamp := rfl
@[simp] theorem State.setFunc_syncDrop (s : State) (f : Nat) (x : Func) : (s.setFunc f x).syncDrop = s.syncDrop := rfl
@[simp] theorem State.setFunc_mecCe (s : State) (f : Nat) (x : Func) : (s.setFunc f x).mecCe = s.mecCe := rfl
@[simp] theorem State.setFunc_mecUe (s : State) (f : Nat) (x : Func) : (s.setFunc f x).mecUe = s.mecUe := rfl
@[simp] theorem State.setFunc_mecLogA (s : State) (f : Nat) (x : Func) : (s.setFunc f x).mecLogA = s.mecLogA := rfl
@[simp] theorem State.setFunc_mecLogB (s : State) (f : Nat) (x : Func) : (s.setFunc f x).mecLogB = s.mecLogB := rfl
@[simp] theorem State.setFunc_haspFaults (s : State) (f : Nat) (x : Func) : (s.setFunc f x).haspFaults = s.haspFaults := rfl
@[simp] theorem State.setFunc_capTags (s : State) (f : Nat) (x : Func) : (s.setFunc f x).capTags = s.capTags := rfl
@[simp] theorem State.setFunc_serving (s : State) (f : Nat) (x : Func) : (s.setFunc f x).serving = s.serving := rfl
@[simp] theorem State.setFunc_ringCaps (s : State) (f : Nat) (x : Func) : (s.setFunc f x).ringCaps = s.ringCaps := rfl

@[simp] theorem State.setPort_agenda (s : State) (p : Nat) (x : Port) : (s.setPort p x).agenda = s.agenda := rfl
@[simp] theorem State.setPort_cur (s : State) (p : Nat) (x : Port) : (s.setPort p x).cur = s.cur := rfl
@[simp] theorem State.setPort_inp (s : State) (p : Nat) (x : Port) : (s.setPort p x).inp = s.inp := rfl
@[simp] theorem State.setPort_freeCtr (s : State) (p : Nat) (x : Port) : (s.setPort p x).freeCtr = s.freeCtr := rfl
@[simp] theorem State.setPort_out (s : State) (p : Nat) (x : Port) : (s.setPort p x).out = s.out := rfl
@[simp] theorem State.setPort_boot (s : State) (p : Nat) (x : Port) : (s.setPort p x).boot = s.boot := rfl
@[simp] theorem State.setPort_mem (s : State) (p : Nat) (x : Port) : (s.setPort p x).mem = s.mem := rfl
@[simp] theorem State.setPort_poison (s : State) (p : Nat) (x : Port) : (s.setPort p x).poison = s.poison := rfl
@[simp] theorem State.setPort_weak (s : State) (p : Nat) (x : Port) : (s.setPort p x).weak = s.weak := rfl
@[simp] theorem State.setPort_dirty (s : State) (p : Nat) (x : Port) : (s.setPort p x).dirty = s.dirty := rfl
@[simp] theorem State.setPort_groups (s : State) (p : Nat) (x : Port) : (s.setPort p x).groups = s.groups := rfl
@[simp] theorem State.setPort_teams (s : State) (p : Nat) (x : Port) : (s.setPort p x).teams = s.teams := rfl
@[simp] theorem State.setPort_cores (s : State) (p : Nat) (x : Port) : (s.setPort p x).cores = s.cores := rfl
@[simp] theorem State.setPort_launches (s : State) (p : Nat) (x : Port) : (s.setPort p x).launches = s.launches := rfl
@[simp] theorem State.setPort_nextLaunch (s : State) (p : Nat) (x : Port) : (s.setPort p x).nextLaunch = s.nextLaunch := rfl
@[simp] theorem State.setPort_savedTeams (s : State) (p : Nat) (x : Port) : (s.setPort p x).savedTeams = s.savedTeams := rfl
@[simp] theorem State.setPort_nextSaved (s : State) (p : Nat) (x : Port) : (s.setPort p x).nextSaved = s.nextSaved := rfl
@[simp] theorem State.setPort_nextPlaced (s : State) (p : Nat) (x : Port) : (s.setPort p x).nextPlaced = s.nextPlaced := rfl
@[simp] theorem State.setPort_graphs (s : State) (p : Nat) (x : Port) : (s.setPort p x).graphs = s.graphs := rfl
@[simp] theorem State.setPort_funcs (s : State) (p : Nat) (x : Port) : (s.setPort p x).funcs = s.funcs := rfl
@[simp] theorem State.setPort_age (s : State) (p : Nat) (x : Port) : (s.setPort p x).age = s.age := rfl
@[simp] theorem State.setPort_ms (s : State) (p : Nat) (x : Port) : (s.setPort p x).ms = s.ms := rfl
@[simp] theorem State.setPort_mail (s : State) (p : Nat) (x : Port) : (s.setPort p x).mail = s.mail := rfl
@[simp] theorem State.setPort_mig (s : State) (p : Nat) (x : Port) : (s.setPort p x).mig = s.mig := rfl
@[simp] theorem State.setPort_seq (s : State) (p : Nat) (x : Port) : (s.setPort p x).seq = s.seq := rfl
@[simp] theorem State.setPort_ceTerm (s : State) (p : Nat) (x : Port) : (s.setPort p x).ceTerm = s.ceTerm := rfl
@[simp] theorem State.setPort_comms (s : State) (p : Nat) (x : Port) : (s.setPort p x).comms = s.comms := rfl
@[simp] theorem State.setPort_keys (s : State) (p : Nat) (x : Port) : (s.setPort p x).keys = s.keys := rfl
@[simp] theorem State.setPort_unanswered (s : State) (p : Nat) (x : Port) : (s.setPort p x).unanswered = s.unanswered := rfl
@[simp] theorem State.setPort_begunSeen (s : State) (p : Nat) (x : Port) : (s.setPort p x).begunSeen = s.begunSeen := rfl
@[simp] theorem State.setPort_earlySegs (s : State) (p : Nat) (x : Port) : (s.setPort p x).earlySegs = s.earlySegs := rfl
@[simp] theorem State.setPort_vdnTab (s : State) (p : Nat) (x : Port) : (s.setPort p x).vdnTab = s.vdnTab := rfl
@[simp] theorem State.setPort_vdnUpds (s : State) (p : Nat) (x : Port) : (s.setPort p x).vdnUpds = s.vdnUpds := rfl
@[simp] theorem State.setPort_vdnOut (s : State) (p : Nat) (x : Port) : (s.setPort p x).vdnOut = s.vdnOut := rfl
@[simp] theorem State.setPort_haspSrc (s : State) (p : Nat) (x : Port) : (s.setPort p x).haspSrc = s.haspSrc := rfl
@[simp] theorem State.setPort_streams (s : State) (p : Nat) (x : Port) : (s.setPort p x).streams = s.streams := rfl
@[simp] theorem State.setPort_aliases (s : State) (p : Nat) (x : Port) : (s.setPort p x).aliases = s.aliases := rfl
@[simp] theorem State.setPort_heldIds (s : State) (p : Nat) (x : Port) : (s.setPort p x).heldIds = s.heldIds := rfl
@[simp] theorem State.setPort_tfreezes (s : State) (p : Nat) (x : Port) : (s.setPort p x).tfreezes = s.tfreezes := rfl
@[simp] theorem State.setPort_retries (s : State) (p : Nat) (x : Port) : (s.setPort p x).retries = s.retries := rfl
@[simp] theorem State.setPort_homeHold (s : State) (p : Nat) (x : Port) : (s.setPort p x).homeHold = s.homeHold := rfl
@[simp] theorem State.setPort_holdq (s : State) (p : Nat) (x : Port) : (s.setPort p x).holdq = s.holdq := rfl
@[simp] theorem State.setPort_fwdWin (s : State) (p : Nat) (x : Port) : (s.setPort p x).fwdWin = s.fwdWin := rfl
@[simp] theorem State.setPort_heldColl (s : State) (p : Nat) (x : Port) : (s.setPort p x).heldColl = s.heldColl := rfl
@[simp] theorem State.setPort_waitVdn (s : State) (p : Nat) (x : Port) : (s.setPort p x).waitVdn = s.waitVdn := rfl
@[simp] theorem State.setPort_loop (s : State) (p : Nat) (x : Port) : (s.setPort p x).loop = s.loop := rfl
@[simp] theorem State.setPort_fillLost (s : State) (p : Nat) (x : Port) : (s.setPort p x).fillLost = s.fillLost := rfl
@[simp] theorem State.setPort_owed (s : State) (p : Nat) (x : Port) : (s.setPort p x).owed = s.owed := rfl
@[simp] theorem State.setPort_group8 (s : State) (p : Nat) (x : Port) : (s.setPort p x).group8 = s.group8 := rfl
@[simp] theorem State.setPort_l2 (s : State) (p : Nat) (x : Port) : (s.setPort p x).l2 = s.l2 := rfl
@[simp] theorem State.setPort_l2tlb (s : State) (p : Nat) (x : Port) : (s.setPort p x).l2tlb = s.l2tlb := rfl
@[simp] theorem State.setPort_walks (s : State) (p : Nat) (x : Port) : (s.setPort p x).walks = s.walks := rfl
@[simp] theorem State.setPort_nwc (s : State) (p : Nat) (x : Port) : (s.setPort p x).nwc = s.nwc := rfl
@[simp] theorem State.setPort_pcache (s : State) (p : Nat) (x : Port) : (s.setPort p x).pcache = s.pcache := rfl
@[simp] theorem State.setPort_inv (s : State) (p : Nat) (x : Port) : (s.setPort p x).inv = s.inv := rfl
@[simp] theorem State.setPort_tiers (s : State) (p : Nat) (x : Port) : (s.setPort p x).tiers = s.tiers := rfl
@[simp] theorem State.setPort_sync (s : State) (p : Nat) (x : Port) : (s.setPort p x).sync = s.sync := rfl
@[simp] theorem State.setPort_syncStamp (s : State) (p : Nat) (x : Port) : (s.setPort p x).syncStamp = s.syncStamp := rfl
@[simp] theorem State.setPort_syncDrop (s : State) (p : Nat) (x : Port) : (s.setPort p x).syncDrop = s.syncDrop := rfl
@[simp] theorem State.setPort_mecCe (s : State) (p : Nat) (x : Port) : (s.setPort p x).mecCe = s.mecCe := rfl
@[simp] theorem State.setPort_mecUe (s : State) (p : Nat) (x : Port) : (s.setPort p x).mecUe = s.mecUe := rfl
@[simp] theorem State.setPort_mecLogA (s : State) (p : Nat) (x : Port) : (s.setPort p x).mecLogA = s.mecLogA := rfl
@[simp] theorem State.setPort_mecLogB (s : State) (p : Nat) (x : Port) : (s.setPort p x).mecLogB = s.mecLogB := rfl
@[simp] theorem State.setPort_haspFaults (s : State) (p : Nat) (x : Port) : (s.setPort p x).haspFaults = s.haspFaults := rfl
@[simp] theorem State.setPort_capTags (s : State) (p : Nat) (x : Port) : (s.setPort p x).capTags = s.capTags := rfl
@[simp] theorem State.setPort_serving (s : State) (p : Nat) (x : Port) : (s.setPort p x).serving = s.serving := rfl
@[simp] theorem State.setPort_ringCaps (s : State) (p : Nat) (x : Port) : (s.setPort p x).ringCaps = s.ringCaps := rfl

@[simp] theorem State.emit_agenda (s : State) (o : Out) : (s.emit o).agenda = s.agenda := rfl
@[simp] theorem State.emit_cur (s : State) (o : Out) : (s.emit o).cur = s.cur := rfl
@[simp] theorem State.emit_inp (s : State) (o : Out) : (s.emit o).inp = s.inp := rfl
@[simp] theorem State.emit_freeCtr (s : State) (o : Out) : (s.emit o).freeCtr = s.freeCtr := rfl
@[simp] theorem State.emit_boot (s : State) (o : Out) : (s.emit o).boot = s.boot := rfl
@[simp] theorem State.emit_mem (s : State) (o : Out) : (s.emit o).mem = s.mem := rfl
@[simp] theorem State.emit_poison (s : State) (o : Out) : (s.emit o).poison = s.poison := rfl
@[simp] theorem State.emit_weak (s : State) (o : Out) : (s.emit o).weak = s.weak := rfl
@[simp] theorem State.emit_dirty (s : State) (o : Out) : (s.emit o).dirty = s.dirty := rfl
@[simp] theorem State.emit_groups (s : State) (o : Out) : (s.emit o).groups = s.groups := rfl
@[simp] theorem State.emit_teams (s : State) (o : Out) : (s.emit o).teams = s.teams := rfl
@[simp] theorem State.emit_cores (s : State) (o : Out) : (s.emit o).cores = s.cores := rfl
@[simp] theorem State.emit_launches (s : State) (o : Out) : (s.emit o).launches = s.launches := rfl
@[simp] theorem State.emit_nextLaunch (s : State) (o : Out) : (s.emit o).nextLaunch = s.nextLaunch := rfl
@[simp] theorem State.emit_savedTeams (s : State) (o : Out) : (s.emit o).savedTeams = s.savedTeams := rfl
@[simp] theorem State.emit_nextSaved (s : State) (o : Out) : (s.emit o).nextSaved = s.nextSaved := rfl
@[simp] theorem State.emit_nextPlaced (s : State) (o : Out) : (s.emit o).nextPlaced = s.nextPlaced := rfl
@[simp] theorem State.emit_graphs (s : State) (o : Out) : (s.emit o).graphs = s.graphs := rfl
@[simp] theorem State.emit_funcs (s : State) (o : Out) : (s.emit o).funcs = s.funcs := rfl
@[simp] theorem State.emit_age (s : State) (o : Out) : (s.emit o).age = s.age := rfl
@[simp] theorem State.emit_ms (s : State) (o : Out) : (s.emit o).ms = s.ms := rfl
@[simp] theorem State.emit_mail (s : State) (o : Out) : (s.emit o).mail = s.mail := rfl
@[simp] theorem State.emit_mig (s : State) (o : Out) : (s.emit o).mig = s.mig := rfl
@[simp] theorem State.emit_seq (s : State) (o : Out) : (s.emit o).seq = s.seq := rfl
@[simp] theorem State.emit_ceTerm (s : State) (o : Out) : (s.emit o).ceTerm = s.ceTerm := rfl
@[simp] theorem State.emit_comms (s : State) (o : Out) : (s.emit o).comms = s.comms := rfl
@[simp] theorem State.emit_keys (s : State) (o : Out) : (s.emit o).keys = s.keys := rfl
@[simp] theorem State.emit_unanswered (s : State) (o : Out) : (s.emit o).unanswered = s.unanswered := rfl
@[simp] theorem State.emit_begunSeen (s : State) (o : Out) : (s.emit o).begunSeen = s.begunSeen := rfl
@[simp] theorem State.emit_earlySegs (s : State) (o : Out) : (s.emit o).earlySegs = s.earlySegs := rfl
@[simp] theorem State.emit_ports (s : State) (o : Out) : (s.emit o).ports = s.ports := rfl
@[simp] theorem State.emit_vdnTab (s : State) (o : Out) : (s.emit o).vdnTab = s.vdnTab := rfl
@[simp] theorem State.emit_vdnUpds (s : State) (o : Out) : (s.emit o).vdnUpds = s.vdnUpds := rfl
@[simp] theorem State.emit_vdnOut (s : State) (o : Out) : (s.emit o).vdnOut = s.vdnOut := rfl
@[simp] theorem State.emit_haspSrc (s : State) (o : Out) : (s.emit o).haspSrc = s.haspSrc := rfl
@[simp] theorem State.emit_streams (s : State) (o : Out) : (s.emit o).streams = s.streams := rfl
@[simp] theorem State.emit_aliases (s : State) (o : Out) : (s.emit o).aliases = s.aliases := rfl
@[simp] theorem State.emit_heldIds (s : State) (o : Out) : (s.emit o).heldIds = s.heldIds := rfl
@[simp] theorem State.emit_tfreezes (s : State) (o : Out) : (s.emit o).tfreezes = s.tfreezes := rfl
@[simp] theorem State.emit_retries (s : State) (o : Out) : (s.emit o).retries = s.retries := rfl
@[simp] theorem State.emit_homeHold (s : State) (o : Out) : (s.emit o).homeHold = s.homeHold := rfl
@[simp] theorem State.emit_holdq (s : State) (o : Out) : (s.emit o).holdq = s.holdq := rfl
@[simp] theorem State.emit_fwdWin (s : State) (o : Out) : (s.emit o).fwdWin = s.fwdWin := rfl
@[simp] theorem State.emit_heldColl (s : State) (o : Out) : (s.emit o).heldColl = s.heldColl := rfl
@[simp] theorem State.emit_waitVdn (s : State) (o : Out) : (s.emit o).waitVdn = s.waitVdn := rfl
@[simp] theorem State.emit_loop (s : State) (o : Out) : (s.emit o).loop = s.loop := rfl
@[simp] theorem State.emit_fillLost (s : State) (o : Out) : (s.emit o).fillLost = s.fillLost := rfl
@[simp] theorem State.emit_owed (s : State) (o : Out) : (s.emit o).owed = s.owed := rfl
@[simp] theorem State.emit_group8 (s : State) (o : Out) : (s.emit o).group8 = s.group8 := rfl
@[simp] theorem State.emit_l2 (s : State) (o : Out) : (s.emit o).l2 = s.l2 := rfl
@[simp] theorem State.emit_l2tlb (s : State) (o : Out) : (s.emit o).l2tlb = s.l2tlb := rfl
@[simp] theorem State.emit_walks (s : State) (o : Out) : (s.emit o).walks = s.walks := rfl
@[simp] theorem State.emit_nwc (s : State) (o : Out) : (s.emit o).nwc = s.nwc := rfl
@[simp] theorem State.emit_pcache (s : State) (o : Out) : (s.emit o).pcache = s.pcache := rfl
@[simp] theorem State.emit_inv (s : State) (o : Out) : (s.emit o).inv = s.inv := rfl
@[simp] theorem State.emit_tiers (s : State) (o : Out) : (s.emit o).tiers = s.tiers := rfl
@[simp] theorem State.emit_sync (s : State) (o : Out) : (s.emit o).sync = s.sync := rfl
@[simp] theorem State.emit_syncStamp (s : State) (o : Out) : (s.emit o).syncStamp = s.syncStamp := rfl
@[simp] theorem State.emit_syncDrop (s : State) (o : Out) : (s.emit o).syncDrop = s.syncDrop := rfl
@[simp] theorem State.emit_mecCe (s : State) (o : Out) : (s.emit o).mecCe = s.mecCe := rfl
@[simp] theorem State.emit_mecUe (s : State) (o : Out) : (s.emit o).mecUe = s.mecUe := rfl
@[simp] theorem State.emit_mecLogA (s : State) (o : Out) : (s.emit o).mecLogA = s.mecLogA := rfl
@[simp] theorem State.emit_mecLogB (s : State) (o : Out) : (s.emit o).mecLogB = s.mecLogB := rfl
@[simp] theorem State.emit_haspFaults (s : State) (o : Out) : (s.emit o).haspFaults = s.haspFaults := rfl
@[simp] theorem State.emit_capTags (s : State) (o : Out) : (s.emit o).capTags = s.capTags := rfl
@[simp] theorem State.emit_serving (s : State) (o : Out) : (s.emit o).serving = s.serving := rfl
@[simp] theorem State.emit_ringCaps (s : State) (o : Out) : (s.emit o).ringCaps = s.ringCaps := rfl

@[simp] theorem State.setCg_agenda (s : State) (g : Group) : (s.setCg g).agenda = s.agenda := rfl
@[simp] theorem State.setCg_cur (s : State) (g : Group) : (s.setCg g).cur = s.cur := rfl
@[simp] theorem State.setCg_inp (s : State) (g : Group) : (s.setCg g).inp = s.inp := rfl
@[simp] theorem State.setCg_freeCtr (s : State) (g : Group) : (s.setCg g).freeCtr = s.freeCtr := rfl
@[simp] theorem State.setCg_out (s : State) (g : Group) : (s.setCg g).out = s.out := rfl
@[simp] theorem State.setCg_boot (s : State) (g : Group) : (s.setCg g).boot = s.boot := rfl
@[simp] theorem State.setCg_mem (s : State) (g : Group) : (s.setCg g).mem = s.mem := rfl
@[simp] theorem State.setCg_poison (s : State) (g : Group) : (s.setCg g).poison = s.poison := rfl
@[simp] theorem State.setCg_weak (s : State) (g : Group) : (s.setCg g).weak = s.weak := rfl
@[simp] theorem State.setCg_dirty (s : State) (g : Group) : (s.setCg g).dirty = s.dirty := rfl
@[simp] theorem State.setCg_teams (s : State) (g : Group) : (s.setCg g).teams = s.teams := rfl
@[simp] theorem State.setCg_cores (s : State) (g : Group) : (s.setCg g).cores = s.cores := rfl
@[simp] theorem State.setCg_launches (s : State) (g : Group) : (s.setCg g).launches = s.launches := rfl
@[simp] theorem State.setCg_nextLaunch (s : State) (g : Group) : (s.setCg g).nextLaunch = s.nextLaunch := rfl
@[simp] theorem State.setCg_savedTeams (s : State) (g : Group) : (s.setCg g).savedTeams = s.savedTeams := rfl
@[simp] theorem State.setCg_nextSaved (s : State) (g : Group) : (s.setCg g).nextSaved = s.nextSaved := rfl
@[simp] theorem State.setCg_nextPlaced (s : State) (g : Group) : (s.setCg g).nextPlaced = s.nextPlaced := rfl
@[simp] theorem State.setCg_graphs (s : State) (g : Group) : (s.setCg g).graphs = s.graphs := rfl
@[simp] theorem State.setCg_funcs (s : State) (g : Group) : (s.setCg g).funcs = s.funcs := rfl
@[simp] theorem State.setCg_age (s : State) (g : Group) : (s.setCg g).age = s.age := rfl
@[simp] theorem State.setCg_ms (s : State) (g : Group) : (s.setCg g).ms = s.ms := rfl
@[simp] theorem State.setCg_mail (s : State) (g : Group) : (s.setCg g).mail = s.mail := rfl
@[simp] theorem State.setCg_mig (s : State) (g : Group) : (s.setCg g).mig = s.mig := rfl
@[simp] theorem State.setCg_seq (s : State) (g : Group) : (s.setCg g).seq = s.seq := rfl
@[simp] theorem State.setCg_ceTerm (s : State) (g : Group) : (s.setCg g).ceTerm = s.ceTerm := rfl
@[simp] theorem State.setCg_comms (s : State) (g : Group) : (s.setCg g).comms = s.comms := rfl
@[simp] theorem State.setCg_keys (s : State) (g : Group) : (s.setCg g).keys = s.keys := rfl
@[simp] theorem State.setCg_unanswered (s : State) (g : Group) : (s.setCg g).unanswered = s.unanswered := rfl
@[simp] theorem State.setCg_begunSeen (s : State) (g : Group) : (s.setCg g).begunSeen = s.begunSeen := rfl
@[simp] theorem State.setCg_earlySegs (s : State) (g : Group) : (s.setCg g).earlySegs = s.earlySegs := rfl
@[simp] theorem State.setCg_ports (s : State) (g : Group) : (s.setCg g).ports = s.ports := rfl
@[simp] theorem State.setCg_vdnTab (s : State) (g : Group) : (s.setCg g).vdnTab = s.vdnTab := rfl
@[simp] theorem State.setCg_vdnUpds (s : State) (g : Group) : (s.setCg g).vdnUpds = s.vdnUpds := rfl
@[simp] theorem State.setCg_vdnOut (s : State) (g : Group) : (s.setCg g).vdnOut = s.vdnOut := rfl
@[simp] theorem State.setCg_haspSrc (s : State) (g : Group) : (s.setCg g).haspSrc = s.haspSrc := rfl
@[simp] theorem State.setCg_streams (s : State) (g : Group) : (s.setCg g).streams = s.streams := rfl
@[simp] theorem State.setCg_aliases (s : State) (g : Group) : (s.setCg g).aliases = s.aliases := rfl
@[simp] theorem State.setCg_heldIds (s : State) (g : Group) : (s.setCg g).heldIds = s.heldIds := rfl
@[simp] theorem State.setCg_tfreezes (s : State) (g : Group) : (s.setCg g).tfreezes = s.tfreezes := rfl
@[simp] theorem State.setCg_retries (s : State) (g : Group) : (s.setCg g).retries = s.retries := rfl
@[simp] theorem State.setCg_homeHold (s : State) (g : Group) : (s.setCg g).homeHold = s.homeHold := rfl
@[simp] theorem State.setCg_holdq (s : State) (g : Group) : (s.setCg g).holdq = s.holdq := rfl
@[simp] theorem State.setCg_fwdWin (s : State) (g : Group) : (s.setCg g).fwdWin = s.fwdWin := rfl
@[simp] theorem State.setCg_heldColl (s : State) (g : Group) : (s.setCg g).heldColl = s.heldColl := rfl
@[simp] theorem State.setCg_waitVdn (s : State) (g : Group) : (s.setCg g).waitVdn = s.waitVdn := rfl
@[simp] theorem State.setCg_loop (s : State) (g : Group) : (s.setCg g).loop = s.loop := rfl
@[simp] theorem State.setCg_fillLost (s : State) (g : Group) : (s.setCg g).fillLost = s.fillLost := rfl
@[simp] theorem State.setCg_owed (s : State) (g : Group) : (s.setCg g).owed = s.owed := rfl
@[simp] theorem State.setCg_group8 (s : State) (g : Group) : (s.setCg g).group8 = s.group8 := rfl
@[simp] theorem State.setCg_l2 (s : State) (g : Group) : (s.setCg g).l2 = s.l2 := rfl
@[simp] theorem State.setCg_l2tlb (s : State) (g : Group) : (s.setCg g).l2tlb = s.l2tlb := rfl
@[simp] theorem State.setCg_walks (s : State) (g : Group) : (s.setCg g).walks = s.walks := rfl
@[simp] theorem State.setCg_nwc (s : State) (g : Group) : (s.setCg g).nwc = s.nwc := rfl
@[simp] theorem State.setCg_pcache (s : State) (g : Group) : (s.setCg g).pcache = s.pcache := rfl
@[simp] theorem State.setCg_inv (s : State) (g : Group) : (s.setCg g).inv = s.inv := rfl
@[simp] theorem State.setCg_tiers (s : State) (g : Group) : (s.setCg g).tiers = s.tiers := rfl
@[simp] theorem State.setCg_sync (s : State) (g : Group) : (s.setCg g).sync = s.sync := rfl
@[simp] theorem State.setCg_syncStamp (s : State) (g : Group) : (s.setCg g).syncStamp = s.syncStamp := rfl
@[simp] theorem State.setCg_syncDrop (s : State) (g : Group) : (s.setCg g).syncDrop = s.syncDrop := rfl
@[simp] theorem State.setCg_mecCe (s : State) (g : Group) : (s.setCg g).mecCe = s.mecCe := rfl
@[simp] theorem State.setCg_mecUe (s : State) (g : Group) : (s.setCg g).mecUe = s.mecUe := rfl
@[simp] theorem State.setCg_mecLogA (s : State) (g : Group) : (s.setCg g).mecLogA = s.mecLogA := rfl
@[simp] theorem State.setCg_mecLogB (s : State) (g : Group) : (s.setCg g).mecLogB = s.mecLogB := rfl
@[simp] theorem State.setCg_haspFaults (s : State) (g : Group) : (s.setCg g).haspFaults = s.haspFaults := rfl
@[simp] theorem State.setCg_capTags (s : State) (g : Group) : (s.setCg g).capTags = s.capTags := rfl
@[simp] theorem State.setCg_serving (s : State) (g : Group) : (s.setCg g).serving = s.serving := rfl
@[simp] theorem State.setCg_ringCaps (s : State) (g : Group) : (s.setCg g).ringCaps = s.ringCaps := rfl

@[simp] theorem State.setCc_agenda (s : State) (c : Core) : (s.setCc c).agenda = s.agenda := rfl
@[simp] theorem State.setCc_cur (s : State) (c : Core) : (s.setCc c).cur = s.cur := rfl
@[simp] theorem State.setCc_inp (s : State) (c : Core) : (s.setCc c).inp = s.inp := rfl
@[simp] theorem State.setCc_freeCtr (s : State) (c : Core) : (s.setCc c).freeCtr = s.freeCtr := rfl
@[simp] theorem State.setCc_out (s : State) (c : Core) : (s.setCc c).out = s.out := rfl
@[simp] theorem State.setCc_boot (s : State) (c : Core) : (s.setCc c).boot = s.boot := rfl
@[simp] theorem State.setCc_mem (s : State) (c : Core) : (s.setCc c).mem = s.mem := rfl
@[simp] theorem State.setCc_poison (s : State) (c : Core) : (s.setCc c).poison = s.poison := rfl
@[simp] theorem State.setCc_weak (s : State) (c : Core) : (s.setCc c).weak = s.weak := rfl
@[simp] theorem State.setCc_dirty (s : State) (c : Core) : (s.setCc c).dirty = s.dirty := rfl
@[simp] theorem State.setCc_groups (s : State) (c : Core) : (s.setCc c).groups = s.groups := rfl
@[simp] theorem State.setCc_teams (s : State) (c : Core) : (s.setCc c).teams = s.teams := rfl
@[simp] theorem State.setCc_launches (s : State) (c : Core) : (s.setCc c).launches = s.launches := rfl
@[simp] theorem State.setCc_nextLaunch (s : State) (c : Core) : (s.setCc c).nextLaunch = s.nextLaunch := rfl
@[simp] theorem State.setCc_savedTeams (s : State) (c : Core) : (s.setCc c).savedTeams = s.savedTeams := rfl
@[simp] theorem State.setCc_nextSaved (s : State) (c : Core) : (s.setCc c).nextSaved = s.nextSaved := rfl
@[simp] theorem State.setCc_nextPlaced (s : State) (c : Core) : (s.setCc c).nextPlaced = s.nextPlaced := rfl
@[simp] theorem State.setCc_graphs (s : State) (c : Core) : (s.setCc c).graphs = s.graphs := rfl
@[simp] theorem State.setCc_funcs (s : State) (c : Core) : (s.setCc c).funcs = s.funcs := rfl
@[simp] theorem State.setCc_age (s : State) (c : Core) : (s.setCc c).age = s.age := rfl
@[simp] theorem State.setCc_ms (s : State) (c : Core) : (s.setCc c).ms = s.ms := rfl
@[simp] theorem State.setCc_mail (s : State) (c : Core) : (s.setCc c).mail = s.mail := rfl
@[simp] theorem State.setCc_mig (s : State) (c : Core) : (s.setCc c).mig = s.mig := rfl
@[simp] theorem State.setCc_seq (s : State) (c : Core) : (s.setCc c).seq = s.seq := rfl
@[simp] theorem State.setCc_ceTerm (s : State) (c : Core) : (s.setCc c).ceTerm = s.ceTerm := rfl
@[simp] theorem State.setCc_comms (s : State) (c : Core) : (s.setCc c).comms = s.comms := rfl
@[simp] theorem State.setCc_keys (s : State) (c : Core) : (s.setCc c).keys = s.keys := rfl
@[simp] theorem State.setCc_unanswered (s : State) (c : Core) : (s.setCc c).unanswered = s.unanswered := rfl
@[simp] theorem State.setCc_begunSeen (s : State) (c : Core) : (s.setCc c).begunSeen = s.begunSeen := rfl
@[simp] theorem State.setCc_earlySegs (s : State) (c : Core) : (s.setCc c).earlySegs = s.earlySegs := rfl
@[simp] theorem State.setCc_ports (s : State) (c : Core) : (s.setCc c).ports = s.ports := rfl
@[simp] theorem State.setCc_vdnTab (s : State) (c : Core) : (s.setCc c).vdnTab = s.vdnTab := rfl
@[simp] theorem State.setCc_vdnUpds (s : State) (c : Core) : (s.setCc c).vdnUpds = s.vdnUpds := rfl
@[simp] theorem State.setCc_vdnOut (s : State) (c : Core) : (s.setCc c).vdnOut = s.vdnOut := rfl
@[simp] theorem State.setCc_haspSrc (s : State) (c : Core) : (s.setCc c).haspSrc = s.haspSrc := rfl
@[simp] theorem State.setCc_streams (s : State) (c : Core) : (s.setCc c).streams = s.streams := rfl
@[simp] theorem State.setCc_aliases (s : State) (c : Core) : (s.setCc c).aliases = s.aliases := rfl
@[simp] theorem State.setCc_heldIds (s : State) (c : Core) : (s.setCc c).heldIds = s.heldIds := rfl
@[simp] theorem State.setCc_tfreezes (s : State) (c : Core) : (s.setCc c).tfreezes = s.tfreezes := rfl
@[simp] theorem State.setCc_retries (s : State) (c : Core) : (s.setCc c).retries = s.retries := rfl
@[simp] theorem State.setCc_homeHold (s : State) (c : Core) : (s.setCc c).homeHold = s.homeHold := rfl
@[simp] theorem State.setCc_holdq (s : State) (c : Core) : (s.setCc c).holdq = s.holdq := rfl
@[simp] theorem State.setCc_fwdWin (s : State) (c : Core) : (s.setCc c).fwdWin = s.fwdWin := rfl
@[simp] theorem State.setCc_heldColl (s : State) (c : Core) : (s.setCc c).heldColl = s.heldColl := rfl
@[simp] theorem State.setCc_waitVdn (s : State) (c : Core) : (s.setCc c).waitVdn = s.waitVdn := rfl
@[simp] theorem State.setCc_loop (s : State) (c : Core) : (s.setCc c).loop = s.loop := rfl
@[simp] theorem State.setCc_fillLost (s : State) (c : Core) : (s.setCc c).fillLost = s.fillLost := rfl
@[simp] theorem State.setCc_owed (s : State) (c : Core) : (s.setCc c).owed = s.owed := rfl
@[simp] theorem State.setCc_group8 (s : State) (c : Core) : (s.setCc c).group8 = s.group8 := rfl
@[simp] theorem State.setCc_l2 (s : State) (c : Core) : (s.setCc c).l2 = s.l2 := rfl
@[simp] theorem State.setCc_l2tlb (s : State) (c : Core) : (s.setCc c).l2tlb = s.l2tlb := rfl
@[simp] theorem State.setCc_walks (s : State) (c : Core) : (s.setCc c).walks = s.walks := rfl
@[simp] theorem State.setCc_nwc (s : State) (c : Core) : (s.setCc c).nwc = s.nwc := rfl
@[simp] theorem State.setCc_pcache (s : State) (c : Core) : (s.setCc c).pcache = s.pcache := rfl
@[simp] theorem State.setCc_inv (s : State) (c : Core) : (s.setCc c).inv = s.inv := rfl
@[simp] theorem State.setCc_tiers (s : State) (c : Core) : (s.setCc c).tiers = s.tiers := rfl
@[simp] theorem State.setCc_sync (s : State) (c : Core) : (s.setCc c).sync = s.sync := rfl
@[simp] theorem State.setCc_syncStamp (s : State) (c : Core) : (s.setCc c).syncStamp = s.syncStamp := rfl
@[simp] theorem State.setCc_syncDrop (s : State) (c : Core) : (s.setCc c).syncDrop = s.syncDrop := rfl
@[simp] theorem State.setCc_mecCe (s : State) (c : Core) : (s.setCc c).mecCe = s.mecCe := rfl
@[simp] theorem State.setCc_mecUe (s : State) (c : Core) : (s.setCc c).mecUe = s.mecUe := rfl
@[simp] theorem State.setCc_mecLogA (s : State) (c : Core) : (s.setCc c).mecLogA = s.mecLogA := rfl
@[simp] theorem State.setCc_mecLogB (s : State) (c : Core) : (s.setCc c).mecLogB = s.mecLogB := rfl
@[simp] theorem State.setCc_haspFaults (s : State) (c : Core) : (s.setCc c).haspFaults = s.haspFaults := rfl
@[simp] theorem State.setCc_capTags (s : State) (c : Core) : (s.setCc c).capTags = s.capTags := rfl
@[simp] theorem State.setCc_serving (s : State) (c : Core) : (s.setCc c).serving = s.serving := rfl
@[simp] theorem State.setCc_ringCaps (s : State) (c : Core) : (s.setCc c).ringCaps = s.ringCaps := rfl

/-! ## Reading back -/

/-- A group reads as what was last written to its place; the key of a place is its core's number times 64 plus the place. -/
theorem State.group_setGroup (s : State) (c p : Nat) (g : Group) (d q : Nat) :
    (s.setGroup c p g).group d q = if d * 64 + q = c * 64 + p then g else s.group d q :=
  tget_tput ({} : Group) s.groups (c * 64 + p) g (d * 64 + q)
@[simp] theorem State.group_setGroup_self (s : State) (c p : Nat) (g : Group) : (s.setGroup c p g).group c p = g := by
  simp [State.group_setGroup]
theorem State.group_setGroup_ne (s : State) {c p d q : Nat} (g : Group) (hp : p < 64) (hq : q < 64) (h : (d, q) ≠ (c, p)) :
    (s.setGroup c p g).group d q = s.group d q := by
  rw [State.group_setGroup, if_neg]
  intro he
  exact h (by ext <;> simp <;> omega)
theorem State.team_setTeam (s : State) (c t : Nat) (x : Team) (d u : Nat) :
    (s.setTeam c t x).team d u = if d * 8 + u = c * 8 + t then x else s.team d u :=
  tget_tput ({} : Team) s.teams (c * 8 + t) x (d * 8 + u)
@[simp] theorem State.team_setTeam_self (s : State) (c t : Nat) (x : Team) : (s.setTeam c t x).team c t = x := by
  simp [State.team_setTeam]
theorem State.core_setCore (s : State) (c : Nat) (x : Core) (d : Nat) :
    (s.setCore c x).core d = if d = c then x else s.core d := tget_tput ({} : Core) s.cores c x d
@[simp] theorem State.core_setCore_self (s : State) (c : Nat) (x : Core) : (s.setCore c x).core c = x := by
  simp [State.core_setCore]
theorem State.func_setFunc (s : State) (f : Nat) (x : Func) (d : Nat) :
    (s.setFunc f x).func d = if d = f then x else s.func d := tget_tput ({} : Func) s.funcs f x d
@[simp] theorem State.func_setFunc_self (s : State) (f : Nat) (x : Func) : (s.setFunc f x).func f = x := by
  simp [State.func_setFunc]
theorem State.port_setPort (s : State) (p : Nat) (x : Port) (d : Nat) :
    (s.setPort p x).port d = if d = p then x else s.port d := tget_tput ({} : Port) s.ports p x d
@[simp] theorem State.port_setPort_self (s : State) (p : Nat) (x : Port) : (s.setPort p x).port p = x := by
  simp [State.port_setPort]
@[simp] theorem State.cg_setCg (s : State) (g : Group) : (s.setCg g).cg = g := by
  simp [State.cg, State.setCg]
@[simp] theorem State.cc_setCc (s : State) (x : Core) : (s.setCc x).cc = x := by
  simp [State.cc, State.setCc]
@[simp] theorem State.cc_setCg (s : State) (g : Group) : (s.setCg g).cc = s.cc := rfl
@[simp] theorem State.cg_setCc (s : State) (x : Core) : (s.setCc x).cg = s.cg := rfl

/-- A scalar register reads as what was last written to it. -/
theorem Group.sget_sput (g : Group) (n : Nat) (x : W64) (m : Nat) : (g.sput n x).sget m = if m = n then x else g.sget m :=
  tget_tput 0 g.s n x m
/-- A lane of a vector register reads as what was last written to it. -/
theorem Group.vget_vput (g : Group) (r l : Nat) (x : W32) (r' l' : Nat) :
    (g.vput r l x).vget r' l' = if r' * 32 + l' = r * 32 + l then x else g.vget r' l' :=
  tget_tput 0 g.v (r * 32 + l) x (r' * 32 + l')
/-- k0 reads all ones, and a write to it is ignored (R194, R315). -/
@[simp] theorem Group.kget_zero (g : Group) : g.kget 0 = BitVec.allOnes 32 := rfl
@[simp] theorem Group.kput_zero (g : Group) (x : Lanes) : g.kput 0 x = g := rfl
theorem Group.kget_kput (g : Group) (n : Nat) (x : Lanes) (m : Nat) (hn : n ≠ 0) :
    (g.kput n x).kget m = if m = n then x else g.kget m := by
  unfold Group.kget Group.kput
  by_cases hm : m = 0
  · simp [hm, Ne.symm hn]
  · simp [hm, hn, tget_tput]

/-! ## What the shared operations do -/

@[simp] theorem Group.advance_live (g : Group) (sp : Bool) : (g.advance sp).live = g.live := rfl
@[simp] theorem Group.advance_team (g : Group) (sp : Bool) : (g.advance sp).team = g.team := rfl
@[simp] theorem Group.advance_role (g : Group) (sp : Bool) : (g.advance sp).role = g.role := rfl
@[simp] theorem Group.advance_nreg (g : Group) (sp : Bool) : (g.advance sp).nreg = g.nreg := rfl
@[simp] theorem Group.advance_grp (g : Group) (sp : Bool) : (g.advance sp).grp = g.grp := rfl
@[simp] theorem Group.advance_age (g : Group) (sp : Bool) : (g.advance sp).age = g.age := rfl
@[simp] theorem Group.advance_bornClk (g : Group) (sp : Bool) : (g.advance sp).bornClk = g.bornClk := rfl
@[simp] theorem Group.advance_bhdr (g : Group) (sp : Bool) : (g.advance sp).bhdr = g.bhdr := rfl
@[simp] theorem Group.advance_blen (g : Group) (sp : Bool) : (g.advance sp).blen = g.blen := rfl
@[simp] theorem Group.advance_ord (g : Group) (sp : Bool) : (g.advance sp).ord = g.ord := rfl
@[simp] theorem Group.advance_lvo (g : Group) (sp : Bool) : (g.advance sp).lvo = g.lvo := rfl
@[simp] theorem Group.advance_v (g : Group) (sp : Bool) : (g.advance sp).v = g.v := rfl
@[simp] theorem Group.advance_s (g : Group) (sp : Bool) : (g.advance sp).s = g.s := rfl
@[simp] theorem Group.advance_k (g : Group) (sp : Bool) : (g.advance sp).k = g.k := rfl
@[simp] theorem Group.advance_ctr (g : Group) (sp : Bool) : (g.advance sp).ctr = g.ctr := rfl
@[simp] theorem Group.advance_exited (g : Group) (sp : Bool) : (g.advance sp).exited = g.exited := rfl
@[simp] theorem Group.advance_rnd (g : Group) (sp : Bool) : (g.advance sp).rnd = g.rnd := rfl
@[simp] theorem Group.advance_mode (g : Group) (sp : Bool) : (g.advance sp).mode = g.mode := rfl
@[simp] theorem Group.advance_gang (g : Group) (sp : Bool) : (g.advance sp).gang = g.gang := rfl
@[simp] theorem Group.advance_xfm (g : Group) (sp : Bool) : (g.advance sp).xfm = g.xfm := rfl
@[simp] theorem Group.advance_xfc (g : Group) (sp : Bool) : (g.advance sp).xfc = g.xfc := rfl
@[simp] theorem Group.advance_fst (g : Group) (sp : Bool) : (g.advance sp).fst = g.fst := rfl
@[simp] theorem Group.advance_tvec (g : Group) (sp : Bool) : (g.advance sp).tvec = g.tvec := rfl
@[simp] theorem Group.advance_tpos (g : Group) (sp : Bool) : (g.advance sp).tpos = g.tpos := rfl
@[simp] theorem Group.advance_taddr (g : Group) (sp : Bool) : (g.advance sp).taddr = g.taddr := rfl
@[simp] theorem Group.advance_tcause (g : Group) (sp : Bool) : (g.advance sp).tcause = g.tcause := rfl
@[simp] theorem Group.advance_tm (g : Group) (sp : Bool) : (g.advance sp).tm = g.tm := rfl
@[simp] theorem Group.advance_rngseed (g : Group) (sp : Bool) : (g.advance sp).rngseed = g.rngseed := rfl
@[simp] theorem Group.advance_vx (g : Group) (sp : Bool) : (g.advance sp).vx = g.vx := rfl
@[simp] theorem Group.advance_ld (g : Group) (sp : Bool) : (g.advance sp).ld = g.ld := rfl
@[simp] theorem Group.advance_st (g : Group) (sp : Bool) : (g.advance sp).st = g.st := rfl
@[simp] theorem Group.advance_cp (g : Group) (sp : Bool) : (g.advance sp).cp = g.cp := rfl
@[simp] theorem Group.advance_tl (g : Group) (sp : Bool) : (g.advance sp).tl = g.tl := rfl
@[simp] theorem Group.advance_wait (g : Group) (sp : Bool) : (g.advance sp).wait = g.wait := rfl
@[simp] theorem Group.advance_pend (g : Group) (sp : Bool) : (g.advance sp).pend = g.pend := rfl
@[simp] theorem Group.advance_acc (g : Group) (sp : Bool) : (g.advance sp).acc = g.acc := rfl
@[simp] theorem Group.advance_nextId (g : Group) (sp : Bool) : (g.advance sp).nextId = g.nextId := rfl
@[simp] theorem Group.advance_impr (g : Group) (sp : Bool) : (g.advance sp).impr = g.impr := rfl
@[simp] theorem Group.advance_halted (g : Group) (sp : Bool) : (g.advance sp).halted = g.halted := rfl
@[simp] theorem Group.advance_haltReq (g : Group) (sp : Bool) : (g.advance sp).haltReq = g.haltReq := rfl
@[simp] theorem Group.advance_edits (g : Group) (sp : Bool) : (g.advance sp).edits = g.edits := rfl
@[simp] theorem Group.advance_yieldClk (g : Group) (sp : Bool) : (g.advance sp).yieldClk = g.yieldClk := rfl
@[simp] theorem Group.advance_causalClk (g : Group) (sp : Bool) : (g.advance sp).causalClk = g.causalClk := rfl
@[simp] theorem Group.advance_starve (g : Group) (sp : Bool) : (g.advance sp).starve = g.starve := rfl
@[simp] theorem Group.advance_stall (g : Group) (sp : Bool) : (g.advance sp).stall = g.stall := rfl
@[simp] theorem Group.advance_cinv (g : Group) (sp : Bool) : (g.advance sp).cinv = g.cinv := rfl
@[simp] theorem Group.advance_cstat (g : Group) (sp : Bool) : (g.advance sp).cstat = g.cstat := rfl
@[simp] theorem Group.advance_dread (g : Group) (sp : Bool) : (g.advance sp).dread = g.dread := rfl
@[simp] theorem Group.advance_saved (g : Group) (sp : Bool) : (g.advance sp).saved = g.saved := rfl
@[simp] theorem Group.advance_strs (g : Group) (sp : Bool) : (g.advance sp).strs = g.strs := rfl
@[simp] theorem Group.advance_woff (g : Group) (sp : Bool) : (g.advance sp).woff = g.woff + 1 := rfl

@[simp] theorem Group.goto_live (g : Group) (a : W64) : (g.goto a).live = g.live := rfl
@[simp] theorem Group.goto_team (g : Group) (a : W64) : (g.goto a).team = g.team := rfl
@[simp] theorem Group.goto_role (g : Group) (a : W64) : (g.goto a).role = g.role := rfl
@[simp] theorem Group.goto_nreg (g : Group) (a : W64) : (g.goto a).nreg = g.nreg := rfl
@[simp] theorem Group.goto_grp (g : Group) (a : W64) : (g.goto a).grp = g.grp := rfl
@[simp] theorem Group.goto_age (g : Group) (a : W64) : (g.goto a).age = g.age := rfl
@[simp] theorem Group.goto_bornClk (g : Group) (a : W64) : (g.goto a).bornClk = g.bornClk := rfl
@[simp] theorem Group.goto_blen (g : Group) (a : W64) : (g.goto a).blen = g.blen := rfl
@[simp] theorem Group.goto_ord (g : Group) (a : W64) : (g.goto a).ord = g.ord := rfl
@[simp] theorem Group.goto_nsp (g : Group) (a : W64) : (g.goto a).nsp = g.nsp := rfl
@[simp] theorem Group.goto_lvo (g : Group) (a : W64) : (g.goto a).lvo = g.lvo := rfl
@[simp] theorem Group.goto_v (g : Group) (a : W64) : (g.goto a).v = g.v := rfl
@[simp] theorem Group.goto_s (g : Group) (a : W64) : (g.goto a).s = g.s := rfl
@[simp] theorem Group.goto_k (g : Group) (a : W64) : (g.goto a).k = g.k := rfl
@[simp] theorem Group.goto_ctr (g : Group) (a : W64) : (g.goto a).ctr = g.ctr := rfl
@[simp] theorem Group.goto_exited (g : Group) (a : W64) : (g.goto a).exited = g.exited := rfl
@[simp] theorem Group.goto_rnd (g : Group) (a : W64) : (g.goto a).rnd = g.rnd := rfl
@[simp] theorem Group.goto_mode (g : Group) (a : W64) : (g.goto a).mode = g.mode := rfl
@[simp] theorem Group.goto_gang (g : Group) (a : W64) : (g.goto a).gang = g.gang := rfl
@[simp] theorem Group.goto_xfm (g : Group) (a : W64) : (g.goto a).xfm = g.xfm := rfl
@[simp] theorem Group.goto_xfc (g : Group) (a : W64) : (g.goto a).xfc = g.xfc := rfl
@[simp] theorem Group.goto_fst (g : Group) (a : W64) : (g.goto a).fst = g.fst := rfl
@[simp] theorem Group.goto_tvec (g : Group) (a : W64) : (g.goto a).tvec = g.tvec := rfl
@[simp] theorem Group.goto_tpos (g : Group) (a : W64) : (g.goto a).tpos = g.tpos := rfl
@[simp] theorem Group.goto_taddr (g : Group) (a : W64) : (g.goto a).taddr = g.taddr := rfl
@[simp] theorem Group.goto_tcause (g : Group) (a : W64) : (g.goto a).tcause = g.tcause := rfl
@[simp] theorem Group.goto_tm (g : Group) (a : W64) : (g.goto a).tm = g.tm := rfl
@[simp] theorem Group.goto_rngseed (g : Group) (a : W64) : (g.goto a).rngseed = g.rngseed := rfl
@[simp] theorem Group.goto_vx (g : Group) (a : W64) : (g.goto a).vx = g.vx := rfl
@[simp] theorem Group.goto_ld (g : Group) (a : W64) : (g.goto a).ld = g.ld := rfl
@[simp] theorem Group.goto_st (g : Group) (a : W64) : (g.goto a).st = g.st := rfl
@[simp] theorem Group.goto_cp (g : Group) (a : W64) : (g.goto a).cp = g.cp := rfl
@[simp] theorem Group.goto_tl (g : Group) (a : W64) : (g.goto a).tl = g.tl := rfl
@[simp] theorem Group.goto_wait (g : Group) (a : W64) : (g.goto a).wait = g.wait := rfl
@[simp] theorem Group.goto_pend (g : Group) (a : W64) : (g.goto a).pend = g.pend := rfl
@[simp] theorem Group.goto_acc (g : Group) (a : W64) : (g.goto a).acc = g.acc := rfl
@[simp] theorem Group.goto_nextId (g : Group) (a : W64) : (g.goto a).nextId = g.nextId := rfl
@[simp] theorem Group.goto_impr (g : Group) (a : W64) : (g.goto a).impr = g.impr := rfl
@[simp] theorem Group.goto_halted (g : Group) (a : W64) : (g.goto a).halted = g.halted := rfl
@[simp] theorem Group.goto_haltReq (g : Group) (a : W64) : (g.goto a).haltReq = g.haltReq := rfl
@[simp] theorem Group.goto_edits (g : Group) (a : W64) : (g.goto a).edits = g.edits := rfl
@[simp] theorem Group.goto_yieldClk (g : Group) (a : W64) : (g.goto a).yieldClk = g.yieldClk := rfl
@[simp] theorem Group.goto_causalClk (g : Group) (a : W64) : (g.goto a).causalClk = g.causalClk := rfl
@[simp] theorem Group.goto_starve (g : Group) (a : W64) : (g.goto a).starve = g.starve := rfl
@[simp] theorem Group.goto_stall (g : Group) (a : W64) : (g.goto a).stall = g.stall := rfl
@[simp] theorem Group.goto_cinv (g : Group) (a : W64) : (g.goto a).cinv = g.cinv := rfl
@[simp] theorem Group.goto_cstat (g : Group) (a : W64) : (g.goto a).cstat = g.cstat := rfl
@[simp] theorem Group.goto_dread (g : Group) (a : W64) : (g.goto a).dread = g.dread := rfl
@[simp] theorem Group.goto_saved (g : Group) (a : W64) : (g.goto a).saved = g.saved := rfl
@[simp] theorem Group.goto_strs (g : Group) (a : W64) : (g.goto a).strs = g.strs := rfl
@[simp] theorem Group.goto_bhdr (g : Group) (a : W64) : (g.goto a).bhdr = a := rfl
@[simp] theorem Group.goto_woff (g : Group) (a : W64) : (g.goto a).woff = 0 := rfl

/-- Each way a word ends, said once (R211, R288, R317, R321, R411). -/
theorem Res.retire_done (sp : Bool) (s : State) : Res.retire sp (.done s) = s.setCg (s.cg.advance sp) := rfl
theorem Res.retire_again (sp : Bool) (s : State) : Res.retire sp (.again s) = s.setCg { s.cg with held := none } := rfl
theorem Res.retire_hold (sp : Bool) (k : Nat) (s : State) : Res.retire sp (.hold k s) = s.setCg { s.cg with held := some k } := rfl
theorem Res.retire_jump (sp : Bool) (a : W64) (s : State) : Res.retire sp (.jump a s) = s.setCg (s.cg.goto a) := rfl
theorem Res.retire_trap (sp : Bool) (k : Byte) (i l : Nat) (a : W64) (s : State) :
    Res.retire sp (.trap k i l a s) = s.takeTrap s.cur.core s.cur.gs k i false l a s.cg.pos := rfl

/-- Memory written as HBM keeps its canonical form. -/
theorem State.homeWrite_wf {s : State} (pa : Nat) (bs : List Byte) (h : Memory.wf s.mem = true) :
    Memory.wf (s.homeWrite pa bs).mem = true := by
  unfold State.homeWrite
  split
  · exact h
  · exact setBytes_wf pa bs h
/-- A trap with a handler changes the group alone; without one it terminates the group's team. -/
theorem State.takeTrap_handled (s : State) (c p : Nat) (k : Byte) (i : Nat) (im : Bool) (l : Nat) (a pos : W64)
    (h1 : (s.group c p).tm = false) (h2 : (s.group c p).tvec ≠ 0) :
    ∃ g, s.takeTrap c p k i im l a pos = s.setGroup c p g ∧ g.tm = true ∧ g.taddr = a ∧ g.tpos = pos ∧
      g.bhdr = (s.group c p).tvec ∧ g.woff = 0 := by
  have h : ((s.group c p).tm || (s.group c p).tvec == 0) = false := by
    simp only [h1, Bool.false_or]; exact beq_eq_false_iff_ne.mpr h2
  refine ⟨_, by simp only [State.takeTrap, h]; rfl, rfl, rfl, rfl, rfl, rfl⟩

/-- What a step can do: a tripped module stops; the cursor's group issues, or ends before its word; a turn of the agenda, or
the default turn, is taken. -/
theorem step_cases (s : State) :
    (s.stopped = true ∧ step s = .fault .clocksStopped) ∨
    (s.stopped = false ∧ s.cur.go = true ∧ ∃ t, s.front = .stop t ∧ step s = .next t) ∨
    (s.stopped = false ∧ s.cur.go = true ∧ ∃ i t, s.front = .run i t ∧ step s = settle t i (exec i t)) ∨
    (s.stopped = false ∧ s.cur.go = false ∧ s.agenda = [] ∧ step s = .next s.defaultTurn) ∨
    (s.stopped = false ∧ s.cur.go = false ∧ ∃ i x rest, s.agenda = .event i x :: rest ∧
      step s = ({ s with agenda := rest } : State).runEvent i x) ∨
    (s.stopped = false ∧ s.cur.go = false ∧ ∃ t rest, s.agenda = t :: rest ∧ (∀ i x, t ≠ .event i x) ∧
      step s = .next (({ s with agenda := rest } : State).turn t)) := by
  cases h1 : s.stopped
  · cases h2 : s.cur.go
    · cases h3 : s.agenda with
      | nil => simp [step, h1, h2, h3]
      | cons t rest => cases t <;> simp [step, h1, h2, h3]
    · cases h3 : s.front <;> simp [step, h1, h2, h3]
  · simp [step, h1]

end Sys2Proof.Machine
end

