-- ==== Sys2Proof/Machine/Zlas.lean ====
section
/-! DEFINITION. The source language of the zlas assembler: literals, symbols, expressions, register and modifier
names, statements and directives (R332 to R335), and the object it makes (R289, R335). -/

namespace Sys2Proof.Zlas

open Machine (Fmt)

/-- A name or a piece of source text, a list of ASCII characters. -/
abbrev Text := List Char

/-- Why zlas refuses a module (R337, R401). -/
inductive Refuse where
  /-- A word would be an illegal encoding. -/
  | illegal
  /-- An offset, immediate or register lies outside its field. -/
  | field
  /-- A target is not a code symbol of the same kernel. -/
  | target
  /-- A directive's operand breaks its limits. -/
  | directive
  /-- IF, ELSE, ENDIF, LOOP and ENDLOOP do not nest, or a BREAK or CONT stands outside its LOOP's own body. -/
  | nesting
  /-- An expression uses a symbol that has no value, or mixes symbols that make no constant. -/
  | symbol
  /-- A literal or a modifier that is none. -/
  | lexical
  deriving DecidableEq, Repr

/-! ## Lexical rules (R332) -/

/-- The statement without its comment: ; or // to the end of the line. -/
def stripComment : Text → Text
  | [] => []
  | ';' :: _ => []
  | '/' :: '/' :: _ => []
  | c :: t => c :: stripComment t

/-- Mnemonics, modifiers, register names and directives are not case-sensitive. -/
def fold (t : Text) : Text := t.map Char.toLower
def isLetter (c : Char) : Bool := ('a' ≤ c && c ≤ 'z') || ('A' ≤ c && c ≤ 'Z') || c == '_'
def isDigit (c : Char) : Bool := '0' ≤ c && c ≤ '9'
/-- A symbol: a letter or _, then letters, digits and _. -/
def isSymbol : Text → Bool
  | [] => false
  | c :: t => isLetter c && t.all (fun x => isLetter x || isDigit x)

/-- The value of a digit in a base. -/
def digitIn (base : Nat) (c : Char) : Option Nat :=
  let v := if isDigit c then c.toNat - 48 else if 'a' ≤ c && c ≤ 'f' then c.toNat - 87 else base
  if v < base then some v else none
/-- Digits in a base, with _ allowed between two digits. -/
def digits (base : Nat) : Nat → Text → Option Nat
  | n, [] => some n
  | n, '_' :: c :: t => (digitIn base c).bind (fun d => digits base (n * base + d) t)
  | n, c :: t => (digitIn base c).bind (fun d => digits base (n * base + d) t)
/-- At least one digit, the first not _. -/
def natIn (base : Nat) : Text → Option Nat
  | [] => none
  | c :: t => (digitIn base c).bind (fun d => digits base d t)
/-- An unsigned integer: decimal, 0x hexadecimal or 0b binary. -/
def natLit : Text → Option Nat
  | '0' :: 'x' :: t => natIn 16 t
  | '0' :: 'b' :: t => natIn 2 t
  | t => natIn 10 t
/-- An integer, with an optional leading -. -/
def intLit (t : Text) : Option Int :=
  match fold t with
  | '-' :: u => (natLit u).map (fun n => -(n : Int))
  | u => (natLit u).map (fun n => (n : Int))

/-- n × 10^k as m × 2^e, exact for k ≥ 0, and else cut far below any format's last place with a sticky low bit. -/
def decimal (n : Nat) (k : Int) : Nat × Int :=
  if 0 ≤ k then (n * 10 ^ k.toNat, 0) else
  let d := 10 ^ (-k).toNat
  let q := n * 2 ^ 1200 / d
  (2 * q + (if n * 2 ^ 1200 % d = 0 then 0 else 1), -1201)
/-- A magnitude in a decimal literal: digits before and after the point, and the exponent; one of point and
exponent stands in it. -/
def floatParts (t : Text) : Option (Nat × Int) :=
  let ip := t.takeWhile isDigit
  let r := t.dropWhile isDigit
  let fp := match r with
    | '.' :: u => u.takeWhile isDigit
    | _ => []
  let r' := match r with
    | '.' :: u => u.dropWhile isDigit
    | _ => r
  let ex : Option Int := match r' with
    | [] => if r.isEmpty then none else some 0
    | 'e' :: '-' :: u => (natIn 10 u).map (fun n => -(n : Int))
    | 'e' :: '+' :: u => (natIn 10 u).map (fun n => (n : Int))
    | 'e' :: u => (natIn 10 u).map (fun n => (n : Int))
    | _ => none
  match natIn 10 (ip ++ fp), ex with
  | some n, some x => some (n, x - (fp.length : Int))
  | _, _ => none
/-- A floating-point literal in a format, rounded to nearest-even (R332). -/
def floatLit (F : Fmt) (t : Text) : Option Nat :=
  let neg := (fold t).head? == some '-'
  let u := if neg then (fold t).drop 1 else fold t
  if u = ['i', 'n', 'f'] then some (F.infBits neg)
  else if u = ['n', 'a', 'n'] then some F.nanBits
  else (floatParts u).map (fun p =>
    if p.1 = 0 then F.signed neg 0 else
    let v := decimal p.1 p.2
    (F.round Machine.rmNear 0 neg v.1 v.2).bits)

/-! ## Symbols and expressions (R332) -/

/-- What a symbol stands for: a constant, the word offset of a code symbol in its kernel, or a byte of the data. -/
inductive SymVal where
  | const (n : Int)
  | code (kernel word : Nat)
  | data (byte : Nat)
  deriving DecidableEq, Repr

/-- The symbols of a module; the first entry of a name is its value. -/
abbrev Env := List (Text × SymVal)
def Env.find (e : Env) (n : Text) : Option SymVal := (e.find? (fun p => p.1 == n)).map (·.2)

/-- An expression over integers and symbols (R332). -/
inductive Expr where
  | int (n : Int)
  | sym (n : Text)
  | add (a b : Expr)
  | sub (a b : Expr)
  | mul (a b : Expr)
  | shl (a b : Expr)
  | shr (a b : Expr)
  | and (a b : Expr)
  | or (a b : Expr)
  deriving DecidableEq, Repr

/-- A bitwise operation on 64-bit two's complement. -/
def bitwise (f : W64 → W64 → W64) (a b : Int) : Int := (f (BitVec.ofInt 64 a) (BitVec.ofInt 64 b)).toInt
/-- A constant operand of an operator. -/
def SymVal.num : SymVal → Except Refuse Int
  | .const n => .ok n
  | _ => .error .symbol
/-- The value of an expression; a code symbol minus a code symbol of the same kernel is a constant, in words. -/
def Expr.value (env : Env) : Expr → Except Refuse SymVal
  | .int n => .ok (.const n)
  | .sym n => match env.find n with
    | some v => .ok v
    | none => .error .symbol
  | .add a b => do return .const ((← (← a.value env).num) + (← (← b.value env).num))
  | .sub a b => do
    match ← a.value env, ← b.value env with
    | .code k x, .code l y => if k = l then .ok (.const ((x : Int) - y)) else .error .symbol
    | x, y => return .const ((← x.num) - (← y.num))
  | .mul a b => do return .const ((← (← a.value env).num) * (← (← b.value env).num))
  | .shl a b => do return .const ((← (← a.value env).num) * 2 ^ (← (← b.value env).num).toNat)
  | .shr a b => do return .const ((← (← a.value env).num) / 2 ^ (← (← b.value env).num).toNat)
  | .and a b => do return .const (bitwise (· &&& ·) (← (← a.value env).num) (← (← b.value env).num))
  | .or a b => do return .const (bitwise (· ||| ·) (← (← a.value env).num) (← (← b.value env).num))
/-- An expression that is a constant. -/
def Expr.num (env : Env) (x : Expr) : Except Refuse Int := (x.value env).bind SymVal.num

/-! ## Operand and modifier names (R312, R315, R333, R334) -/

/-- v0 to v191 and s0 to s63 as the operand field of R312. -/
def register (t : Text) : Option (BitVec 8) :=
  match fold t with
  | 'v' :: u => (natIn 10 u).bind (fun n => if n < 192 then some (BitVec.ofNat 8 n) else none)
  | 's' :: u => (natIn 10 u).bind (fun n => if n < 64 then some (BitVec.ofNat 8 (192 + n)) else none)
  | _ => none
/-- k0 to k7, as an operand or as the guard prefix without its question mark: !k is the inverse. -/
def mask (t : Text) : Option Guard :=
  let go (neg : Bool) (u : Text) : Option Guard := match u with
    | ['k', c] => (digitIn 8 c).map (fun n => { neg, k := BitVec.ofNat 3 n })
    | _ => none
  match fold t with
  | '!' :: u => go true u
  | u => go false u

/-- A modifier and the field value it sets (R334). -/
inductive Modifier where
  | ty (t : Ty)
  | dsc (d : Dsc)
  | clamp
  | scope (c : Scope)
  | size (z : Size)
  | strm (n : BitVec 2)
  | sp
  deriving DecidableEq, Repr

/-- The modifier a name without its point spells (R334). -/
def modifier (t : Text) : Option Modifier :=
  match String.ofList (fold t) with
  | "i32" => some (.ty .i32) | "n32" => some (.ty .n32) | "i64" => some (.ty .i64) | "n64" => some (.ty .n64)
  | "i16x2" => some (.ty .i16x2) | "n16x2" => some (.ty .n16x2) | "i8x4" => some (.ty .i8x4) | "n8x4" => some (.ty .n8x4)
  | "f32" => some (.ty .f32) | "f16x2" => some (.ty .f16x2) | "bf16x2" => some (.ty .bf16x2) | "f64" => some (.ty .f64)
  | "x2" => some (.dsc .x2) | "x4" => some (.dsc .x4) | "x8" => some (.dsc .x8)
  | "d2" => some (.dsc .d2) | "d4" => some (.dsc .d4) | "d8" => some (.dsc .d8)
  | "clamp" => some .clamp
  | "team" => some (.scope .team) | "clu" => some (.scope .cluster) | "dev" => some (.scope .device) | "sys" => some (.scope .system)
  | "b8" => some (.size .b8) | "b16" => some (.size .b16) | "b32" => some (.size .b32) | "b64" => some (.size .b64)
  | "b128" => some (.size .b128) | "b256" => some (.size .b256)
  | "st0" => some (.strm 0) | "st1" => some (.strm 1) | "st2" => some (.strm 2) | "st3" => some (.strm 3)
  | "sp" => some .sp
  | _ => none
/-- A modifier on a V-form word; one that the form does not take is refused (R334). -/
def VForm.modify (f : VForm) : Modifier → Option VForm
  | .ty ty => some { f with ty }
  | .dsc dsc => some { f with dsc }
  | .clamp => some { f with clamp := true }
  | .sp => some { f with sp := true }
  | _ => none
/-- A modifier on an M-form word. -/
def MForm.modify (f : MForm) : Modifier → Option MForm
  | .scope scope => some { f with scope }
  | .size size => some { f with size }
  | .strm strm => some { f with strm }
  | .sp => some { f with sp := true }
  | _ => none

/-! ## Statements and directives (R333, R335) -/

/-- The operand of a statement that zlas works out: a branch target or LEAI label, or an immediate or offset. -/
inductive Arg where
  | none
  | label (n : Text)
  | imm (x : Expr)
  deriving DecidableEq, Repr

/-- A statement of a kernel's code. The instruction carries the registers and modifiers as written, and zero in the field
that the operand fills. -/
inductive Line where
  /-- name: -/
  | label (n : Text)
  | word (i : Instr) (arg : Arg)
  /-- .entry -/
  | entry (n : Text)
  /-- .block, with the symbol that becomes the PFO target -/
  | block (pfo : Option Text)
  deriving DecidableEq, Repr

/-- The directives that fill the kernel descriptor (R335). -/
inductive KDir where
  | role (n : Expr) (entry : Text) (nreg ngrp : Expr)
  | team (fbank nbar : Expr)
  | cluster (cx cy : Expr)
  | scratch (bytes : Expr)
  | acc (tiles : Expr)
  deriving DecidableEq, Repr

/-- A line of the data section (R335). -/
inductive DLine where
  | label (n : Text)
  | align (n : Expr)
  /-- .byte, .half, .word and .dword: values of 1, 2, 4 and 8 bytes -/
  | ints (bytes : Nat) (vs : List Expr)
  /-- .f32, each value a literal -/
  | f32 (vs : List Text)
  | space (n : Expr)
  | cbook (n : Text)
  deriving DecidableEq, Repr

structure Kernel where
  name : Text
  dirs : List KDir
  code : List Line
  deriving DecidableEq, Repr

structure Module where
  name : Text
  equs : List (Text × Expr)
  kernels : List Kernel
  data : List DLine
  deriving DecidableEq, Repr

/-- A role of a kernel descriptor: ENTRY as a word offset from CODE, NREG and NGRP. -/
structure Role where
  entry : Nat
  nreg : Nat
  ngrp : Nat
  deriving DecidableEq, Repr

/-- The kernel descriptor that the loader reads when it builds a launch record (R171, R335). -/
structure Desc where
  roles : List (Nat × Role) := []
  fbank : Nat := 0
  nbar : Nat := 0
  cx : Nat := 1
  cy : Nat := 1
  scratch : Nat := 0
  nacc : Nat := 0
  deriving DecidableEq, Repr

/-- A side-table entry of 24 bytes, as its words 0 to 2 (R289). -/
structure SafePoint where
  ordinal : Nat
  offset : Nat
  octets : BitVec 24
  scalars : W64
  deriving DecidableEq, Repr
/-- The three words of an entry (R289). -/
def SafePoint.words (p : SafePoint) : List W64 :=
  [BitVec.ofNat 64 (p.ordinal % 2 ^ 20 * 2 ^ 32 + p.offset % 2 ^ 32), p.octets.setWidth 64, p.scalars]

/-- What zlas emits: each kernel's code words and descriptor, the data bytes and the side table. -/
structure Object where
  kernels : List (Text × List W64 × Desc)
  data : List Byte
  side : List SafePoint
  deriving DecidableEq, Repr

/-- Where the loader puts the sections, which LEAI of a symbol outside its kernel needs: the word address of each kernel's
code and of the data. -/
structure Place where
  code : List Int := []
  data : Int := 0
  deriving DecidableEq, Repr

end Sys2Proof.Zlas
end

