-- ==== Sys2Proof/Machine/Assemble.lean ====
section
/-! DEFINITION. How zlas builds a module: the flow of a kernel's words, the registers each word reads and writes, the
blocks with their headers, the side table, the descriptor and the data (R289, R335 to R337, R400, R401). -/

namespace Sys2Proof.Zlas

/-! ## Registers read and written (R336) -/

/-- A set of registers by operand field: bits 0 to 191 for the vector registers, 192 to 255 for the scalar ones (R312). -/
abbrev RegSet := BitVec 256

/-- n registers from a field on. -/
def regs (f : BitVec 8) (n : Nat) : RegSet := BitVec.ofNat 256 (2 ^ n - 1) <<< f.toNat
/-- An operand of a type: a pair for a 64-bit vector operand (R313). -/
def opnd (t : Ty) (f : BitVec 8) : RegSet := regs f (if isV f && t.is64 then 2 else 1)
/-- An operand of a number of vector registers, or one scalar register. -/
def wide (n : Nat) (f : BitVec 8) : RegSet := regs f (if isV f then n else 1)

/-- What a word reads, and what it writes whole in every lane it executes in. -/
structure Use where
  reads : RegSet := 0
  writes : RegSet := 0
  deriving DecidableEq, Repr

def useUn (f : VForm) : Use := { reads := opnd f.ty f.a, writes := opnd f.ty f.d }
def useBin (f : VForm) : Use := { reads := opnd f.ty f.a ||| opnd f.ty f.b, writes := opnd f.ty f.d }
def useTern (f : VForm) : Use :=
  { reads := opnd f.ty f.a ||| opnd f.ty f.b ||| opnd f.ty f.c, writes := opnd f.ty f.d }
/-- An operand of a type, a plain register, and the result (LEA, the indexed shuffles, RDLANE). -/
def useIdx (f : VForm) : Use := { reads := opnd f.ty f.a ||| regs f.b 1, writes := opnd f.ty f.d }
/-- An operand of a type and a 32-bit or scalar result. -/
def useFlag (f : VForm) : Use := { reads := opnd f.ty f.a, writes := regs f.d 1 }
/-- CVT: the format's side is a pair for its 64-bit formats (R362). -/
def useCvt (f : VForm) : Use :=
  let fm (r : BitVec 8) : RegSet := wide (if [2, 3, 5].contains (cvtFm f.c) then 2 else 1) r
  if cvtDir f.c then
    { reads := opnd f.ty f.a ||| (if cvtPair f.c then opnd f.ty f.b else 0), writes := fm f.d }
  else { reads := fm f.a, writes := opnd f.ty f.d }
/-- KMOV by its form (R384). -/
def useKmov (f : VForm) : Use :=
  if f.c == 1 then { reads := opnd f.ty f.a } else if f.c == 2 then { reads := regs f.a 1 }
  else if f.c == 3 then { writes := regs f.d 1 } else {}

/-- BASE, a pair where it is a vector register of a global address (R415), and IDX unless there is none. -/
def addrRegs (f : MForm) (glob : Bool) : RegSet :=
  wide (if glob then 2 else 1) f.base ||| (if noIdx f then 0 else regs f.idx 1)
def useLoad (glob : Bool) (f : MForm) : Use := { reads := addrRegs f glob, writes := wide f.size.regs f.d }
def useStore (glob : Bool) (f : MForm) : Use := { reads := addrRegs f glob ||| wide f.size.regs f.d }
def useAddr (glob : Bool) (f : MForm) : Use := { reads := addrRegs f glob }
/-- ATOM: IDX holds the operand, two of them for CAS (R426). -/
def useAtom (n : Nat) (f : MForm) : Use :=
  { reads := wide 2 f.base ||| regs f.idx (if isV f.idx then n * f.size.regs else n), writes := wide f.size.regs f.d }

/-- A record pair: two scalar registers (R318). -/
def pair (f : BitVec 8) : RegSet := regs f 2
def useA (f : TForm) : Use := { reads := pair f.ra }
def useAB (f : TForm) : Use := { reads := pair f.ra ||| pair f.rb }
def useCopy (f : TForm) : Use := { reads := pair f.ra ||| pair f.rb ||| regs f.aux 1 }

def useImm (f : IForm) : Use := { reads := regs f.a 1, writes := regs f.d 1 }

/-- A half of a pair (R326). -/
def usePair (f : PForm) : Use :=
  let one (h : PHalf) : RegSet := match pRow h.cop h.t with
    | some r => (h.reads r.use).foldl (fun m x => m ||| regs (x.setWidth 8) 1) 0
    | none => 0
  { reads := one f.h0 ||| one f.h1, writes := regs (f.h0.d.setWidth 8) 1 ||| regs (f.h1.d.setWidth 8) 1 }

/-- The registers a word reads and writes. A lane word of VXEC may name any register and defines none; WRLANE writes
one lane (R336, R383). Events are no words. -/
def use (i : Instr) : Use :=
  match i with
  | .pair f => usePair f
  | .iadd f | .isub f | .imul f | .imulh f | .imin f | .imax f | .icmp f | .andV f | .orV f | .xorV f | .andn f
  | .shl f | .shr f | .sar f | .bfe f | .fadd f | .fsub f | .fmul f | .fmin f | .fmax f | .fcmp f | .pack f => useBin f
  | .imad f | .isel f | .bfi f | .idp4 f | .fdp2 f | .ffma f | .fsel f => useTern f
  | .popc f | .clz f | .brev f | .frnd f | .fclass f | .frcp f | .frsq f | .fsqrt f | .fexp2 f | .flog2 f | .fsin f
  | .fcos f | .ftanh f | .unpack f | .mov f | .shflup f | .shfldn f | .vred f | .vscan f | .vstep f | .rdfirst f => useUn f
  | .lea f | .shfl f | .shflx f | .shflr f | .rdlane f => useIdx f
  | .vote f | .ballot f | .matchV f => useFlag f
  | .cvt f => useCvt f
  | .rand f => { writes := regs f.d 1 }
  | .wrlane f => { reads := regs f.a 1 ||| regs f.b 1 ||| opnd f.ty f.d }
  | .kmov f => useKmov f
  | .kpop f | .kffs f => { writes := regs f.d 1 }
  | .vxec _ => { reads := BitVec.allOnes 256 }
  | .spawn f => { reads := regs f.a 1 ||| regs f.b 1, writes := regs f.d 1 }
  | .ld f | .ldAcq f => useLoad true f
  | .st f | .stRel f => useStore true f
  | .lds f | .ldwF f | .ldwFE f => useLoad false f
  | .sts f | .stwE f => useStore false f
  | .ldfrag f | .ldfragT f => { reads := addrRegs f false, writes := regs f.d 4 }
  | .tagset f | .tagclr f => useAddr false f
  | .larm f | .barinit f | .bwait f => { reads := addrRegs f false ||| regs f.d 1 }
  | .barr f | .arrw f => { reads := addrRegs f false, writes := regs f.d 1 }
  | .qpush f => { reads := regs f.d 1 }
  | .qpop f => { writes := regs f.d 1 }
  | .pref f | .cinvL1 f | .cinvTlb f => useAddr true f
  | .atomAdd f | .atomMin f | .atomMax f | .atomMinN f | .atomMaxN f | .atomAnd f | .atomOr f | .atomXor f | .atomExch f
  | .atomFadd f | .atomFmin f | .atomFmax f | .atomIncwrap f => useAtom 1 f
  | .atomCas f => useAtom 2 f
  | .redAdd f | .redMin f | .redMax f | .redMinN f | .redMaxN f | .redAnd f | .redOr f | .redXor f | .redFadd f
  | .redFmin f | .redFmax f | .redIncwrap f => useStore true f
  | .brx f | .ret f => { reads := regs f.a 1 }
  | .call f => { writes := regs f.a 1 }
  | .movi f | .fmovi f | .leai f => { writes := regs f.d 1 }
  | .movih f => if isS f.d then { reads := regs f.d 1, writes := regs f.d 1 } else { writes := regs (f.d + 1) 1 }
  | .iaddi f | .andi f | .ori f | .xori f | .shli f | .icmpi f => useImm f
  | .mfsr f => { writes := regs f.d (if isV f.d && ((Sr.ofNum f.sreg).map Sr.is64).getD false then 2 else 1) }
  | .mtsr f => { reads := regs f.a 1 }
  | .tmma f | .tmmag f => useAB f
  | .tloada f | .hread f | .cbook f | .cbookDef f | .coll f => useA f
  | .tdrain f => { reads := pair f.ra ||| (if drainHen f then regs f.aux 1 else 0) }
  | .tsplit f => { reads := pair f.ra ||| pair f.rb ||| regs f.aux 1 ||| (if f.fn.getLsbD 8 then regs f.td 1 else 0) }
  | .cpy f | .cpy2 f | .fput f | .fget f => useCopy f
  | .cpy3 f => { reads := pair f.td ||| pair f.ra ||| pair f.rb ||| regs f.aux 1 }
  | .fsigInstr f => useAB f
  | .ccancel f => { reads := pair f.ra ||| regs f.aux 1 }
  | .cstat f => { reads := pair f.ra, writes := regs f.td 1 }
  | _ => {}

/-- The guard of a word executes it in every active lane: k0, or no guard at all (R308, R317, R326). -/
def unguarded (i : Instr) : Bool :=
  match encode i with
  | none => true
  | some w => match wordF w with
    | 2 => true
    | 4 => w.extractLsb' 41 4 == 0
    | _ => w.extractLsb' 1 4 == 0
def isC (i : Instr) : Bool := (encode i).any (fun w => wordF w == 4)
def stops (i : Instr) : Bool := (encode i).any (fun w => w.getLsbD 0)

/-! ## Structures (R400, R401) -/

/-- Nesting: each IF, perhaps with one ELSE, ends at its ENDIF and each LOOP at its ENDLOOP; BREAK and CONT stand directly
in a LOOP. The open structures are true for a LOOP, with whether an ELSE may still come. -/
def nests : List (Bool × Bool) → List Instr → Bool
  | os, [] => os.isEmpty
  | os, i :: is => match i, os with
    | .ifW _, _ => nests ((false, true) :: os) is
    | .loopW _, _ => nests ((true, false) :: os) is
    | .elseW _, (false, true) :: r => nests ((false, false) :: r) is
    | .elseW _, _ => false
    | .endifW _, (false, _) :: r => nests r is
    | .endifW _, _ => false
    | .endloopW _, (true, _) :: r => nests r is
    | .endloopW _, _ => false
    | .breakW _, (true, _) :: _ => nests os is
    | .breakW _, _ => false
    | .contW _, (true, _) :: _ => nests os is
    | .contW _, _ => false
    | _, _ => nests os is

/-- How many words before the one that ends the structure open at the start of the list, or reaches its ELSE where that
ends the search. -/
def closer (els : Bool) : Nat → List Instr → Option Nat
  | _, [] => none
  | d, i :: is =>
    let go (d : Nat) : Option Nat := (closer els d is).map (· + 1)
    match i with
    | .ifW _ | .loopW _ => go (d + 1)
    | .elseW _ => if els && d == 0 then some 0 else go d
    | .endifW _ | .endloopW _ => match d with
      | 0 => some 0
      | d + 1 => go d
    | _ => go d

/-- For each word, how many structures are open before it. -/
def depths : Nat → List Instr → List Nat
  | _, [] => []
  | d, i :: is => d :: (match i with
    | .ifW _ | .loopW _ => depths (d + 1) is
    | .endifW _ | .endloopW _ => depths (d - 1) is
    | _ => depths d is)

/-- The word that a structured instruction's header stands before (R400). -/
def structTarget (ws : List Instr) (i : Nat) : Option Nat :=
  let ahead (els : Bool) : Option Nat := (closer els 0 (ws.drop (i + 1))).map (· + (i + 1))
  match ws[i]? with
  | some (.ifW _) => ahead true
  | some (.elseW _) | some (.loopW _) | some (.breakW _) => ahead false
  | some (.endloopW _) =>
    let opens (x : Instr) : Bool := match x with
      | .loopW _ => true
      | _ => false
    ((List.range i).reverse.find? (fun j =>
      (ws[j]?).any opens && (closer false 0 (ws.drop (j + 1))).map (· + (j + 1)) == some i)).map (· + 1)
  | _ => none

/-! ## Code without its headers -/

/-- A kernel's words with their operands, the symbols by the word they stand before, the words that a .block starts, and
the symbols of .entry. -/
structure Body where
  words : List (Instr × Arg) := []
  labels : List (Text × Nat) := []
  blocks : List (Nat × Option Text) := []
  entries : List Text := []
  deriving DecidableEq, Repr

def bodyGo (b : Body) : List Line → Body
  | [] => b
  | .word i a :: ls => bodyGo { b with words := b.words ++ [(i, a)] } ls
  | .label n :: ls => bodyGo { b with labels := b.labels ++ [(n, b.words.length)] } ls
  | .entry n :: ls => bodyGo { b with entries := b.entries ++ [n] } ls
  | .block p :: ls => bodyGo { b with blocks := b.blocks ++ [(b.words.length, p)] } ls
def bodyOf (ls : List Line) : Body := bodyGo {} ls

def Body.instrs (b : Body) : List Instr := b.words.map (·.1)
def Body.find (b : Body) (n : Text) : Option Nat := (b.labels.find? (fun p => p.1 == n)).map (·.2)

/-- The word that a C-form word's target header stands before: its label, or that of its structure. -/
def Body.target (b : Body) (i : Nat) : Option Nat :=
  match b.words[i]? with
  | some (x, .label n) => if isC x then b.find n else none
  | _ => structTarget b.instrs i

/-- The words that a header is placed before: the first, every target, entry and .block, and the one after every C-form
word (R336). -/
def Body.headed (b : Body) (roles : List Text) : List Nat :=
  let n := b.words.length
  let ts := (List.range n).filterMap b.target
  let after := (List.range n).filterMap (fun i =>
    if ((b.instrs[i]?).map isC).getD false && i + 1 < n then some (i + 1) else none)
  let hints := b.blocks.filterMap (fun p => p.2.bind b.find)
  [0] ++ ts ++ (b.entries ++ roles).filterMap b.find ++ hints ++ b.blocks.map (·.1) ++ after

/-- The first words of the blocks: where a header is due, and wherever a block would pass 511 words. left counts the
words still to go from i, len those of the open block with its header. -/
def startsGo (hs : List Nat) : Nat → Nat → Nat → List Nat
  | 0, i, _ => if hs.contains i then [i] else []
  | left + 1, i, len =>
    if hs.contains i || len == 511 then i :: startsGo hs left (i + 1) 2 else startsGo hs left (i + 1) (len + 1)
def Body.starts (b : Body) (roles : List Text) : List Nat := startsGo (b.headed roles) b.words.length 0 0

/-- The word offset of word i, and of the header before word j. -/
def wordAt (ss : List Nat) (i : Nat) : Nat := i + (ss.filter (· ≤ i)).length
def headAt (ss : List Nat) (j : Nat) : Nat := j + (ss.filter (· < j)).length
/-- The start of the block that holds word i. -/
def blockOf (ss : List Nat) (i : Nat) : Nat := ((ss.filter (· ≤ i)).getLast?).getD 0

/-! ## Live registers (R336) -/

/-- The words that may follow word i. A target taken from a register, and the return from a trap, may be any header or
any word. -/
def Body.next (b : Body) (ss : List Nat) (ds : List Nat) (i : Nat) : List Nat :=
  let fall := [i + 1]
  let t := (b.target i).toList
  match b.instrs[i]? with
  | none => []
  | some x =>
    let guarded := if unguarded x then [] else fall
    match x with
    | .bra _ | .exits _ => t ++ guarded
    | .brx _ | .ret _ => ss ++ guarded
    | .exitW _ => if ds[i]? == some 0 then guarded else fall
    | .trapRet _ => List.range b.words.length
    | _ => t ++ fall

/-- The registers live before each word, from those before every later word and an earlier estimate. A write defines its
registers only where it is unguarded and no structure is open. -/
def Body.sweep (b : Body) (ss : List Nat) (ds : List Nat) (old : List RegSet) : List RegSet :=
  let n := b.words.length
  (List.range n).foldr (fun i later =>
    let live (j : Nat) : RegSet := if i < j then (later[j - i - 1]?).getD 0 else (old[j]?).getD 0
    let after := (b.next ss ds i).foldl (fun m j => m ||| live j) 0
    match b.instrs[i]? with
    | none => later
    | some x =>
      let u := use x
      let defs := if unguarded x && ds[i]? == some 0 then u.writes else 0
      (u.reads ||| (after &&& ~~~defs)) :: later) []
/-- Sweeps until nothing changes; a path without repeats takes at most one backward edge into each block. -/
def Body.liveGo (b : Body) (ss ds : List Nat) : Nat → List RegSet → List RegSet
  | 0, l => l
  | k + 1, l => let l' := b.sweep ss ds l; if l' = l then l else b.liveGo ss ds k l'
def Body.live (b : Body) (ss : List Nat) : List RegSet :=
  let ds := depths 0 b.instrs
  b.liveGo ss ds (b.words.length + 1) (b.words.map (fun _ => 0))

/-- The octets that hold a live vector register. -/
def octetsOf (l : RegSet) : BitVec 24 :=
  (List.range 24).foldl (fun m j => if l.extractLsb' (8 * j) 8 == 0 then m else m ||| (1#24 <<< j)) 0
/-- One more than the highest octet in the set, 0 for none. -/
def topOctet (m : BitVec 24) : Nat :=
  (((List.range 24).reverse.find? (fun j => m.getLsbD j)).map (· + 1)).getD 0

/-! ## Fields (R336, R337) -/

/-- A signed value of a field, or nothing where it does not fit. -/
def signedIn (w : Nat) (v : Int) : Option (BitVec w) :=
  if -(2 ^ (w - 1) : Int) ≤ v ∧ v < 2 ^ (w - 1) then some (BitVec.ofInt w v) else none
def unsignedIn (w : Nat) (v : Int) : Option (BitVec w) :=
  if 0 ≤ v ∧ v < 2 ^ w then some (BitVec.ofInt w v) else none
/-- A bit pattern, written as either. -/
def patternIn (w : Nat) (v : Int) : Option (BitVec w) := (signedIn w v).or (unsignedIn w v)
/-- A word with a field that was zero filled in. -/
def putField {w : Nat} (word : W64) (lo : Nat) (v : Option (BitVec w)) : Except Refuse W64 :=
  match v with
  | some x => .ok (word ||| (x.setWidth 64 <<< lo))
  | none => .error .field

/-- A hint: zero where it does not fit (R336). -/
def hintOf (v : Int) : BitVec 12 := (signedIn 12 v).getD 0
/-- A header word (R320). -/
def header (len : Nat) (rcv pfo : BitVec 12) (ord : BitVec 20) (lvo : Nat) : W64 :=
  0#3 ++ BitVec.ofNat 9 len ++ rcv ++ pfo ++ ord ++ BitVec.ofNat 6 lvo ++ 0#2

/-- RCV: the block of the word that closes the innermost structure open at the start (R320, R336). -/
def Body.rcv (b : Body) (ss : List Nat) (s : Nat) : BitVec 12 :=
  match closer false 0 (b.instrs.drop s) with
  | none => 0
  | some k => hintOf ((headAt ss (blockOf ss (s + k)) : Int) - headAt ss s)
/-- PFO: the .block target; else that of a backward branch that ends the block, else the next header (R336). -/
def Body.pfo (b : Body) (ss : List Nat) (s : Nat) : BitVec 12 :=
  let next := ss.find? (s < ·)
  let last := (next.getD b.words.length) - 1
  let given := ((b.blocks.find? (fun p => p.1 == s && p.2.isSome)).bind (·.2)).bind b.find
  let back := (b.target last).filter (· ≤ last)
  match given.or (back.or next) with
  | none => 0
  | some j => hintOf ((headAt ss j : Int) - headAt ss s)

/-! ## Words -/

/-- A word's place: its kernel's number and the word address of its code, its own offset, the offset of its target, and
the symbols. -/
structure Site where
  env : Env
  place : Place
  kernel : Nat
  at_ : Nat
  target : Option Nat

/-- The word with its immediate or offset (R316, R317, R319, R369): where the field stands, and how it is read. -/
def immWord (i : Instr) (w : W64) (v : Int) : Except Refuse W64 :=
  match i with
  | .iaddi _ => putField w 5 (signedIn 32 v)
  | .icmpi _ => putField w 5 (signedIn 28 v)
  | .shli _ => putField w 5 (unsignedIn 6 v)
  | .shutS _ | .shutQ _ | .shutC _ | .shutCq _ | .qpush _ | .qpop _ => putField w 13 (unsignedIn 5 v)
  | _ => match wordF w with
    | 1 => putField w 21 (unsignedIn 8 v)
    | 3 => putField w 13 (signedIn 16 v)
    | 6 => putField w 5 (patternIn 32 v)
    | 7 => putField w 5 (unsignedIn 16 v)
    | _ => .error .field
/-- LEAI: the signed word offset to a symbol of the module in code or data, 8-byte aligned (R369, R370). -/
def leaiWord (p : Site) (w : W64) (n : Text) : Except Refuse W64 :=
  let from_ := (p.place.code[p.kernel]?).getD 0 + p.at_
  match p.env.find n with
  | some (.code k x) => putField w 5 (signedIn 32 (((p.place.code[k]?).getD 0 + x) - from_))
  | some (.data y) => if y % 8 = 0 then putField w 5 (signedIn 32 (p.place.data + (y / 8 : Nat) - from_)) else .error .field
  | _ => .error .target
/-- One word: its operand filled in, a C-form target as OFS from this word, and nothing emitted that is an illegal
encoding (R317, R337). -/
def emit (p : Site) (i : Instr) (a : Arg) : Except Refuse W64 := do
  let some w := encode i | throw .illegal
  let word ← match a, p.target with
    | .imm x, _ => do immWord i w (← x.num p.env)
    | .label n, none => match i with
      | .leai _ => leaiWord p w n
      | _ => throw .target
    | _, some t => putField w 9 (signedIn 24 ((t : Int) - p.at_))
    | .none, none => pure w
  match decode word with
  | .ok _ => return word
  | .error _ => throw .illegal

/-! ## Kernels, data and modules -/

/-- What a kernel adds: its words, its safe points, and the ordinal base after it. -/
structure Built where
  words : List W64
  side : List SafePoint
  ord : Nat

/-- The blocks of a kernel from an ordinal base: every header and word in order (R289, R336). -/
def Body.build (b : Body) (env : Env) (place : Place) (kernel ord : Nat) (roles : List Text) : Except Refuse Built := do
  if !nests [] b.instrs then throw .nesting
  let ss := b.starts roles
  let live := b.live ss
  let n := b.words.length
  (List.range (n + 1)).foldlM (init := ({ words := [], side := [], ord } : Built)) (fun acc i => do
    let acc ← if !ss.contains i then pure acc else do
      let next := (ss.find? (i < ·)).getD n
      let some o := unsignedIn 20 acc.ord | throw .field
      let lvo := topOctet (octetsOf ((live[i]?).getD 0))
      pure { acc with words := acc.words ++ [header (1 + (next - i)) (b.rcv ss i) (b.pfo ss i) o lvo] }
    match b.words[i]? with
    | none => return acc
    | some (x, a) =>
      let pos := wordAt ss i
      let w ← emit { env, place, kernel, at_ := pos, target := (b.target i).map (headAt ss) } x a
      let l := (live[i]?).getD 0
      let acc := { acc with words := acc.words ++ [w] }
      if !stops x then return acc
      return { acc with side := acc.side ++ [{ ordinal := acc.ord, offset := pos, octets := octetsOf l
                                               scalars := l.extractLsb' 192 64 }], ord := acc.ord + 1 })

/-- A directive's operand within its limits (R335). -/
def within (env : Env) (x : Expr) (ok : Nat → Bool) : Except Refuse Nat := do
  let v ← x.num env
  if 0 ≤ v && ok v.toNat then return v.toNat else throw .directive
/-- The directives of a kernel descriptor with the limits of R335 and the sizes of the fields of R171. -/
def describe (env : Env) (entry : Text → Option Nat) (d : Desc) : KDir → Except Refuse Desc
  | .role n e nreg ngrp => do
    let n ← within env n (· ≤ 3)
    let nreg ← within env nreg (fun v => v % 8 == 0 && v ≤ 192)
    let ngrp ← within env ngrp (· ≤ 255)
    let some entry := entry e | throw .target
    return { d with roles := d.roles.filter (fun p => p.1 != n) ++ [(n, { entry, nreg, ngrp })] }
  | .team f b => do return { d with fbank := ← within env f (· ≤ 31), nbar := ← within env b (· ≤ 64) }
  | .cluster x y => do
    let cx ← within env x (fun v => 1 ≤ v && v ≤ 12)
    let cy ← within env y (fun v => 1 ≤ v && v ≤ 12)
    if 12 < cx * cy then throw .directive
    return { d with cx, cy }
  | .scratch x => do return { d with scratch := ← within env x (· < 2 ^ 32) }
  | .acc x => do return { d with nacc := ← within env x (· ≤ 256) }

/-- The data section so far: its bytes, its symbols by byte offset, and how many .half values a .cbook still awaits. -/
structure DataAcc where
  bytes : List Byte := []
  labels : List (Text × Nat) := []
  cbook : Option Nat := none
  deriving DecidableEq, Repr

def leBytes (n : Nat) (v : Nat) : List Byte := (List.range n).map (fun k => BitVec.ofNat 8 (v / 2 ^ (8 * k)))
def DataAcc.pad (d : DataAcc) (n : Nat) : DataAcc :=
  { d with bytes := d.bytes ++ List.replicate ((n - d.bytes.length % n) % n) 0 }
/-- A line of data (R335). After .cbook exactly 256 .half values come before the next directive. -/
def dataLine (env : Env) (d : DataAcc) (x : DLine) : Except Refuse DataAcc := do
  let d ← match d.cbook, x with
    | none, _ => pure d
    | some left, .ints 2 vs =>
      if left < vs.length then throw .directive else pure { d with cbook := some (left - vs.length) }
    | some left, .label _ => if left == 0 then pure { d with cbook := none } else pure d
    | some left, _ => if left == 0 then pure { d with cbook := none } else throw .directive
  match x with
  | .label n => return { d with labels := d.labels ++ [(n, d.bytes.length)] }
  | .align n => do return d.pad (← within env n (fun v => (List.range 17).any (fun k => v == 2 ^ k)))
  | .ints k vs => vs.foldlM (fun d v => do
    match patternIn (8 * k) (← v.num env) with
    | some x => return { d with bytes := d.bytes ++ leBytes k x.toNat }
    | none => throw .field) d
  | .f32 vs => vs.foldlM (fun d v => match floatLit Machine.f32 v with
    | some x => .ok { d with bytes := d.bytes ++ leBytes 4 x }
    | none => .error .lexical) d
  | .space n => do return { d with bytes := d.bytes ++ List.replicate (← within env n (fun _ => true)) 0 }
  | .cbook n =>
    let d := d.pad 8
    return { d with labels := d.labels ++ [(n, d.bytes.length)], cbook := some 256 }
def dataOf (env : Env) (ls : List DLine) : Except Refuse DataAcc := do
  let d ← ls.foldlM (dataLine env) {}
  if d.cbook.any (0 < ·) then throw .directive
  return d

/-- The symbols of a role's entry, which need a header (R323). -/
def roleEntries (ds : List KDir) : List Text := ds.filterMap (fun d => match d with
  | .role _ e _ _ => some e
  | _ => none)
/-- The code symbols of the kernels, each at the offset of its header where it has one, else of its word. -/
def codeSyms (ks : List Kernel) : Env :=
  (ks.zipIdx).flatMap (fun (k, n) =>
    let b := bodyOf k.code
    let ss := b.starts (roleEntries k.dirs)
    b.labels.map (fun (l, j) => (l, SymVal.code n (if ss.contains j then headAt ss j else wordAt ss j))))

/-- A module assembled, or why it is refused; a refusal emits no object (R337). -/
def assemble (place : Place) (m : Module) : Except Refuse Object := do
  let code := codeSyms m.kernels
  let env ← m.equs.foldlM (fun env (n, x) => do return env ++ [(n, SymVal.const (← x.num env))]) code
  let data ← dataOf env m.data
  let env := env ++ data.labels.map (fun (n, y) => (n, SymVal.data y))
  let r ← m.kernels.zipIdx.foldlM (init := (([], [], 0) : List (Text × List W64 × Desc) × List SafePoint × Nat))
    (fun (ks, side, ord) (k, n) => do
      let b := bodyOf k.code
      let entry (e : Text) : Option Nat := match env.find e with
        | some (.code l x) => if l = n then some x else none
        | _ => none
      if !b.entries.all (fun e => (entry e).isSome) then throw .target
      let desc ← k.dirs.foldlM (describe env entry) {}
      let built ← b.build env place n ord (roleEntries k.dirs)
      return (ks ++ [(k.name, built.words, desc)], side ++ built.side, built.ord))
  return { kernels := r.1, data := data.bytes, side := r.2.1 }

end Sys2Proof.Zlas
end

