-- ==== Sys2Proof/Tests/Slice0.lean ====
section
/-! SUPPORT. Tests of the package: the legality checks, decoding against the encodings of the spec, the machine after
reset and a first step. -/

namespace Sys2Proof.Tests

open Machine

/-! ## Legality: one illegal word for each check (R310 to R319, R327 to R329) -/

/-- Legal words of each form, spoilt below one field at a time. -/
def v0 : VForm := { d := 4, a := 2, b := 6, c := 0, na := false, aa := false, nb := false, ab := false, nc := false, ac := false
                    clamp := false, dsc := .one, ty := .i32, g := { neg := false, k := 0 }, sp := false }
def m0 : MForm := { d := 4, base := 0xC4, idx := 0xFF, ofs := 0, scope := .plain, strm := 0, size := .b32
                    g := { neg := false, k := 0 }, sp := false }
def c0 : CForm := { a := 0, mask := { neg := false, k := 0 }, b := 0, ofs := 0, imm := 0, sp := false }
def t0 : TForm := { td := 0, ra := 0xC2, rb := 0xC4, aux := 0, fn := 0, g := { neg := false, k := 0 }, sp := false }
def i0 : IForm := { d := 4, a := 0, imm := 0, g := { neg := false, k := 0 }, sp := false }
def x0 : XForm := { d := 0, a := 0, sreg := 0, imm := 0, g := { neg := false, k := 0 }, sp := false }
def h0 : PHalf := { cop := 1, d := 8, a := 9, b := 10, na := false, nb := false, t := false }
def p0 : PForm := { h0, h1 := { h0 with cop := 3, d := 13, a := 14, b := 15, t := true }, sp := false }
/-- A V word with one source, and one with three. -/
def v1 : VForm := { v0 with b := 0 }
def v3 : VForm := { v0 with c := 8 }

/-- Integer and bitwise words: a wrong type, a modifier, an unused C, a scalar destination with a vector source, an odd
pair in each place, a selector out of range. -/
theorem test_wf_integer_refuses : ([
    .iadd { v0 with ty := .f32 }, .iadd { v0 with clamp := true }, .iadd { v0 with na := true }, .iadd { v0 with dsc := .x2 },
    .iadd { v0 with c := 1 }, .iadd { v0 with d := 0xC0 }, .iadd { v0 with ty := .i64, d := 5 },
    .iadd { v0 with ty := .i64, a := 5 }, .iadd { v0 with ty := .i64, b := 5 }, .imul { v0 with ty := .i8x4 },
    .imulh { v0 with ty := .i16x2 }, .imad { v3 with ty := .n8x4 }, .imad { v3 with nc := true },
    .imad { v3 with ty := .n64, c := 9 }, .imad { v3 with d := 0xC0, a := 0xC0, b := 0xC0 }, .icmp { v0 with c := 6 },
    .isel { v3 with ty := .f64 }, .lea { v0 with ty := .i8x4 }, .lea { v0 with c := 32 }, .lea { v0 with ty := .i64, a := 3 },
    .bfe { v0 with ty := .i16x2 }, .bfi { v3 with ty := .n8x4 }, .popc v0, .popc { v1 with c := 1 },
    .clz { v1 with ty := .i16x2 }, .brev { v1 with d := 0xC1 }, .idp4 v3, .idp4 { v3 with ty := .i8x4, clamp := true }
  ] : List Instr).all (fun i => !i.wf) = true := by decide +kernel
/-- Floating-point, conversion and move words. -/
theorem test_wf_float_refuses : ([
    .fadd v0, .fadd { v0 with ty := .f32, nc := true }, .fadd { v0 with ty := .f32, c := 1 }, .fadd { v0 with ty := .f64, a := 1 },
    .ffma v3, .fmin { v0 with ty := .f32, clamp := true }, .fcmp { v0 with ty := .f32, c := 8 }, .fsel { v3 with ty := .f32, ac := true },
    .frnd { v1 with ty := .f32, c := 4 }, .frnd { v1 with ty := .f32, clamp := true }, .fclass { v1 with ty := .f32, na := true },
    .fdp2 { v3 with ty := .f32 }, .fdp2 { v3 with ty := .f16x2, d := 0xC0 }, .frcp { v1 with ty := .f64 },
    .frcp { v1 with ty := .f32, dsc := .x2 }, .ftanh { v0 with ty := .f32 }, .cvt { v1 with ty := .f16x2 },
    .cvt { v1 with ty := .f32, clamp := true }, .cvt { v1 with ty := .f32, c := 0x01 }, .cvt { v1 with ty := .f32, c := 0x32 },
    .cvt { v1 with ty := .f32, c := 0x54 }, .cvt { v1 with ty := .f32, c := 0x78 }, .cvt { v0 with ty := .f32, c := 0xE0 },
    .cvt { v1 with ty := .f32, d := 0xC0, c := 0xE0 }, .cvt { v1 with ty := .f64, a := 3, c := 0xE0 },
    .cvt { v1 with ty := .f32, d := 3, c := 0xA8 }, .pack v0, .pack { v0 with ty := .n32, c := 4 }, .unpack { v1 with c := 0xC0 },
    .unpack { v1 with c := 0x38 }, .unpack { v1 with c := 0x42 }, .unpack { v1 with c := 0x54 }, .unpack { v0 with c := 0x40 },
    .rand { v0 with ty := .n32, a := 0, b := 0, d := 0xC0 }, .rand { v0 with ty := .n32, b := 0 }, .rand { v1 with a := 0 },
    .mov v0, .mov { v1 with na := true }, .mov { v1 with ty := .f32, nb := true }
  ] : List Instr).all (fun i => !i.wf) = true := by decide +kernel
/-- Lane-movement and mask words, VXEC and SPAWN. -/
theorem test_wf_lanes_refuses : ([
    .shfl { v0 with ty := .n32 }, .shfl { v0 with d := 0xC0 }, .shfl { v0 with c := 1 }, .shflx { v0 with ty := .i64, a := 3 },
    .shflup v0, .shflup { v1 with c := 8 }, .vote { v1 with c := 4 }, .vote { v1 with a := 0xC0 }, .ballot v1,
    .ballot { v1 with d := 0xC0, c := 1 }, .matchV { v1 with c := 2 }, .matchV { v1 with d := 0xC0 }, .vred { v1 with c := 6 },
    .vred { v1 with c := 8 }, .vred { v1 with a := 0xC0 }, .vred { v1 with ty := .f32, c := 3 }, .vscan { v1 with c := 16 },
    .vscan { v1 with d := 0xC0 }, .vstep { v1 with c := 0x80 }, .vstep { v1 with c := 0x08 }, .rdfirst v0, .rdfirst { v1 with a := 0xC1 },
    .rdlane { v0 with b := 6 }, .wrlane { v0 with a := 6, b := 0xC0 }, .wrlane { v0 with a := 0xC0, b := 6 }, .kand { v0 with c := 1 },
    .kand { v0 with d := 8, a := 1, b := 1 }, .kand { v0 with a := 8, b := 1 }, .kand { v0 with b := 8 },
    .knot { v0 with b := 1 }, .kmov { v1 with c := 4 }, .kmov { v1 with ty := .i64 }, .kmov { v1 with c := 2 }, .kmov { v1 with c := 3 },
    .kmov { v1 with c := 1, d := 8 }, .kpop v1, .kffs { v1 with d := 0xC0, a := 8 }, .vxec { v0 with d := 1, b := 1 },
    .vxec { v0 with d := 0, a := 3, b := 1 }, .vxec { v0 with d := 0, b := 8 }, .spawn { v0 with d := 0xC0 }, .spawn { v0 with c := 4 }
  ] : List Instr).all (fun i => !i.wf) = true := by decide +kernel
/-- Memory, atomic and synchronization words. -/
theorem test_wf_memory_refuses : ([
    .ld { m0 with base := 3 }, .ld { m0 with d := 5, size := .b64 }, .ld { m0 with d := 4, size := .b256 },
    .ld { m0 with d := 0xC0, size := .b128 }, .ld { m0 with d := 0xC0, idx := 3 }, .st { m0 with d := 0xC0, size := .b128 },
    .lds { m0 with strm := 1 }, .sts { m0 with strm := 1 }, .ldAcq m0, .ldAcq { m0 with scope := .team, size := .b128 }, .stRel m0,
    .ldwF { m0 with d := 0xC0 }, .ldwF { m0 with size := .b64 }, .ldwFE { m0 with scope := .team }, .stwE { m0 with size := .b8 },
    .stwE { m0 with strm := 2 }, .tagset { m0 with d := 0 }, .tagset m0, .tagclr { m0 with d := 1, size := .b8 }, .larm { m0 with size := .b64 },
    .larm { m0 with d := 0xC0 }, .barinit { m0 with d := 0xC0, size := .b64, base := 4 }, .barr { m0 with d := 0xC0, size := .b64, idx := 4 },
    .fenceAcq { m0 with d := 0, base := 0, idx := 0, size := .b8 }, .fenceRel { m0 with d := 0, base := 0, size := .b8, scope := .team },
    .fenceFull { m0 with d := 0, base := 0, idx := 0, ofs := 1, size := .b8, scope := .team },
    .shutS { m0 with d := 0, base := 0, idx := 0, size := .b8, ofs := 31 }, .shutQ { m0 with base := 0, idx := 0, size := .b8 },
    .qpush { m0 with base := 0, idx := 0, size := .b64 }, .qpop { m0 with d := 0xC0, base := 0, idx := 0 }, .qpop { m0 with base := 0 },
    .pref { m0 with size := .b8 }, .pref { m0 with d := 0 }, .cinvL1 { m0 with d := 1, size := .b8 }, .cinvTlb { m0 with d := 0, size := .b8 },
    .cinvCtx { m0 with d := 2, size := .b8 }, .atomAdd m0, .atomAdd { m0 with scope := .team, size := .b8 },
    .atomAdd { m0 with scope := .team, d := 0xC0, idx := 4 }, .atomAdd { m0 with scope := .team, d := 5, size := .b64 },
    .atomAdd { m0 with scope := .team, idx := 5, size := .b64 }, .atomCas { m0 with scope := .team, idx := 5 },
    .atomCas { m0 with scope := .team, idx := 0xC5 }, .redAdd m0, .redAdd { m0 with scope := .team, d := 5, size := .b64 },
    .ldfrag { m0 with size := .b32 }, .ldfrag { m0 with d := 6, size := .b8 }, .ldfragT { m0 with d := 0xC4, size := .b8 }
  ] : List Instr).all (fun i => !i.wf) = true := by decide +kernel
/-- Control, immediate and special-register words. -/
theorem test_wf_control_refuses : ([
    .bra { c0 with a := 1 }, .bany { c0 with b := 1 }, .ifW { c0 with imm := 1 }, .brx c0, .ret { c0 with a := 0xC0, ofs := 1 },
    .call c0, .elseW { c0 with mask := { neg := true, k := 0 } }, .loopW { c0 with mask := { neg := false, k := 1 } },
    .endifW { c0 with ofs := 1 }, .contW { c0 with ofs := 1 }, .exitW { c0 with ofs := 1 }, .endloopW { c0 with a := 1 },
    .movi { i0 with a := 1 }, .movih { i0 with d := 5 }, .iaddi { i0 with d := 0xC0 }, .shli { i0 with imm := 0x100 },
    .shli { i0 with imm := 0xC0 }, .shli { i0 with imm := 0x20 }, .icmpi { i0 with imm := 0xA0000000 }, .fmovi { i0 with a := 1 },
    .leai i0, .wait { i0 with d := 0, imm := 0x1000000 }, .wait i0, .nop { x0 with imm := 1 }, .yield { x0 with imm := 0x1000 },
    .mfsr { x0 with d := 4 }, .mfsr { x0 with d := 0xC0, sreg := 3 }, .mfsr { x0 with d := 4, sreg := 0x12 },
    .mfsr { x0 with d := 5, sreg := 0x10 }, .mtsr { x0 with a := 4, sreg := 0x15 }, .mtsr { x0 with a := 0xC0, sreg := 0x22 },
    .trap { x0 with imm := 0x8000 }, .trapRet { x0 with imm := 0x8000, g := { neg := true, k := 0 } }, .bkpt { x0 with d := 1 },
    .prog { x0 with imm := 8 }
  ] : List Instr).all (fun i => !i.wf) = true := by decide +kernel
/-- Matrix, engine and collective words, and pairs. -/
theorem test_wf_tiles_and_pairs_refuses : ([
    .tmma { t0 with ra := 0xC3 }, .tmma { t0 with rb := 4 }, .tmmag { t0 with fn := 2 }, .tmma { t0 with aux := 1 },
    .tzero { t0 with ra := 0xC0 }, .tzero { t0 with ra := 0xC0, rb := 0, fn := 16 }, .tloada t0, .tloada { t0 with rb := 0, fn := 3 },
    .tdrain { t0 with rb := 0 }, .tdrain { t0 with rb := 0, fn := 0x0202 }, .tdrain { t0 with rb := 0, fn := 0x2002 },
    .tdrain { t0 with rb := 0, fn := 0x1002 }, .tdrain { t0 with rb := 0, fn := 0x0106 }, .hread { t0 with td := 1, rb := 0 },
    .hread { t0 with rb := 0, fn := 16 }, .cbook { t0 with rb := 0, fn := 2 }, .cbookDef { t0 with fn := 1 }, .tsplit t0,
    .tsplit { t0 with aux := 0xC0, fn := 0x200 }, .tsplit { t0 with aux := 0xC0, fn := 0x100 }, .cpy t0, .cpy2 { t0 with aux := 0xC0, fn := 1 },
    .cpy3 { t0 with aux := 0xC0 }, .fput { t0 with aux := 0xC0, fn := 8 }, .fget { t0 with aux := 0xC0, fn := 4 },
    .fsigInstr { t0 with aux := 1 }, .fsigInstr { t0 with fn := 8 }, .coll t0, .ccancel { t0 with rb := 0 }, .cstat { t0 with rb := 0 },
    .pair { p0 with h1 := { p0.h1 with d := 8 } }, .pair { p0 with h1 := { p0.h1 with a := 8 } },
    .pair { p0 with h0 := { h0 with d := 14 } }, .pair { p0 with h0 := { h0 with cop := 0x2D } }, .pair { p0 with h0 := { h0 with cop := 0x09, t := true } },
    .pair { p0 with h0 := { h0 with na := true } }, .pair { p0 with h0 := { h0 with cop := 0x10 } },
    .pair { p0 with h0 := { h0 with cop := 0x0D, b := 32, t := true } },
    .pair { p0 with h0 := { h0 with a := 2, b := 6 }, h1 := { p0.h1 with a := 14, b := 10 } },
    .pair { h0 := { h0 with cop := 0x20, b := 0 }, h1 := { p0.h1 with cop := 0x21, b := 0 }, sp := false }
  ] : List Instr).all (fun i => !i.wf) = true := by decide +kernel
/-- What the decoder refuses by name: a header, an unassigned opcode, a reserved bit, a reserved TYPE, DSC, SCOPE and
SIZE, and fields the opcode does not accept. -/
theorem test_decode_refuses :
    decode 0 = .error .header ∧ decode 0x21E0000000000000 = .error .opcode ∧ decode 0x2020000000000020 = .error .reservedBits ∧
    decode 0x2020000000000600 = .error .reservedValue ∧ decode 0x2020000000003800 = .error .reservedValue ∧
    decode 0x6020000000001400 = .error .reservedValue ∧ decode 0x60200000000000C0 = .error .reservedValue ∧
    decode 0x2020000000004000 = .error .fields ∧ decodeBytes [1, 2, 3] = .error .truncated := by decide +kernel

/-! ## Decoding: a word of every opcode, put together bit by bit from the layouts of the spec -/

/-- A word decodes to an instruction, and the instruction encodes to the word. -/
def reads (w : W64) (i : Instr) : Bool := match decode w with | .ok j => j == i && encode i == some w | .error _ => false

/-- The pair of the worked encodings of R331's file. -/
theorem test_decode_pair : reads 0x40881228063470F2 (.pair p0) = true := by decide +kernel
/-- One word of each opcode of the V form (R309, R331), part 1, its fields put together from the layout. -/
theorem test_decode_v1 : ([
    (0x202101586000019A, .iadd { d := 8, a := 10, b := 195, c := 0, na := false, aa := false, nb := false, ab := false, nc := false, ac := false, clamp := false, dsc := .one, ty := .n64, g := { neg := true, k := 5 }, sp := false }),
    (0x204101586000019A, .isub { d := 8, a := 10, b := 195, c := 0, na := false, aa := false, nb := false, ab := false, nc := false, ac := false, clamp := false, dsc := .one, ty := .n64, g := { neg := true, k := 5 }, sp := false }),
    (0x206101586000019A, .imul { d := 8, a := 10, b := 195, c := 0, na := false, aa := false, nb := false, ab := false, nc := false, ac := false, clamp := false, dsc := .one, ty := .n64, g := { neg := true, k := 5 }, sp := false }),
    (0x208101586000019A, .imulh { d := 8, a := 10, b := 195, c := 0, na := false, aa := false, nb := false, ab := false, nc := false, ac := false, clamp := false, dsc := .one, ty := .n64, g := { neg := true, k := 5 }, sp := false }),
    (0x20A0802041200085, .imad { d := 4, a := 1, b := 2, c := 9, na := false, aa := false, nb := false, ab := false, nc := false, ac := false, clamp := false, dsc := .one, ty := .n32, g := { neg := false, k := 2 }, sp := true }),
    (0x20C101586000019A, .imin { d := 8, a := 10, b := 195, c := 0, na := false, aa := false, nb := false, ab := false, nc := false, ac := false, clamp := false, dsc := .one, ty := .n64, g := { neg := true, k := 5 }, sp := false }),
    (0x20E101586000019A, .imax { d := 8, a := 10, b := 195, c := 0, na := false, aa := false, nb := false, ab := false, nc := false, ac := false, clamp := false, dsc := .one, ty := .n64, g := { neg := true, k := 5 }, sp := false }),
    (0x2100802040A00305, .icmp { d := 4, a := 1, b := 2, c := 5, na := false, aa := false, nb := false, ab := false, nc := false, ac := false, clamp := false, dsc := .one, ty := .i8x4, g := { neg := false, k := 2 }, sp := true }),
    (0x2120802041200085, .isel { d := 4, a := 1, b := 2, c := 9, na := false, aa := false, nb := false, ab := false, nc := false, ac := false, clamp := false, dsc := .one, ty := .n32, g := { neg := false, k := 2 }, sp := true }),
    (0x2140C100E3E00105, .lea { d := 6, a := 8, b := 7, c := 31, na := false, aa := false, nb := false, ab := false, nc := false, ac := false, clamp := false, dsc := .one, ty := .i64, g := { neg := false, k := 2 }, sp := true }),
    (0x221898B8C0000285, .andV { d := 196, a := 197, b := 198, c := 0, na := false, aa := false, nb := false, ab := false, nc := false, ac := false, clamp := false, dsc := .one, ty := .n16x2, g := { neg := false, k := 2 }, sp := true }),
    (0x223898B8C0000285, .orV { d := 196, a := 197, b := 198, c := 0, na := false, aa := false, nb := false, ab := false, nc := false, ac := false, clamp := false, dsc := .one, ty := .n16x2, g := { neg := false, k := 2 }, sp := true }),
    (0x225898B8C0000285, .xorV { d := 196, a := 197, b := 198, c := 0, na := false, aa := false, nb := false, ab := false, nc := false, ac := false, clamp := false, dsc := .one, ty := .n16x2, g := { neg := false, k := 2 }, sp := true }),
    (0x227898B8C0000285, .andn { d := 196, a := 197, b := 198, c := 0, na := false, aa := false, nb := false, ab := false, nc := false, ac := false, clamp := false, dsc := .one, ty := .n16x2, g := { neg := false, k := 2 }, sp := true }),
    (0x229898B8C0000285, .shl { d := 196, a := 197, b := 198, c := 0, na := false, aa := false, nb := false, ab := false, nc := false, ac := false, clamp := false, dsc := .one, ty := .n16x2, g := { neg := false, k := 2 }, sp := true }),
    (0x22B898B8C0000285, .shr { d := 196, a := 197, b := 198, c := 0, na := false, aa := false, nb := false, ab := false, nc := false, ac := false, clamp := false, dsc := .one, ty := .n16x2, g := { neg := false, k := 2 }, sp := true }),
    (0x22D898B8C0000285, .sar { d := 196, a := 197, b := 198, c := 0, na := false, aa := false, nb := false, ab := false, nc := false, ac := false, clamp := false, dsc := .one, ty := .n16x2, g := { neg := false, k := 2 }, sp := true }),
    (0x22E0802040000005, .bfe { d := 4, a := 1, b := 2, c := 0, na := false, aa := false, nb := false, ab := false, nc := false, ac := false, clamp := false, dsc := .one, ty := .i32, g := { neg := false, k := 2 }, sp := true }),
    (0x2300802041200085, .bfi { d := 4, a := 1, b := 2, c := 9, na := false, aa := false, nb := false, ab := false, nc := false, ac := false, clamp := false, dsc := .one, ty := .n32, g := { neg := false, k := 2 }, sp := true }),
    (0x232080C000000185, .popc { d := 4, a := 6, b := 0, c := 0, na := false, aa := false, nb := false, ab := false, nc := false, ac := false, clamp := false, dsc := .one, ty := .n64, g := { neg := false, k := 2 }, sp := true }),
    (0x234080C000000185, .clz { d := 4, a := 6, b := 0, c := 0, na := false, aa := false, nb := false, ab := false, nc := false, ac := false, clamp := false, dsc := .one, ty := .n64, g := { neg := false, k := 2 }, sp := true }),
    (0x236080C000000185, .brev { d := 4, a := 6, b := 0, c := 0, na := false, aa := false, nb := false, ab := false, nc := false, ac := false, clamp := false, dsc := .one, ty := .n64, g := { neg := false, k := 2 }, sp := true }),
    (0x2380802040600385, .idp4 { d := 4, a := 1, b := 2, c := 3, na := false, aa := false, nb := false, ab := false, nc := false, ac := false, clamp := false, dsc := .one, ty := .n8x4, g := { neg := false, k := 2 }, sp := true }),
    (0x23A080204070F505, .fdp2 { d := 4, a := 1, b := 2, c := 3, na := true, aa := false, nb := false, ab := false, nc := false, ac := true, clamp := true, dsc := .d8, ty := .bf16x2, g := { neg := false, k := 2 }, sp := true }),
    (0x24004080C0125D85, .fadd { d := 2, a := 4, b := 6, c := 0, na := true, aa := false, nb := false, ab := true, nc := false, ac := false, clamp := true, dsc := .x8, ty := .f64, g := { neg := false, k := 2 }, sp := true }),
    (0x24204080C0125D85, .fsub { d := 2, a := 4, b := 6, c := 0, na := true, aa := false, nb := false, ab := true, nc := false, ac := false, clamp := true, dsc := .x8, ty := .f64, g := { neg := false, k := 2 }, sp := true })] : List (W64 × Instr)).all (fun e => reads e.1 e.2) = true := by decide +kernel
/-- One word of each opcode of the V form (R309, R331), part 2, its fields put together from the layout. -/
theorem test_decode_v2 : ([
    (0x24404080C0125D85, .fmul { d := 2, a := 4, b := 6, c := 0, na := true, aa := false, nb := false, ab := true, nc := false, ac := false, clamp := true, dsc := .x8, ty := .f64, g := { neg := false, k := 2 }, sp := true }),
    (0x2460802057ED2485, .ffma { d := 4, a := 1, b := 2, c := 191, na := false, aa := true, nb := true, ab := false, nc := true, ac := false, clamp := false, dsc := .d2, ty := .f16x2, g := { neg := false, k := 2 }, sp := true }),
    (0x24808020400C0505, .fmin { d := 4, a := 1, b := 2, c := 0, na := false, aa := true, nb := true, ab := false, nc := false, ac := false, clamp := false, dsc := .one, ty := .bf16x2, g := { neg := false, k := 2 }, sp := true }),
    (0x24A08020400C0505, .fmax { d := 4, a := 1, b := 2, c := 0, na := false, aa := true, nb := true, ab := false, nc := false, ac := false, clamp := false, dsc := .one, ty := .bf16x2, g := { neg := false, k := 2 }, sp := true }),
    (0x24C0802040E40405, .fcmp { d := 4, a := 1, b := 2, c := 7, na := false, aa := false, nb := true, ab := false, nc := false, ac := false, clamp := false, dsc := .one, ty := .f32, g := { neg := false, k := 2 }, sp := true }),
    (0x24E0802040720405, .fsel { d := 4, a := 1, b := 2, c := 3, na := true, aa := false, nb := false, ab := true, nc := false, ac := false, clamp := false, dsc := .one, ty := .f32, g := { neg := false, k := 2 }, sp := true }),
    (0x2500802000700405, .frnd { d := 4, a := 1, b := 0, c := 3, na := true, aa := false, nb := false, ab := false, nc := false, ac := false, clamp := false, dsc := .one, ty := .f32, g := { neg := false, k := 2 }, sp := true }),
    (0x2520804000000585, .fclass { d := 4, a := 2, b := 0, c := 0, na := false, aa := false, nb := false, ab := false, nc := false, ac := false, clamp := false, dsc := .one, ty := .f64, g := { neg := false, k := 2 }, sp := true }),
    (0x2600802000084405, .frcp { d := 4, a := 1, b := 0, c := 0, na := false, aa := true, nb := false, ab := false, nc := false, ac := false, clamp := true, dsc := .one, ty := .f32, g := { neg := false, k := 2 }, sp := true }),
    (0x2620802000084405, .frsq { d := 4, a := 1, b := 0, c := 0, na := false, aa := true, nb := false, ab := false, nc := false, ac := false, clamp := true, dsc := .one, ty := .f32, g := { neg := false, k := 2 }, sp := true }),
    (0x2640802000084405, .fsqrt { d := 4, a := 1, b := 0, c := 0, na := false, aa := true, nb := false, ab := false, nc := false, ac := false, clamp := true, dsc := .one, ty := .f32, g := { neg := false, k := 2 }, sp := true }),
    (0x2660802000084405, .fexp2 { d := 4, a := 1, b := 0, c := 0, na := false, aa := true, nb := false, ab := false, nc := false, ac := false, clamp := true, dsc := .one, ty := .f32, g := { neg := false, k := 2 }, sp := true }),
    (0x2680802000084405, .flog2 { d := 4, a := 1, b := 0, c := 0, na := false, aa := true, nb := false, ab := false, nc := false, ac := false, clamp := true, dsc := .one, ty := .f32, g := { neg := false, k := 2 }, sp := true }),
    (0x26A0802000084405, .fsin { d := 4, a := 1, b := 0, c := 0, na := false, aa := true, nb := false, ab := false, nc := false, ac := false, clamp := true, dsc := .one, ty := .f32, g := { neg := false, k := 2 }, sp := true }),
    (0x26C0802000084405, .fcos { d := 4, a := 1, b := 0, c := 0, na := false, aa := true, nb := false, ab := false, nc := false, ac := false, clamp := true, dsc := .one, ty := .f32, g := { neg := false, k := 2 }, sp := true }),
    (0x26E0802000084405, .ftanh { d := 4, a := 1, b := 0, c := 0, na := false, aa := true, nb := false, ab := false, nc := false, ac := false, clamp := true, dsc := .one, ty := .f32, g := { neg := false, k := 2 }, sp := true }),
    (0x2700E0601C400405, .cvt { d := 7, a := 3, b := 0, c := 226, na := false, aa := false, nb := false, ab := false, nc := false, ac := false, clamp := false, dsc := .one, ty := .f32, g := { neg := false, k := 2 }, sp := true }),
    (0x2720802040600085, .pack { d := 4, a := 1, b := 2, c := 3, na := false, aa := false, nb := false, ab := false, nc := false, ac := false, clamp := false, dsc := .one, ty := .n32, g := { neg := false, k := 2 }, sp := true }),
    (0x274080200A600005, .unpack { d := 4, a := 1, b := 0, c := 83, na := false, aa := false, nb := false, ab := false, nc := false, ac := false, clamp := false, dsc := .one, ty := .i32, g := { neg := false, k := 2 }, sp := true }),
    (0x2760800000000405, .rand { d := 4, a := 0, b := 0, c := 0, na := false, aa := false, nb := false, ab := false, nc := false, ac := false, clamp := false, dsc := .one, ty := .f32, g := { neg := false, k := 2 }, sp := true }),
    (0x2780802000100C05, .mov { d := 4, a := 1, b := 0, c := 0, na := true, aa := false, nb := false, ab := false, nc := false, ac := false, clamp := false, dsc := .x2, ty := .f32, g := { neg := false, k := 2 }, sp := true }),
    (0x2800805920000105, .shfl { d := 4, a := 2, b := 201, c := 0, na := false, aa := false, nb := false, ab := false, nc := false, ac := false, clamp := false, dsc := .one, ty := .i64, g := { neg := false, k := 2 }, sp := true }),
    (0x2820805920000105, .shflx { d := 4, a := 2, b := 201, c := 0, na := false, aa := false, nb := false, ab := false, nc := false, ac := false, clamp := false, dsc := .one, ty := .i64, g := { neg := false, k := 2 }, sp := true }),
    (0x2840802000E00005, .shflup { d := 4, a := 1, b := 0, c := 7, na := false, aa := false, nb := false, ab := false, nc := false, ac := false, clamp := false, dsc := .one, ty := .i32, g := { neg := false, k := 2 }, sp := true }),
    (0x2860802000E00005, .shfldn { d := 4, a := 1, b := 0, c := 7, na := false, aa := false, nb := false, ab := false, nc := false, ac := false, clamp := false, dsc := .one, ty := .i32, g := { neg := false, k := 2 }, sp := true }),
    (0x2880805920000105, .shflr { d := 4, a := 2, b := 201, c := 0, na := false, aa := false, nb := false, ab := false, nc := false, ac := false, clamp := false, dsc := .one, ty := .i64, g := { neg := false, k := 2 }, sp := true })] : List (W64 × Instr)).all (fun e => reads e.1 e.2) = true := by decide +kernel
/-- One word of each opcode of the V form (R309, R331), part 3, its fields put together from the layout. -/
theorem test_decode_v3 : ([
    (0x28B8002000600005, .vote { d := 192, a := 1, b := 0, c := 3, na := false, aa := false, nb := false, ab := false, nc := false, ac := false, clamp := false, dsc := .one, ty := .i32, g := { neg := false, k := 2 }, sp := true }),
    (0x28DFE02000000005, .ballot { d := 255, a := 1, b := 0, c := 0, na := false, aa := false, nb := false, ab := false, nc := false, ac := false, clamp := false, dsc := .one, ty := .i32, g := { neg := false, k := 2 }, sp := true }),
    (0x28E0802000200005, .matchV { d := 4, a := 1, b := 0, c := 1, na := false, aa := false, nb := false, ab := false, nc := false, ac := false, clamp := false, dsc := .one, ty := .i32, g := { neg := false, k := 2 }, sp := true }),
    (0x291900C000A00185, .vred { d := 200, a := 6, b := 0, c := 5, na := false, aa := false, nb := false, ab := false, nc := false, ac := false, clamp := false, dsc := .one, ty := .n64, g := { neg := false, k := 2 }, sp := true }),
    (0x2920802001400405, .vscan { d := 4, a := 1, b := 0, c := 10, na := false, aa := false, nb := false, ab := false, nc := false, ac := false, clamp := false, dsc := .one, ty := .f32, g := { neg := false, k := 2 }, sp := true }),
    (0x2940802006200085, .vstep { d := 4, a := 1, b := 0, c := 49, na := false, aa := false, nb := false, ab := false, nc := false, ac := false, clamp := false, dsc := .one, ty := .n32, g := { neg := false, k := 2 }, sp := true }),
    (0x2978402000000005, .rdfirst { d := 194, a := 1, b := 0, c := 0, na := false, aa := false, nb := false, ab := false, nc := false, ac := false, clamp := false, dsc := .one, ty := .i32, g := { neg := false, k := 2 }, sp := true }),
    (0x2998403860000005, .rdlane { d := 194, a := 1, b := 195, c := 0, na := false, aa := false, nb := false, ab := false, nc := false, ac := false, clamp := false, dsc := .one, ty := .i32, g := { neg := false, k := 2 }, sp := true }),
    (0x29A0987840000005, .wrlane { d := 4, a := 195, b := 194, c := 0, na := false, aa := false, nb := false, ab := false, nc := false, ac := false, clamp := false, dsc := .one, ty := .i32, g := { neg := false, k := 2 }, sp := true }),
    (0x2A00E0C0A0000005, .kand { d := 7, a := 6, b := 5, c := 0, na := false, aa := false, nb := false, ab := false, nc := false, ac := false, clamp := false, dsc := .one, ty := .i32, g := { neg := false, k := 2 }, sp := true }),
    (0x2A20E0C0A0000005, .kor { d := 7, a := 6, b := 5, c := 0, na := false, aa := false, nb := false, ab := false, nc := false, ac := false, clamp := false, dsc := .one, ty := .i32, g := { neg := false, k := 2 }, sp := true }),
    (0x2A40E0C0A0000005, .kxor { d := 7, a := 6, b := 5, c := 0, na := false, aa := false, nb := false, ab := false, nc := false, ac := false, clamp := false, dsc := .one, ty := .i32, g := { neg := false, k := 2 }, sp := true }),
    (0x2A60E0C000000005, .knot { d := 7, a := 6, b := 0, c := 0, na := false, aa := false, nb := false, ab := false, nc := false, ac := false, clamp := false, dsc := .one, ty := .i32, g := { neg := false, k := 2 }, sp := true }),
    (0x2A8060A000200005, .kmov { d := 3, a := 5, b := 0, c := 1, na := false, aa := false, nb := false, ab := false, nc := false, ac := false, clamp := false, dsc := .one, ty := .i32, g := { neg := false, k := 2 }, sp := true }),
    (0x2AB920C000000005, .kpop { d := 201, a := 6, b := 0, c := 0, na := false, aa := false, nb := false, ab := false, nc := false, ac := false, clamp := false, dsc := .one, ty := .i32, g := { neg := false, k := 2 }, sp := true }),
    (0x2AD920C000000005, .kffs { d := 201, a := 6, b := 0, c := 0, na := false, aa := false, nb := false, ab := false, nc := false, ac := false, clamp := false, dsc := .one, ty := .i32, g := { neg := false, k := 2 }, sp := true }),
    (0x2B00010060000005, .vxec { d := 0, a := 8, b := 3, c := 0, na := false, aa := false, nb := false, ab := false, nc := false, ac := false, clamp := false, dsc := .one, ty := .i32, g := { neg := false, k := 2 }, sp := true }),
    (0x2B2080A0C0600005, .spawn { d := 4, a := 5, b := 6, c := 3, na := false, aa := false, nb := false, ab := false, nc := false, ac := false, clamp := false, dsc := .one, ty := .i32, g := { neg := false, k := 2 }, sp := true })] : List (W64 × Instr)).all (fun e => reads e.1 e.2) = true := by decide +kernel
/-- One word of each opcode of the M form (R316, R331), CINV once for each of its forms in D (R434), part 1, its fields put together from the layout. -/
theorem test_decode_m1 : ([
    (0x60210040B00033B7, .ld { d := 8, base := 2, idx := 5, ofs := 32769, scope := .system, strm := 3, size := .b256, g := { neg := true, k := 3 }, sp := true }),
    (0x60410040B00033B7, .st { d := 8, base := 2, idx := 5, ofs := 32769, scope := .system, strm := 3, size := .b256, g := { neg := true, k := 3 }, sp := true }),
    (0x60608078AFFFE027, .lds { d := 4, base := 3, idx := 197, ofs := 32767, scope := .plain, strm := 0, size := .b16, g := { neg := false, k := 3 }, sp := true }),
    (0x60808078AFFFE027, .sts { d := 4, base := 3, idx := 197, ofs := 32767, scope := .plain, strm := 0, size := .b16, g := { neg := false, k := 3 }, sp := true }),
    (0x60A0989FE0000567, .ldAcq { d := 4, base := 196, idx := 255, ofs := 0, scope := .team, strm := 1, size := .b64, g := { neg := false, k := 3 }, sp := true }),
    (0x60C0989FE0000567, .stRel { d := 4, base := 196, idx := 255, ofs := 0, scope := .team, strm := 1, size := .b64, g := { neg := false, k := 3 }, sp := true }),
    (0x6100989FE0008047, .ldwF { d := 4, base := 196, idx := 255, ofs := 4, scope := .plain, strm := 0, size := .b32, g := { neg := false, k := 3 }, sp := true }),
    (0x6120989FE0008047, .ldwFE { d := 4, base := 196, idx := 255, ofs := 4, scope := .plain, strm := 0, size := .b32, g := { neg := false, k := 3 }, sp := true }),
    (0x6140989FE0008047, .stwE { d := 4, base := 196, idx := 255, ofs := 4, scope := .plain, strm := 0, size := .b32, g := { neg := false, k := 3 }, sp := true }),
    (0x6160789FE0000067, .tagset { d := 3, base := 196, idx := 255, ofs := 0, scope := .plain, strm := 0, size := .b64, g := { neg := false, k := 3 }, sp := true }),
    (0x6180789FE0000067, .tagclr { d := 3, base := 196, idx := 255, ofs := 0, scope := .plain, strm := 0, size := .b64, g := { neg := false, k := 3 }, sp := true }),
    (0x61A180FFE0000027, .ldfrag { d := 12, base := 7, idx := 255, ofs := 0, scope := .plain, strm := 0, size := .b16, g := { neg := false, k := 3 }, sp := true }),
    (0x61C180FFE0000027, .ldfragT { d := 12, base := 7, idx := 255, ofs := 0, scope := .plain, strm := 0, size := .b16, g := { neg := false, k := 3 }, sp := true }),
    (0x6219389FE0000067, .larm { d := 201, base := 196, idx := 255, ofs := 0, scope := .plain, strm := 0, size := .b64, g := { neg := false, k := 3 }, sp := true }),
    (0x6239389FE0000067, .barinit { d := 201, base := 196, idx := 255, ofs := 0, scope := .plain, strm := 0, size := .b64, g := { neg := false, k := 3 }, sp := true }),
    (0x6259389FE0000067, .barr { d := 201, base := 196, idx := 255, ofs := 0, scope := .plain, strm := 0, size := .b64, g := { neg := false, k := 3 }, sp := true }),
    (0x6279389FE0000067, .bwait { d := 201, base := 196, idx := 255, ofs := 0, scope := .plain, strm := 0, size := .b64, g := { neg := false, k := 3 }, sp := true }),
    (0x6299389FE0000067, .arrw { d := 201, base := 196, idx := 255, ofs := 0, scope := .plain, strm := 0, size := .b64, g := { neg := false, k := 3 }, sp := true }),
    (0x6300000000000807, .fenceAcq { d := 0, base := 0, idx := 0, ofs := 0, scope := .cluster, strm := 0, size := .b8, g := { neg := false, k := 3 }, sp := true }),
    (0x6320000000000807, .fenceRel { d := 0, base := 0, idx := 0, ofs := 0, scope := .cluster, strm := 0, size := .b8, g := { neg := false, k := 3 }, sp := true }),
    (0x6340000000000807, .fenceFull { d := 0, base := 0, idx := 0, ofs := 0, scope := .cluster, strm := 0, size := .b8, g := { neg := false, k := 3 }, sp := true }),
    (0x640000000003C007, .shutS { d := 0, base := 0, idx := 0, ofs := 30, scope := .plain, strm := 0, size := .b8, g := { neg := false, k := 3 }, sp := true }),
    (0x642000000003C007, .shutQ { d := 0, base := 0, idx := 0, ofs := 30, scope := .plain, strm := 0, size := .b8, g := { neg := false, k := 3 }, sp := true }),
    (0x644000000003C007, .shutC { d := 0, base := 0, idx := 0, ofs := 30, scope := .plain, strm := 0, size := .b8, g := { neg := false, k := 3 }, sp := true }),
    (0x646000000003C007, .shutCq { d := 0, base := 0, idx := 0, ofs := 30, scope := .plain, strm := 0, size := .b8, g := { neg := false, k := 3 }, sp := true }),
    (0x6480800000022047, .qpush { d := 4, base := 0, idx := 0, ofs := 17, scope := .plain, strm := 0, size := .b32, g := { neg := false, k := 3 }, sp := true })] : List (W64 × Instr)).all (fun e => reads e.1 e.2) = true := by decide +kernel
/-- One word of each opcode of the M form (R316, R331), CINV once for each of its forms in D (R434), part 2, its fields put together from the layout. -/
theorem test_decode_m2 : ([
    (0x64A0800000022047, .qpop { d := 4, base := 0, idx := 0, ofs := 17, scope := .plain, strm := 0, size := .b32, g := { neg := false, k := 3 }, sp := true }),
    (0x64C0189FE0000207, .pref { d := 0, base := 196, idx := 255, ofs := 0, scope := .plain, strm := 2, size := .b8, g := { neg := false, k := 3 }, sp := true }),
    (0x64E0189FE0000007, .cinvL1 { d := 0, base := 196, idx := 255, ofs := 0, scope := .plain, strm := 0, size := .b8, g := { neg := false, k := 3 }, sp := true }),
    (0x64E0205FE0000007, .cinvTlb { d := 1, base := 2, idx := 255, ofs := 0, scope := .plain, strm := 0, size := .b8, g := { neg := false, k := 3 }, sp := true }),
    (0x64E0400000000007, .cinvCtx { d := 2, base := 0, idx := 0, ofs := 0, scope := .plain, strm := 0, size := .b8, g := { neg := false, k := 3 }, sp := true }),
    (0x6800D90100020C67, .atomAdd { d := 6, base := 200, idx := 8, ofs := 16, scope := .device, strm := 0, size := .b64, g := { neg := false, k := 3 }, sp := true }),
    (0x6820D90100020C67, .atomMin { d := 6, base := 200, idx := 8, ofs := 16, scope := .device, strm := 0, size := .b64, g := { neg := false, k := 3 }, sp := true }),
    (0x6840D90100020C67, .atomMax { d := 6, base := 200, idx := 8, ofs := 16, scope := .device, strm := 0, size := .b64, g := { neg := false, k := 3 }, sp := true }),
    (0x6860D90100020C67, .atomMinN { d := 6, base := 200, idx := 8, ofs := 16, scope := .device, strm := 0, size := .b64, g := { neg := false, k := 3 }, sp := true }),
    (0x6880D90100020C67, .atomMaxN { d := 6, base := 200, idx := 8, ofs := 16, scope := .device, strm := 0, size := .b64, g := { neg := false, k := 3 }, sp := true }),
    (0x68A0D90100020C67, .atomAnd { d := 6, base := 200, idx := 8, ofs := 16, scope := .device, strm := 0, size := .b64, g := { neg := false, k := 3 }, sp := true }),
    (0x68C0D90100020C67, .atomOr { d := 6, base := 200, idx := 8, ofs := 16, scope := .device, strm := 0, size := .b64, g := { neg := false, k := 3 }, sp := true }),
    (0x68E0D90100020C67, .atomXor { d := 6, base := 200, idx := 8, ofs := 16, scope := .device, strm := 0, size := .b64, g := { neg := false, k := 3 }, sp := true }),
    (0x6900D90100020C67, .atomExch { d := 6, base := 200, idx := 8, ofs := 16, scope := .device, strm := 0, size := .b64, g := { neg := false, k := 3 }, sp := true }),
    (0x6920D90100020C67, .atomCas { d := 6, base := 200, idx := 8, ofs := 16, scope := .device, strm := 0, size := .b64, g := { neg := false, k := 3 }, sp := true }),
    (0x6940D90100020C67, .atomFadd { d := 6, base := 200, idx := 8, ofs := 16, scope := .device, strm := 0, size := .b64, g := { neg := false, k := 3 }, sp := true }),
    (0x6960D90100020C67, .atomFmin { d := 6, base := 200, idx := 8, ofs := 16, scope := .device, strm := 0, size := .b64, g := { neg := false, k := 3 }, sp := true }),
    (0x6980D90100020C67, .atomFmax { d := 6, base := 200, idx := 8, ofs := 16, scope := .device, strm := 0, size := .b64, g := { neg := false, k := 3 }, sp := true }),
    (0x69A0D90100020C67, .atomIncwrap { d := 6, base := 200, idx := 8, ofs := 16, scope := .device, strm := 0, size := .b64, g := { neg := false, k := 3 }, sp := true }),
    (0x6A00D900A0000847, .redAdd { d := 6, base := 200, idx := 5, ofs := 0, scope := .cluster, strm := 0, size := .b32, g := { neg := false, k := 3 }, sp := true }),
    (0x6A20D900A0000847, .redMin { d := 6, base := 200, idx := 5, ofs := 0, scope := .cluster, strm := 0, size := .b32, g := { neg := false, k := 3 }, sp := true }),
    (0x6A40D900A0000847, .redMax { d := 6, base := 200, idx := 5, ofs := 0, scope := .cluster, strm := 0, size := .b32, g := { neg := false, k := 3 }, sp := true }),
    (0x6A60D900A0000847, .redMinN { d := 6, base := 200, idx := 5, ofs := 0, scope := .cluster, strm := 0, size := .b32, g := { neg := false, k := 3 }, sp := true }),
    (0x6A80D900A0000847, .redMaxN { d := 6, base := 200, idx := 5, ofs := 0, scope := .cluster, strm := 0, size := .b32, g := { neg := false, k := 3 }, sp := true }),
    (0x6AA0D900A0000847, .redAnd { d := 6, base := 200, idx := 5, ofs := 0, scope := .cluster, strm := 0, size := .b32, g := { neg := false, k := 3 }, sp := true }),
    (0x6AC0D900A0000847, .redOr { d := 6, base := 200, idx := 5, ofs := 0, scope := .cluster, strm := 0, size := .b32, g := { neg := false, k := 3 }, sp := true })] : List (W64 × Instr)).all (fun e => reads e.1 e.2) = true := by decide +kernel
/-- One word of each opcode of the M form (R316, R331), CINV once for each of its forms in D (R434), part 3, its fields put together from the layout. -/
theorem test_decode_m3 : ([
    (0x6AE0D900A0000847, .redXor { d := 6, base := 200, idx := 5, ofs := 0, scope := .cluster, strm := 0, size := .b32, g := { neg := false, k := 3 }, sp := true }),
    (0x6B00D900A0000847, .redFadd { d := 6, base := 200, idx := 5, ofs := 0, scope := .cluster, strm := 0, size := .b32, g := { neg := false, k := 3 }, sp := true }),
    (0x6B20D900A0000847, .redFmin { d := 6, base := 200, idx := 5, ofs := 0, scope := .cluster, strm := 0, size := .b32, g := { neg := false, k := 3 }, sp := true }),
    (0x6B40D900A0000847, .redFmax { d := 6, base := 200, idx := 5, ofs := 0, scope := .cluster, strm := 0, size := .b32, g := { neg := false, k := 3 }, sp := true }),
    (0x6B60D900A0000847, .redIncwrap { d := 6, base := 200, idx := 5, ofs := 0, scope := .cluster, strm := 0, size := .b32, g := { neg := false, k := 3 }, sp := true })] : List (W64 × Instr)).all (fun e => reads e.1 e.2) = true := by decide +kernel
/-- One word of each opcode of the C form (R317, R331), its fields put together from the layout. -/
theorem test_decode_c : ([
    (0x8020160100000201, .bra { a := 0, mask := { neg := true, k := 3 }, b := 0, ofs := 0x800001, imm := 0, sp := true }),
    (0x8040160100000201, .bany { a := 0, mask := { neg := true, k := 3 }, b := 0, ofs := 0x800001, imm := 0, sp := true }),
    (0x8060160100000201, .ball { a := 0, mask := { neg := true, k := 3 }, b := 0, ofs := 0x800001, imm := 0, sp := true }),
    (0x8080160100000201, .bnone { a := 0, mask := { neg := true, k := 3 }, b := 0, ofs := 0x800001, imm := 0, sp := true }),
    (0x80B9360000000001, .brx { a := 201, mask := { neg := true, k := 3 }, b := 0, ofs := 0x0, imm := 0, sp := true }),
    (0x80DFD600FFFFFE01, .call { a := 254, mask := { neg := true, k := 3 }, b := 0, ofs := 0x7FFFFF, imm := 0, sp := true }),
    (0x80F9360000000001, .ret { a := 201, mask := { neg := true, k := 3 }, b := 0, ofs := 0x0, imm := 0, sp := true }),
    (0x8200160100000201, .ifW { a := 0, mask := { neg := true, k := 3 }, b := 0, ofs := 0x800001, imm := 0, sp := true }),
    (0x82200001FFFFE001, .elseW { a := 0, mask := { neg := false, k := 0 }, b := 0, ofs := 0xFFFFF0, imm := 0, sp := true }),
    (0x8240000000000001, .endifW { a := 0, mask := { neg := false, k := 0 }, b := 0, ofs := 0x0, imm := 0, sp := true }),
    (0x82600001FFFFE001, .loopW { a := 0, mask := { neg := false, k := 0 }, b := 0, ofs := 0xFFFFF0, imm := 0, sp := true }),
    (0x8280160100000201, .breakW { a := 0, mask := { neg := true, k := 3 }, b := 0, ofs := 0x800001, imm := 0, sp := true }),
    (0x82A0160000000001, .contW { a := 0, mask := { neg := true, k := 3 }, b := 0, ofs := 0x0, imm := 0, sp := true }),
    (0x82C00001FFFFE001, .endloopW { a := 0, mask := { neg := false, k := 0 }, b := 0, ofs := 0xFFFFF0, imm := 0, sp := true }),
    (0x8300160000000001, .exitW { a := 0, mask := { neg := true, k := 3 }, b := 0, ofs := 0x0, imm := 0, sp := true }),
    (0x8330368400000649, .exits { a := 129, mask := { neg := true, k := 3 }, b := 66, ofs := 0x3, imm := 36, sp := true })] : List (W64 × Instr)).all (fun e => reads e.1 e.2) = true := by decide +kernel
/-- One word of each opcode of the T form (R318, R331), CBOOK.DEF by FN (R448), its fields put together from the layout. -/
theorem test_decode_t : ([
    (0xA03FF85880000023, .tmma { td := 255, ra := 194, rb := 196, aux := 0, fn := 0x1, g := { neg := false, k := 1 }, sp := true }),
    (0xA05FF85880000023, .tmmag { td := 255, ra := 194, rb := 196, aux := 0, fn := 0x1, g := { neg := false, k := 1 }, sp := true }),
    (0xA060F800000001E3, .tzero { td := 7, ra := 192, rb := 0, aux := 0, fn := 0xF, g := { neg := false, k := 1 }, sp := true }),
    (0xA080F84000000043, .tloada { td := 7, ra := 194, rb := 0, aux := 0, fn := 0x2, g := { neg := false, k := 1 }, sp := true }),
    (0xA0A1384018E20043, .tdrain { td := 9, ra := 194, rb := 0, aux := 199, fn := 0x1002, g := { neg := false, k := 1 }, sp := true }),
    (0xA0C01840000001E3, .hread { td := 0, ra := 194, rb := 0, aux := 0, fn := 0xF, g := { neg := false, k := 1 }, sp := true }),
    (0xA0E0184000000003, .cbook { td := 0, ra := 194, rb := 0, aux := 0, fn := 0x0, g := { neg := false, k := 1 }, sp := true }),
    (0xA0E0184000000023, .cbookDef { td := 0, ra := 194, rb := 0, aux := 0, fn := 0x1, g := { neg := false, k := 1 }, sp := true }),
    (0xA119185899202043, .tsplit { td := 200, ra := 194, rb := 196, aux := 201, fn := 0x102, g := { neg := false, k := 1 }, sp := true }),
    (0xA200185899200003, .cpy { td := 0, ra := 194, rb := 196, aux := 201, fn := 0x0, g := { neg := false, k := 1 }, sp := true }),
    (0xA220185899200003, .cpy2 { td := 0, ra := 194, rb := 196, aux := 201, fn := 0x0, g := { neg := false, k := 1 }, sp := true }),
    (0xA258D85899200003, .cpy3 { td := 198, ra := 194, rb := 196, aux := 201, fn := 0x0, g := { neg := false, k := 1 }, sp := true }),
    (0xA3001858992000E3, .fput { td := 0, ra := 194, rb := 196, aux := 201, fn := 0x7, g := { neg := false, k := 1 }, sp := true }),
    (0xA320185899200063, .fget { td := 0, ra := 194, rb := 196, aux := 201, fn := 0x3, g := { neg := false, k := 1 }, sp := true }),
    (0xA3401858800000E3, .fsigInstr { td := 0, ra := 194, rb := 196, aux := 0, fn := 0x7, g := { neg := false, k := 1 }, sp := true }),
    (0xA400184000000003, .coll { td := 0, ra := 194, rb := 0, aux := 0, fn := 0x0, g := { neg := false, k := 1 }, sp := true }),
    (0xA420184019200003, .ccancel { td := 0, ra := 194, rb := 0, aux := 201, fn := 0x0, g := { neg := false, k := 1 }, sp := true }),
    (0xA459384000000003, .cstat { td := 201, ra := 194, rb := 0, aux := 0, fn := 0x0, g := { neg := false, k := 1 }, sp := true })] : List (W64 × Instr)).all (fun e => reads e.1 e.2) = true := by decide +kernel
/-- One word of each opcode of the I form (R319, R331), its fields put together from the layout. -/
theorem test_decode_i : ([
    (0xC0208002468ACF09, .movi { d := 4, a := 0, imm := 0x12345678, g := { neg := false, k := 4 }, sp := true }),
    (0xC0408002468ACF09, .movih { d := 4, a := 0, imm := 0x12345678, g := { neg := false, k := 4 }, sp := true }),
    (0xC060813000000029, .iaddi { d := 4, a := 9, imm := 0x80000001, g := { neg := false, k := 4 }, sp := true }),
    (0xC080813000000029, .andi { d := 4, a := 9, imm := 0x80000001, g := { neg := false, k := 4 }, sp := true }),
    (0xC0A0813000000029, .ori { d := 4, a := 9, imm := 0x80000001, g := { neg := false, k := 4 }, sp := true }),
    (0xC0C0813000000029, .xori { d := 4, a := 9, imm := 0x80000001, g := { neg := false, k := 4 }, sp := true }),
    (0xC0E08120000013E9, .shli { d := 4, a := 9, imm := 0x9F, g := { neg := false, k := 4 }, sp := true }),
    (0xC1008133579BDE09, .icmpi { d := 4, a := 9, imm := 0x9ABCDEF0, g := { neg := false, k := 4 }, sp := true }),
    (0xC1208002468ACF09, .fmovi { d := 4, a := 0, imm := 0x12345678, g := { neg := false, k := 4 }, sp := true }),
    (0xC15A0002468ACF09, .leai { d := 208, a := 0, imm := 0x12345678, g := { neg := false, k := 4 }, sp := true }),
    (0xC20000001FFFFFE9, .wait { d := 0, a := 0, imm := 0xFFFFFF, g := { neg := false, k := 4 }, sp := true })] : List (W64 × Instr)).all (fun e => reads e.1 e.2) = true := by decide +kernel
/-- One word of each opcode of the X form (R319, R331), TRAP.RET by IMM16 (R413), its fields put together from the layout. -/
theorem test_decode_x : ([
    (0xE020000000000009, .nop { d := 0, a := 0, sreg := 0x0, imm := 0x0, g := { neg := false, k := 4 }, sp := true }),
    (0xE04000000001FFE9, .yield { d := 0, a := 0, sreg := 0x0, imm := 0xFFF, g := { neg := false, k := 4 }, sp := true }),
    (0xE060800002000009, .mfsr { d := 4, a := 0, sreg := 0x10, imm := 0x0, g := { neg := false, k := 4 }, sp := true }),
    (0xE080188003000009, .mtsr { d := 0, a := 196, sreg := 0x18, imm := 0x0, g := { neg := false, k := 4 }, sp := true }),
    (0xE0A00000000FFFE9, .trap { d := 0, a := 0, sreg := 0x0, imm := 0x7FFF, g := { neg := false, k := 4 }, sp := true }),
    (0xE0A0000000100001, .trapRet { d := 0, a := 0, sreg := 0x0, imm := 0x8000, g := { neg := false, k := 0 }, sp := true }),
    (0xE0C0000000000009, .bkpt { d := 0, a := 0, sreg := 0x0, imm := 0x0, g := { neg := false, k := 4 }, sp := true }),
    (0xE0E00000000000E9, .prog { d := 0, a := 0, sreg := 0x0, imm := 0x7, g := { neg := false, k := 4 }, sp := true })] : List (W64 × Instr)).all (fun e => reads e.1 e.2) = true := by decide +kernel

/-! ## The machine after reset, and a first step -/

/-- Memory lists nothing at reset and is in its canonical form. -/
theorem test_reset_memory : Memory.wf State.reset.mem = true := by decide
/-- A NOP placed where the next step fetches is read there and executed by one step, and the group stands after it. -/
theorem test_first_step_nop :
    decodeTableWord 64 0xE020000000000000 = some (.nop x0) ∧
    (match step (State.reset.withFetchWord 64 0xE020000000000000) with
      | .next t => t.cg.woff == (State.reset.withFetchWord 64 0xE020000000000000).cg.woff + 1
      | _ => false) = true := by decide +kernel
/-- MOVI s4, #0x100 (R369): the word of the worked example of R406's file, as the first step. -/
theorem test_first_step_movi :
    (match step (State.reset.withFetchWord 64 0xC038800000002000) with
      | .next t => t.cg.sget 4 == 0x100 && t.cg.sget 5 == 0
      | _ => false) = true := by decide +kernel

end Sys2Proof.Tests
end

