-- ==== Sys2Proof/Tests/Witness.lean ====
section
/-! SUPPORT. For each statement with hypotheses, concrete states and operands that meet them together. -/

namespace Sys2Proof.Tests

open Machine Safety

set_option Elab.async false
/-! ## Helper states -/

/-- A page of function 1, context 0, reached where it stands, open to every access. -/
def pageEnt (pg : Nat) : TlbEntry :=
  { func := 1, ctx := 0, page := pg, loc := .home (pg * 65536), sfa := pg * 65536, gpage := pg, rd := true, wr := true, x := true
    rcc := 0, own := 0, priv := false, wp := false, transit := false }
/-- A live group in a block at 0x10000 with a handler there; s4 to s11 hold addresses and records. -/
def grp : Group :=
  { live := true, nreg := 192, bhdr := 0x10000, woff := 1, blen := 9, tvec := 0x10000
    s := [(4, 0x20000), (5, 64), (6, 0x30000), (7, 64)] }
/-- Its team: window 0 in bank 3, FIFO 1 in bank 4, two tiles, one role. -/
def team : Team :=
  { live := true, func := 1, win := [(0, 3)], fifo := [(1, 4)], nbar := 2, tiles := [5, 6], roles := [{ nreg := 8, ngrp := 1 }] }
def core0 : Core := { tlb := [pageEnt 1, pageEnt 2, pageEnt 3] }
/-- One group of one team on core 0, of an enabled function with a partition. -/
def st : State :=
  { State.reset with groups := [(0, grp)], teams := [(0, team)], cores := [(0, core0)], funcs := [(1, { part := true, vfOn := true })] }
/-- The same with another group, core, team. -/
def withG (g : Group) : State := { st with groups := [(0, g)] }
def withC (c : Core) : State := { st with cores := [(0, c)] }
def withT (t : Team) : State := { st with teams := [(0, t)] }
/-- The guard !k0: an empty execution set. -/
def no : Guard := { neg := true, k := 0 }

/-! ## Arithmetic and lane words: executing, and with an empty execution set -/

theorem hyp_IntegerWordsCompute : ∀ on : Bool, ∃ i f n h s, elemRule i = some (f, n, h) ∧ i.wf = true ∧
    Free s (f.regs (srcUse n f.ty)) (s.cg.runs f.uniform f.g s.cg.active) ∧ s.cg.runs f.uniform f.g s.cg.active = on := by
  intro on; cases on
  · refine ⟨.iadd { v0 with g := no }, _, _, _, st, rfl, ?_, ?_, ?_⟩ <;> (try unfold Free) <;> decide +kernel
  · refine ⟨.iadd v0, _, _, _, st, rfl, ?_, ?_, ?_⟩ <;> (try unfold Free) <;> decide +kernel
theorem hyp_RegisterWordsCompute : ∀ on : Bool, ∃ i f u h s, regRule i = some (f, u, h) ∧ i.wf = true ∧
    Free s (f.regs u) (s.cg.runs f.uniform f.g s.cg.active) ∧ s.cg.runs f.uniform f.g s.cg.active = on := by
  intro on; cases on
  · refine ⟨.lea { v0 with g := no }, _, _, _, st, rfl, ?_, ?_, ?_⟩ <;> (try unfold Free) <;> decide +kernel
  · refine ⟨.lea v0, _, _, _, st, rfl, ?_, ?_, ?_⟩ <;> (try unfold Free) <;> decide +kernel
theorem hyp_ImmediateWordsCompute : ∀ on : Bool,
    (∃ i f a h s, immRule i = some (f, a, h) ∧ i.wf = true ∧ Free s (f.regs a) (s.cg.runs (isS f.d) f.g s.cg.active) ∧
      s.cg.runs (isS f.d) f.g s.cg.active = on) ∧
    (∃ (f : IForm) (s : State), (Instr.movih f).wf = true ∧ Free s (if isS f.d then [(f.d, 1)] else [(f.d + 1, 1)]) (s.cg.runs (isS f.d) f.g s.cg.active) ∧
      s.cg.runs (isS f.d) f.g s.cg.active = on) ∧
    ∃ (f : IForm) (s : State), (Instr.leai f).wf = true ∧ Free s [(f.d, 1)] (s.cg.uniGuard f.g s.cg.active) ∧ s.cg.uniGuard f.g s.cg.active = on := by
  intro on; cases on
  · refine ⟨⟨.iaddi { i0 with g := no }, _, _, _, st, rfl, ?_, ?_, ?_⟩, ⟨{ i0 with g := no }, st, ?_, ?_, ?_⟩,
      ⟨{ i0 with d := 0xC4, g := no }, st, ?_, ?_, ?_⟩⟩ <;> (try unfold Free) <;> decide +kernel
  · refine ⟨⟨.iaddi i0, _, _, _, st, rfl, ?_, ?_, ?_⟩, ⟨i0, st, ?_, ?_, ?_⟩, ⟨{ i0 with d := 0xC4 }, st, ?_, ?_, ?_⟩⟩ <;>
      (try unfold Free) <;> decide +kernel
theorem hyp_RoundedWordsCompute : ∀ on : Bool, ∃ i f n h s, roundedRule i = some (f, n, h) ∧ i.wf = true ∧
    Free s (f.regs (srcUse n f.ty)) (s.cg.runs f.uniform f.g s.cg.active) ∧ s.cg.runs f.uniform f.g s.cg.active = on := by
  intro on; cases on
  · refine ⟨.fadd { v0 with ty := .f32, g := no }, _, _, _, st, rfl, ?_, ?_, ?_⟩ <;> (try unfold Free) <;> decide +kernel
  · refine ⟨.fadd { v0 with ty := .f32 }, _, _, _, st, rfl, ?_, ?_, ?_⟩ <;> (try unfold Free) <;> decide +kernel
theorem hyp_LaneFunctionWordsCompute : ∀ on : Bool, ∃ i f u h s, laneRule s.cg i = some (f, u, h) ∧ i.wf = true ∧
    Free s (f.regs u) (s.cg.runs f.uniform f.g s.cg.active) ∧ s.cg.runs f.uniform f.g s.cg.active = on := by
  intro on; cases on
  · refine ⟨.fmin { v0 with ty := .f32, g := no }, _, _, _, st, rfl, ?_, ?_, ?_⟩ <;> (try unfold Free) <;> decide +kernel
  · refine ⟨.fmin { v0 with ty := .f32 }, _, _, _, st, rfl, ?_, ?_, ?_⟩ <;> (try unfold Free) <;> decide +kernel
theorem hyp_SumsAndProductsAreExact : ∃ a b c : FVal, IsFin a ∧ IsFin b ∧ IsFin c :=
  ⟨.fin false 1 0, .fin true 3 (-2), .fin false 5 7, trivial, trivial, trivial⟩
theorem hyp_ShufflesMove : ∀ on : Bool, ∃ i f ub src s, shuffleRule i = some (f, ub, src) ∧ i.wf = true ∧
    Free s (f.regs { d := f.ty.use, a := f.ty.use, b := ub }) (s.cg.execSet f.g s.cg.active != 0) ∧
    (s.cg.execSet f.g s.cg.active != 0) = on := by
  intro on; cases on
  · refine ⟨.shfl { v0 with g := no }, _, _, _, st, rfl, ?_, ?_, ?_⟩ <;> (try unfold Free) <;> decide +kernel
  · refine ⟨.shfl v0, _, _, _, st, rfl, ?_, ?_, ?_⟩ <;> (try unfold Free) <;> decide +kernel
theorem hyp_OneValueWordsCompute : ∀ on : Bool, ∃ i f rs wide v fl s, oneRule s.cg i = some (f, rs, wide, v, fl) ∧ i.wf = true ∧
    Free s rs (s.cg.execSet f.g s.cg.active != 0) ∧ (s.cg.execSet f.g s.cg.active != 0) = on := by
  intro on; cases on
  · refine ⟨.vote { v1 with g := no }, _, _, _, _, _, st, rfl, ?_, ?_, ?_⟩ <;> (try unfold Free) <;> decide +kernel
  · refine ⟨.vote v1, _, _, _, _, _, st, rfl, ?_, ?_, ?_⟩ <;> (try unfold Free) <;> decide +kernel
theorem hyp_LaneValueWordsCompute : ∀ on : Bool, ∃ i f rs wide w v s, eachRule s.cg i = some (f, rs, wide, w, v) ∧ i.wf = true ∧
    Free s rs (s.cg.execSet f.g s.cg.active != 0) ∧ (s.cg.execSet f.g s.cg.active != 0) = on := by
  intro on; cases on
  · refine ⟨.matchV { v1 with g := no }, _, _, _, _, _, st, rfl, ?_, ?_, ?_⟩ <;> (try unfold Free) <;> decide +kernel
  · refine ⟨.matchV v1, _, _, _, _, _, st, rfl, ?_, ?_, ?_⟩ <;> (try unfold Free) <;> decide +kernel
theorem hyp_ReductionsCombineTheSet : Ty.n32.isN = true ∧ 5 ≤ 5 ∧ lin (0xFFFFFFFF : Lanes) 31 = true := by decide
theorem hyp_MaskWordsCompute : ∀ on : Bool,
    (∃ i f rs v s, maskRule s.cg i = some (f, rs, v) ∧ i.wf = true ∧ Free s rs (s.cg.uniGuard f.g s.cg.active) ∧
      s.cg.uniGuard f.g s.cg.active = on) ∧
    ∃ (f : VForm) (s : State), (Instr.kmov f).wf = true ∧ f.c = 1 ∧ Free s (useRegs f.a f.ty.use) (s.cg.execSet f.g s.cg.active != 0) ∧
      (s.cg.execSet f.g s.cg.active != 0) = on := by
  intro on; cases on
  · refine ⟨⟨.kand { v0 with g := no }, _, _, _, st, rfl, ?_, ?_, ?_⟩, { v1 with c := 1, g := no }, st, ?_, ?_, ?_, ?_⟩ <;>
      (try unfold Free) <;> decide +kernel
  · refine ⟨⟨.kand v0, _, _, _, st, rfl, ?_, ?_, ?_⟩, { v1 with c := 1 }, st, ?_, ?_, ?_, ?_⟩ <;> (try unfold Free) <;> decide +kernel
theorem hyp_PairRunsBothHalves : ∀ on : Bool, ∃ f i j s, (Instr.pair f).wf = true ∧ halfInstr f.h0 = some i ∧ halfInstr f.h1 = some j ∧
    Free s (halfRegs f.h0 ++ halfRegs f.h1) (s.cg.active != 0) ∧ (s.cg.active != 0) = on := by
  intro on; cases on
  · refine ⟨p0, _, _, withG { grp with exited := 0xFFFFFFFF }, ?_, rfl, rfl, ?_, ?_⟩ <;> (try unfold Free) <;> decide +kernel
  · refine ⟨p0, _, _, st, ?_, rfl, rfl, ?_, ?_⟩ <;> (try unfold Free) <;> decide +kernel

/-! ## VXEC, control and traps -/

theorem word_of {x : LaneWord} {P : (Lanes → State → Res) → Bool} (h : (match x with | .word b => P b | _ => false) = true) :
    ∃ b, x = .word b ∧ P b = true := by
  cases x <;> simp_all
theorem inner_of {x : LaneWord} {P : VForm → Bool} (h : (match x with | .inner f => P f | _ => false) = true) :
    ∃ f, x = .inner f ∧ P f = true := by
  cases x <;> simp_all
theorem done_of {x : Res} {P : State → Bool} (h : (match x with | .done u => P u | _ => false) = true) :
    ∃ u, x = .done u ∧ P u = true := by
  cases x <;> simp_all
/-- VXEC of the words in v8:v9 over k3. -/
def vx0 : VForm := { v0 with d := 0, a := 8, b := 3 }
/-- Lane 0 alone takes part, with a word in its v8:v9, and in v10:v11 another for a nested VXEC. -/
def vxState (k3 : Lanes) (w w2 : W64) : State :=
  withG { grp with k := if k3 = 0 then [] else [(3, k3)]
                   v := [(8 * 32, lo32 w), (9 * 32, hi32 w), (10 * 32, lo32 w2), (11 * 32, hi32 w2)].filter (fun e => e.2 != 0) }
/-- IADD v4, v2, v6, and VXEC of v10 over k3. -/
def addWord : W64 := VForm.enc 0x01 v0
def nestWord : W64 := VForm.enc 0x58 { vx0 with a := 10 }
theorem hyp_VxecRunsItsWords_common (k3 : Lanes) (hk : k3 = 0 ∨ k3 = 1) (w w2 : W64) (hw : w = 0 ∨ w = addWord ∨ w = nestWord)
    (h2 : w2 = 0 ∨ w2 = addWord) : (Instr.vxec vx0).wf = true ∧ (vxState k3 w w2).cg.tm = false ∧
    Free (vxState k3 w w2) [(vx0.a, 2), (vx0.a + 1, 0)] ((vxState k3 w w2).cg.execSet vx0.g (vxState k3 w w2).cg.active != 0) ∧
    (vxState k3 w w2).cg.vx = {} ∧ (vxState k3 w w2).cg.mode.getLsbD 31 = false := by
  rcases hk with rfl | rfl <;> rcases hw with rfl | rfl | rfl <;> rcases h2 with rfl | rfl <;> unfold Free <;> decide +kernel
theorem hyp_VxecRunsItsWords_sets : (vxState 0 0 0).cg.execSet vx0.g (vxState 0 0 0).cg.active &&& (vxState 0 0 0).cg.kget vx0.b.toNat = 0 ∧
    (vxState 1 0 0).cg.execSet vx0.g (vxState 1 0 0).cg.active &&& (vxState 1 0 0).cg.kget vx0.b.toNat = 1 ∧
    (vxState 1 addWord 0).cg.read true vx0.a 0 = addWord ∧ (vxState 1 nestWord addWord).cg.read true vx0.a 0 = nestWord ∧
    BitVec.ofFnLE (fun l : Fin 32 => lin 1 l && (vxState 1 addWord 0).cg.read true vx0.a l == addWord) = 1 := by decide +kernel
theorem hyp_VxecRunsItsWords_skip : ∃ cause, laneWord 0 false [vx0.a] = .skip cause := ⟨_, rfl⟩
theorem hyp_VxecRunsItsWords_word : ∃ b u, laneWord addWord false [vx0.a] = .word b ∧
    let s := vxState 1 addWord 0
    b 1 ((s.setCg { s.cg with xfm := 0, xfc := 0 }).pcountG s.cur.core s.cur.gs 2 1) = .done u ∧
    u.cur = s.cur ∧ u.cg.xfm = 0 ∧ u.cg.vx = {} ∧ u.cg.woff = s.cg.woff ∧
    ∀ l, l < 32 → u.cg.read true vx0.a l = s.cg.read true vx0.a l := by
  obtain ⟨b, hb, h⟩ := word_of (x := laneWord addWord false [vx0.a]) (P := fun b =>
    let s := vxState 1 addWord 0
    match b 1 ((s.setCg { s.cg with xfm := 0, xfc := 0 }).pcountG s.cur.core s.cur.gs 2 1) with
    | .done u => decide (u.cur = s.cur) && (decide (u.cg.xfm = 0) && (decide (u.cg.vx = {}) && (decide (u.cg.woff = s.cg.woff) &&
        decide (∀ l : Nat, l < 32 → u.cg.read true vx0.a l = s.cg.read true vx0.a l))))
    | _ => false) (by decide +kernel)
  obtain ⟨u, hu, h⟩ := done_of h
  simp only [Bool.and_eq_true, decide_eq_true_eq] at h
  exact ⟨b, u, hb, hu, h⟩
theorem hyp_VxecRunsItsWords_inner : ∃ f', laneWord nestWord false [vx0.a] = .inner f' ∧
    let s := vxState 1 nestWord addWord
    (s.cg.loadBusy [(f'.a, 2)] = false ∧ s.cg.inRange [f'.a + 1] = true ∧
    (1 &&& s.cg.guardMask f'.g &&& s.cg.kget f'.b.toNat = 1) ∧ s.cg.read true f'.a 0 = addWord) := by
  obtain ⟨f', hf, h⟩ := inner_of (x := laneWord nestWord false [vx0.a]) (P := fun f' =>
    let s := vxState 1 nestWord addWord
    decide (s.cg.loadBusy [(f'.a, 2)] = false ∧ s.cg.inRange [f'.a + 1] = true ∧
      (1 &&& s.cg.guardMask f'.g &&& s.cg.kget f'.b.toNat = 1) ∧ s.cg.read true f'.a 0 = addWord)) (by decide +kernel)
  exact ⟨f', hf, of_decide_eq_true h⟩
theorem hyp_VxecRunsItsWords_innerWord : ∃ b u, laneWord addWord true [vx0.a, 10] = .word b ∧
    let s := vxState 1 nestWord addWord
    b 1 (((s.setCg { s.cg with xfm := 0, xfc := 0 }).pcountG s.cur.core s.cur.gs 2 1).setCg
      { s.cg with xfm := 0, xfc := 0, vx := { depth := 2 } }) = .done u ∧
    u.cur = s.cur ∧ u.cg.xfm = 0 ∧ u.cg.vx = { depth := 2 } ∧ u.cg.woff = s.cg.woff ∧
    ∀ l, l < 32 → u.cg.read true vx0.a l = s.cg.read true vx0.a l ∧ u.cg.read true 10 l = s.cg.read true 10 l := by
  obtain ⟨b, hb, h⟩ := word_of (x := laneWord addWord true [vx0.a, 10]) (P := fun b =>
    let s := vxState 1 nestWord addWord
    match b 1 (((s.setCg { s.cg with xfm := 0, xfc := 0 }).pcountG s.cur.core s.cur.gs 2 1).setCg
      { s.cg with xfm := 0, xfc := 0, vx := { depth := 2 } }) with
    | .done u => decide (u.cur = s.cur) && (decide (u.cg.xfm = 0) && (decide (u.cg.vx = { depth := 2 }) && (decide (u.cg.woff = s.cg.woff) &&
        decide (∀ l : Nat, l < 32 → u.cg.read true vx0.a l = s.cg.read true vx0.a l ∧ u.cg.read true 10 l = s.cg.read true 10 l))))
    | _ => false) (by decide +kernel)
  obtain ⟨u, hu, h⟩ := done_of h
  simp only [Bool.and_eq_true, decide_eq_true_eq] at h
  exact ⟨b, u, hb, hu, h⟩

theorem code_of {x : Code} {P : W64 → Bool} (h : (match x with | .word w => P w | _ => false) = true) :
    ∃ w, x = .word w ∧ P w = true := by
  cases x <;> simp_all
/-- A header, one of zero bytes, stands at the addresses of page 1; and a word that is none after these bytes are written. -/
theorem lands_st (a : W64) (h : a = 0x10008 ∨ a = 0x10000) : Lands st a := by
  rcases h with rfl | rfl <;> exact ⟨by decide, by decide, code_of (by decide +kernel)⟩
def noHeader : State := { st with mem := [(0x1000F, 0x20)] }
theorem strays_noHeader : Strays noHeader 0x10008 := .inr (.inr (by
  obtain ⟨w, h1, h2⟩ := code_of (x := noHeader.codeAt noHeader.cur.core noHeader.cur.gs 0x10008) (P := fun w => !isHeader w)
    (by decide +kernel)
  exact ⟨w, h1, by simpa using h2⟩))
theorem hyp_BranchesTransfer : ∀ on : Bool,
    (∃ (i : Instr) (f : CForm) (s : State), branchRule s.cg i = some (f, on) ∧ i.wf = true ∧ Lands s (ofsTo s f)) ∧
    (∃ (i : Instr) (f : CForm) (s : State), branchRule s.cg i = some (f, on) ∧ i.wf = true ∧ Strays s (ofsTo s f) ∧ CanTrap s) ∧
    (∃ (f : CForm) (s : State), (Instr.brx f).wf = true ∧ (Instr.ret f).wf = true ∧ s.cg.loadBusy [(f.a, 2)] = false ∧
      s.cg.uniGuard f.mask s.cg.active = on ∧ Lands s (s.cg.sfld f.a)) ∧
    ∃ (f : CForm) (s : State), (Instr.call f).wf = true ∧ s.cg.live = true ∧ s.cg.loadBusy [(f.a, 2)] = false ∧ Lands s (ofsTo s f) ∧
      s.cg.uniGuard f.mask s.cg.active = on := by
  let s4 : State := withG { grp with s := [(4, 0x10000)] }
  have h : Lands s4 (s4.cg.sfld 0xC4) := by
    have e : s4.cg.sfld 0xC4 = 0x10000 := by decide +kernel
    rw [e]; exact ⟨by decide, by decide, code_of (by decide +kernel)⟩
  intro on; cases on
  · exact ⟨⟨.bra { c0 with mask := no }, { c0 with mask := no }, st, by decide +kernel, rfl, lands_st _ (.inl rfl)⟩,
      ⟨.bra { c0 with mask := no }, { c0 with mask := no }, noHeader, by decide +kernel, rfl, strays_noHeader, by decide +kernel, by decide +kernel⟩,
      ⟨{ c0 with a := 0xC4, mask := no }, s4, rfl, rfl, rfl, by decide +kernel, h⟩,
      ⟨{ c0 with a := 0xC4, mask := no }, st, rfl, rfl, rfl, lands_st _ (.inl rfl), by decide +kernel⟩⟩
  · exact ⟨⟨.bra c0, c0, st, by decide +kernel, rfl, lands_st _ (.inl rfl)⟩,
      ⟨.bra c0, c0, noHeader, by decide +kernel, rfl, strays_noHeader, by decide +kernel, by decide +kernel⟩,
      ⟨{ c0 with a := 0xC4 }, s4, rfl, rfl, rfl, by decide +kernel, h⟩,
      ⟨{ c0 with a := 0xC4 }, st, rfl, rfl, rfl, lands_st _ (.inl rfl), by decide +kernel⟩⟩
/-- Every lane's counter at n, with page 1 as before. -/
def nested (n : Nat) : State := withG { grp with ctr := (List.range 32).map (fun l => (l, n)) }
theorem lands_nested (n : Nat) (h : n = 1 ∨ n = 254) : Lands (nested n) 0x10008 := by
  rcases h with rfl | rfl <;> exact ⟨by decide, by decide, code_of (by decide +kernel)⟩
theorem hyp_StructuredWordsCount :
    (∃ (i : Instr) (f : CForm) (skips : Bool) (h : Nat → Nat) (s : State), nestRule s.cg i = some (f, skips, h) ∧ i.wf = true ∧ s.cg.live = true ∧ s.cg.tm = false ∧
      (skips = true → Lands s (ofsTo s f)) ∧ (∀ l, l < 32 → lin s.cg.exited l = false → h l < 255) ∧ skips = true ∧
      ∀ l, l < 32 → lin s.cg.exited l = false → h l ≠ 0) ∧
    (∃ (i : Instr) (f : CForm) (h : Nat → Nat) (s : State), nestRule s.cg i = some (f, false, h) ∧ i.wf = true ∧ s.cg.live = true ∧ s.cg.tm = false ∧
      ∀ l, l < 32 → lin s.cg.exited l = false → h l < 255) ∧
    (∃ (i : Instr) (f : CForm) (skips : Bool) (h : Nat → Nat) (s : State), nestRule s.cg i = some (f, skips, h) ∧ i.wf = true ∧ s.cg.live = true ∧ s.cg.tm = false ∧
      (skips = true → Lands s (ofsTo s f)) ∧ (∃ l, l < 32 ∧ lin s.cg.exited l = false ∧ 255 ≤ h l) ∧ CanTrap s) ∧
    ∀ again : Bool, ∃ (f : CForm) (s : State), (Instr.endloopW f).wf = true ∧ s.cg.live = true ∧ s.cg.tm = false ∧ Lands s (ofsTo s f) ∧
      (∀ l, l < 32 → s.cg.cget l < 255) ∧ (again = true ↔ ∃ l, l < 32 ∧ lin s.cg.exited l = false ∧ s.cg.cget l ≤ 1) := by
  refine ⟨⟨.ifW c0, _, _, _, nested 1, rfl, rfl, rfl, rfl, fun _ => lands_nested 1 (.inl rfl), ?_, rfl, ?_⟩,
    ⟨.endifW c0, _, _, st, rfl, rfl, rfl, rfl, ?_⟩,
    ⟨.ifW c0, _, _, _, nested 254, rfl, rfl, rfl, rfl, fun _ => lands_nested 254 (.inr rfl), ⟨0, ?_⟩, by decide +kernel, by decide +kernel⟩, ?_⟩
  · decide +kernel
  · decide +kernel
  · decide +kernel
  · decide +kernel
  · intro again
    cases again
    · refine ⟨c0, nested 254, rfl, rfl, rfl, lands_nested 254 (.inr rfl), by decide +kernel, ?_⟩
      simp only [Bool.false_eq_true, false_iff]
      rintro ⟨l, h1, h2⟩
      exact absurd h2.2 ((by decide +kernel : ∀ l, l < 32 → ¬(nested 254).cg.cget l ≤ 1) l h1)
    · exact ⟨c0, st, rfl, rfl, rfl, lands_st _ (.inl rfl), by decide +kernel, fun _ => ⟨0, by decide +kernel⟩, fun _ => rfl⟩
theorem hyp_ExitAndRestart :
    (∃ (f : CForm) (s : State), (Instr.exitW f).wf = true ∧ s.cg.live = true ∧ s.cg.tm = false) ∧
    (∃ (f : CForm) (s : State), (Instr.exits f).wf = true ∧ s.cg.live = true ∧ s.cg.tm = false ∧ Lands s (ofsTo s f) ∧
      s.cg.uniGuard f.mask s.cg.active = true ∧ (s.cg.ld = 0 ∧ s.cg.st = 0 ∧ s.cg.cp = 0 ∧ s.cg.tl = 0) ∧ s.cc.latch.arrivals = []) ∧
    ∃ (f : CForm) (s : State), (Instr.exits f).wf = true ∧ s.cg.live = true ∧ s.cg.tm = false ∧ Lands s (ofsTo s f) ∧
      s.cg.uniGuard f.mask s.cg.active = true ∧ ¬(s.cg.ld = 0 ∧ s.cg.st = 0 ∧ s.cg.cp = 0 ∧ s.cg.tl = 0) :=
  ⟨⟨c0, st, rfl, rfl, rfl⟩, ⟨c0, st, rfl, rfl, rfl, lands_st _ (.inl rfl), by decide +kernel, by decide +kernel, rfl⟩,
    c0, withG { grp with ld := 1 }, rfl, rfl, rfl, ⟨by decide, by decide, code_of (by decide +kernel)⟩, by decide +kernel, by decide +kernel⟩
/-- A role with registers, one without; some lanes, and none. -/
theorem hyp_SpawnCreatesChildren : ∀ r : BitVec 8, r = 0 ∨ r = 1 → ∀ on : Bool, ∃ (f : VForm) (s : State), (Instr.spawn f).wf = true ∧
    s.cg.tm = false ∧ s.cur.gs < 64 ∧ f.c = r ∧ ((s.ct.roles.getD f.c.toNat {}).nreg = 0 ↔ r = 1) ∧ CanTrap s ∧
    Free s (useRegs f.d .w32 ++ useRegs f.a .w32 ++ useRegs f.b .w32) (s.cg.execSet f.g s.cg.active != 0) ∧
    (s.cg.execSet f.g s.cg.active != 0) = on := by
  intro r hr on
  rcases hr with rfl | rfl <;> cases on
  · refine ⟨{ v0 with g := no }, st, ?_, ?_, ?_, ?_, ?_, ?_, ?_, ?_⟩ <;> (try unfold Free) <;> (try unfold CanTrap) <;> decide +kernel
  · refine ⟨v0, st, ?_, ?_, ?_, ?_, ?_, ?_, ?_, ?_⟩ <;> (try unfold Free) <;> (try unfold CanTrap) <;> decide +kernel
  · refine ⟨{ v0 with c := 1, g := no }, st, ?_, ?_, ?_, ?_, ?_, ?_, ?_, ?_⟩ <;> (try unfold Free) <;> (try unfold CanTrap) <;> decide +kernel
  · refine ⟨{ v0 with c := 1 }, st, ?_, ?_, ?_, ?_, ?_, ?_, ?_, ?_⟩ <;> (try unfold Free) <;> (try unfold CanTrap) <;> decide +kernel
theorem hyp_WaitsAndHints :
    (∃ (f : IForm) (s : State), (Instr.wait f).wf = true ∧ s.cg.uniGuard f.g s.cg.active = true ∧ s.cg.ld ≤ (f.imm.extractLsb' 0 6).toNat ∧
      s.cg.st ≤ (f.imm.extractLsb' 6 6).toNat ∧ s.cg.cp ≤ (f.imm.extractLsb' 12 6).toNat ∧ s.cg.tl ≤ (f.imm.extractLsb' 18 6).toNat) ∧
    (∃ (f : IForm) (s : State), (Instr.wait f).wf = true ∧ s.cg.uniGuard f.g s.cg.active = true ∧ ¬s.cg.ld ≤ (f.imm.extractLsb' 0 6).toNat) ∧
    (∃ f : IForm, (Instr.wait f).wf = true ∧ st.cg.uniGuard f.g st.cg.active = false) ∧
    (Instr.nop x0).wf = true ∧ (Instr.yield x0).wf = true ∧ st.cg.live = true ∧ (Instr.prog x0).wf = true := by
  refine ⟨⟨{ i0 with d := 0 }, st, ?_⟩, ⟨{ i0 with d := 0 }, withG { grp with ld := 1 }, ?_⟩, ⟨{ i0 with d := 0, g := no }, ?_⟩, ?_⟩ <;>
    decide +kernel
theorem hyp_SpecialRegistersMove : ∀ on : Bool,
    (∃ (f : XForm) (r : Sr) (s : State), (Instr.mfsr f).wf = true ∧ Sr.ofNum f.sreg = some r ∧
      Free s [(f.d, if r.is64 then 2 else 1)] (s.cg.runs (isS f.d) f.g s.cg.active) ∧ s.cg.runs (isS f.d) f.g s.cg.active = on) ∧
    (∃ (f : XForm) (r : Sr) (s : State), (Instr.mtsr f).wf = true ∧ Sr.ofNum f.sreg = some r ∧ s.cg.live = true ∧ s.cg.loadBusy [(f.a, 2)] = false ∧
      s.cg.uniGuard f.g s.cg.active = on ∧ srWritable r (s.cg.sfld f.a) = true) ∧
    ∃ (f : XForm) (r : Sr) (s : State), (Instr.mtsr f).wf = true ∧ Sr.ofNum f.sreg = some r ∧ s.cg.live = true ∧ s.cg.loadBusy [(f.a, 2)] = false ∧
      s.cg.uniGuard f.g s.cg.active = on ∧ srWritable r (s.cg.sfld f.a) = false ∧ CanTrap s := by
  intro on; cases on
  · refine ⟨⟨{ x0 with d := 4, sreg := 3, g := no }, .lane, st, ?_, ?_, ?_, ?_⟩,
      ⟨{ x0 with a := 0xC4, sreg := 0x18, g := no }, .tvec, st, ?_, ?_, ?_, ?_, ?_, ?_⟩,
      ⟨{ x0 with a := 0xC4, sreg := 1, g := no }, .width, st, ?_, ?_, ?_, ?_, ?_, ?_, ?_⟩⟩ <;>
      (try unfold Free) <;> (try unfold CanTrap) <;> decide +kernel
  · refine ⟨⟨{ x0 with d := 4, sreg := 3 }, .lane, st, ?_, ?_, ?_, ?_⟩,
      ⟨{ x0 with a := 0xC4, sreg := 0x18 }, .tvec, st, ?_, ?_, ?_, ?_, ?_, ?_⟩,
      ⟨{ x0 with a := 0xC4, sreg := 1 }, .width, st, ?_, ?_, ?_, ?_, ?_, ?_, ?_⟩⟩ <;>
      (try unfold Free) <;> (try unfold CanTrap) <;> decide +kernel
/-- Rights of context 0 of function 1 (R290). -/
def withRights (b : BitVec 6) : State := { st with funcs := [(1, { part := true, vfOn := true, probex := { rights := some (0, b) } })] }
theorem hyp_TrapWords :
    (∀ on : Bool, ∃ (f : XForm) (s : State), (Instr.trap f).wf = true ∧ CanTrap s ∧ s.cg.live = true ∧ s.cg.uniGuard f.g s.cg.active = on) ∧
    (∀ r : Bool, ∃ (f : XForm) (s : State), (Instr.bkpt f).wf = true ∧ CanTrap s ∧ s.cg.live = true ∧ s.cg.uniGuard f.g s.cg.active = true ∧
      s.right s.ct.func s.ct.ctx rHALT = r) ∧
    (∃ s : State, s.cg.live = true ∧ s.cg.tm = true) ∧ ∃ s : State, s.cg.live = true ∧ CanTrap s := by
  refine ⟨fun on => ?_, fun r => ?_, ⟨withG { grp with tm := true }, rfl, rfl⟩, st, rfl, by decide +kernel, by decide +kernel⟩
  · cases on
    · refine ⟨{ x0 with g := no }, st, ?_⟩; unfold CanTrap; decide +kernel
    · refine ⟨x0, st, ?_⟩; unfold CanTrap; decide +kernel
  · cases r
    · refine ⟨x0, st, ?_⟩; unfold CanTrap; decide +kernel
    · refine ⟨x0, withRights 0x3F, ?_⟩; unfold CanTrap; decide +kernel
theorem hyp_TakingATrap :
    ((st.group 0 0).live = true ∧ (st.group 0 0).tm = false ∧ (st.group 0 0).tvec ≠ 0) ∧
    (let s := withG { grp with tm := true }
     (s.group 0 0).live = true ∧ (s.group 0 0).tm = true ∧ (s.team 0 (s.group 0 0).team).live = true ∧ (s.group 0 0).team < 8) ∧
    (let s := withG { grp with tvec := 0 }
     (s.group 0 0).live = true ∧ (s.group 0 0).tvec = 0 ∧ (s.team 0 (s.group 0 0).team).live = true) := by decide +kernel

/-! ## Memory and synchronization words -/

/-- The checks of Cleared as a Bool. -/
theorem cleared_of {s : State} {op : AccOp} {sc : Scope} {n : Nat} {ats : List LaneAt}
    (h : ats.all (fun x => x.addr.toNat % n == 0 && match placeAt s op x with
      | some l => (match x.tgt with
        | .scr _ => accClass op == 0 || !s.scrSpecial s.cur.core s.cg.team l n
        | .glob va => decide (va.toNat < 2 ^ 55) && (decide (sc = .plain) || (match locLine l with
          | some ln => !s.syncBad ln (s.recOf s.cur.core s.cur.gs sc)
          | none => true)))
      | none => false) = true) : Cleared s op sc n ats := by
  intro x hx
  have h := List.all_eq_true.mp h x hx
  simp only [Bool.and_eq_true, beq_iff_eq] at h
  obtain ⟨h1, h2⟩ := h
  refine ⟨h1, ?_⟩
  cases hl : placeAt s op x with
  | none => simp [hl] at h2
  | some l =>
    refine ⟨l, rfl, ?_⟩
    cases ht : x.tgt with
    | scr a => simpa [hl, ht] using h2
    | glob va =>
      simp only [hl, ht, Bool.and_eq_true, Bool.or_eq_true, decide_eq_true_eq] at h2
      refine ⟨h2.1, h2.2.imp id (fun h => .inr (fun ln hln => ?_))⟩
      simpa [hln] using h
theorem near_of {m : MemWord} {s : State}
    (h : m.ats.all (fun x => match placeAt s m.op x with | some (.far _ _) => false | _ => true) = true) : m.Near s := by
  intro x hx
  have h := List.all_eq_true.mp h x hx
  split <;> simp_all
/-- An outstanding access that names register v100. -/
def oldAcc (op : AccOp) : Access := { id := 0, op, scope := .plain, strm := 0, bytes := 4, dest := 100, parts := [] }
/-- LD.b32 v4, [s4] over all lanes, and with an empty execution set. -/
theorem hyp_MemoryWordsAreIssued_sets : ∀ on : Bool, ∃ i m s, (plainMem s.cg i = some m ∨ atomMem s.cg i = some m) ∧ i.wf = true ∧
    Free s m.regs (!m.ats.isEmpty) ∧ (!m.ats.isEmpty) = on ∧ Cleared s m.op m.f.scope m.f.size.bytes m.ats ∧ m.Room s ∧ m.Near s := by
  intro on; cases on
  · refine ⟨.ld { m0 with g := no }, _, st, .inl rfl, ?_, ?_, ?_, cleared_of ?_, ?_, near_of ?_⟩ <;> (try unfold Free) <;>
      (try unfold MemWord.Room) <;> decide +kernel
  · refine ⟨.ld m0, _, st, .inl rfl, ?_, ?_, ?_, cleared_of ?_, ?_, near_of ?_⟩ <;> (try unfold Free) <;> (try unfold MemWord.Room) <;>
      decide +kernel
theorem hyp_MemoryWordsAreIssued_scratch : ∃ m s, plainMem s.cg (.sts { m0 with base := 0xC8 }) = some m ∧
    Free s m.regs (!m.ats.isEmpty) ∧ m.ats ≠ [] ∧ Cleared s m.op m.f.scope m.f.size.bytes m.ats ∧ m.Room s := by
  refine ⟨_, st, rfl, ?_, ?_, cleared_of ?_, ?_⟩ <;> (try unfold Free) <;> (try unfold MemWord.Room) <;> decide +kernel
theorem hyp_MemoryWordsAreIssued_atomic : ∃ m s, atomMem s.cg (.atomAdd { m0 with idx := 6, scope := .device }) = some m ∧
    (Instr.atomAdd { m0 with idx := 6, scope := .device }).wf = true ∧
    Free s m.regs (!m.ats.isEmpty) ∧ m.ats ≠ [] ∧ Cleared s m.op m.f.scope m.f.size.bytes m.ats ∧ m.Room s := by
  refine ⟨_, st, rfl, ?_, ?_, ?_, cleared_of ?_, ?_⟩ <;> (try unfold Free) <;> (try unfold MemWord.Room) <;> decide +kernel
theorem hyp_MemoryWordsAreIssued_full : ∃ m s, plainMem s.cg (.ld m0) = some m ∧ Free s m.regs (!m.ats.isEmpty) ∧ m.ats ≠ [] ∧
    Cleared s m.op m.f.scope m.f.size.bytes m.ats ∧ ¬m.Room s := by
  refine ⟨_, withG { grp with ld := 63 }, rfl, ?_, ?_, cleared_of ?_, ?_⟩ <;> (try unfold Free) <;> (try unfold MemWord.Room) <;>
    decide +kernel
theorem hyp_MemoryWordsAreIssued_misaligned : ∃ m s x, plainMem s.cg (.ld { m0 with ofs := 1 }) = some m ∧
    Free s m.regs (!m.ats.isEmpty) ∧ m.ats.find? (fun x => x.addr.toNat % m.f.size.bytes != 0) = some x ∧ CanTrap s := by
  refine ⟨_, st, { lane := 0, addr := 0x20001, tgt := .glob 0x20001 }, rfl, ?_, ?_, ?_⟩ <;> (try unfold Free) <;>
    (try unfold CanTrap) <;> decide +kernel
theorem hyp_SpawnCreatesChildren_held : ∃ (f : VForm) (s : State), (Instr.spawn f).wf = true ∧ s.cg.tm = false ∧ s.cur.gs < 64 ∧
    Free s (useRegs f.d .w32 ++ useRegs f.a .w32 ++ useRegs f.b .w32) (s.cg.execSet f.g s.cg.active != 0) ∧
    s.cg.execSet f.g s.cg.active ≠ 0 ∧ (s.ct.roles.getD f.c.toNat {}).nreg ≠ 0 ∧ s.cg.acc ≠ [] := by
  refine ⟨v0, withG { grp with acc := [oldAcc .store] }, ?_, ?_, ?_, ?_, ?_, ?_, ?_⟩ <;> (try unfold Free) <;> decide +kernel
theorem hyp_AcquireLoadAndReleaseStore : ∀ acq : Bool, (∃ i m s, acqRelMem s.cg i = some (m, acq) ∧ i.wf = true ∧
      Free s m.regs (!m.ats.isEmpty) ∧ m.ats ≠ [] ∧ Cleared s m.op m.f.scope m.f.size.bytes m.ats ∧ m.Room s ∧ m.Near s ∧
      s.cg.acc = [] ∧ (s.releaseActs s.cur.core s.cur.gs m.f.scope).evicting s.cur.core = false) ∧
    (∃ i m s, acqRelMem s.cg i = some (m, acq) ∧ i.wf = true ∧ Free s m.regs (!m.ats.isEmpty) ∧ m.ats = []) ∧
    ∃ i m s, acqRelMem s.cg i = some (m, acq) ∧ i.wf = true ∧ Free s m.regs (!m.ats.isEmpty) ∧ m.ats ≠ [] ∧
      Cleared s m.op m.f.scope m.f.size.bytes m.ats ∧ m.Room s ∧ m.Near s ∧ ∃ a ∈ s.cg.acc, a.late = false := by
  intro acq; cases acq
  · refine ⟨⟨.stRel { m0 with scope := .device }, _, st, rfl, ?_, ?_, ?_, cleared_of ?_, ?_, near_of ?_, ?_, ?_⟩,
      ⟨.stRel { m0 with scope := .device, g := no }, _, st, rfl, ?_, ?_, ?_⟩,
      ⟨.stRel { m0 with scope := .device }, _, withG { grp with acc := [oldAcc .store] }, rfl, ?_, ?_, ?_, cleared_of ?_, ?_, near_of ?_, ?_⟩⟩ <;>
      (try unfold Free) <;> (try unfold MemWord.Room) <;> decide +kernel
  · refine ⟨⟨.ldAcq { m0 with scope := .device }, _, st, rfl, ?_, ?_, ?_, cleared_of ?_, ?_, near_of ?_, ?_, ?_⟩,
      ⟨.ldAcq { m0 with scope := .device, g := no }, _, st, rfl, ?_, ?_, ?_⟩,
      ⟨.ldAcq { m0 with scope := .device }, _, withG { grp with acc := [oldAcc .store] }, rfl, ?_, ?_, ?_, cleared_of ?_, ?_, near_of ?_, ?_⟩⟩ <;>
      (try unfold Free) <;> (try unfold MemWord.Room) <;> decide +kernel
/-- A fence of a scope. -/
def fence0 (sc : Scope) : MForm := { m0 with d := 0, base := 0, idx := 0, size := .b8, scope := sc }
theorem hyp_FencesActOnTheCaches :
    ((Instr.fenceAcq (fence0 .cluster)).wf = true ∧ (Instr.fenceRel (fence0 .device)).wf = true ∧ (Instr.fenceFull (fence0 .system)).wf = true) ∧
    (st.cg.live = true ∧ st.cg.uniGuard no st.cg.active = false ∧ st.cg.uniGuard m0.g st.cg.active = true ∧ st.cg.acc = []) ∧
    (let s := withG { grp with acc := [oldAcc .load] }
     s.cg.live = true ∧ s.cg.uniGuard m0.g s.cg.active = true ∧ (∃ a ∈ s.cg.acc, a.op.returns = true) ∧ s.cg.acc ≠ []) := by
  decide +kernel
theorem hyp_PrefetchAndInvalidation :
    (∃ f s, (Instr.pref f).wf = true ∧ Free s (f.gRegs true) (!(memWhere s.cg f (isS f.base && isS f.idx)).isEmpty) ∧
      s.cc.l1.all (fun e => match e.2 with | some x => x.dirty == 0 | none => true) = true) ∧
    (∃ f s ats, (Instr.cinvL1 f).wf = true ∧ ats = s.cg.gLanes f true (memWhere s.cg f false) ∧ ats ≠ [] ∧
      Free s (f.gRegs true) (!ats.isEmpty) ∧ (∀ x ∈ ats, ∀ va, x.tgt = .glob va → va.toNat < 2 ^ 55) ∧ s.cg.cp < 63 ∧
      (∀ x ∈ ats, s.storeUnder s.cur.core s.cur.gs x = false) ∧
      ∀ x ∈ ats, ∀ va t, x.tgt = .glob va → s.cinvPage s.cur.core s.cur.gs va ≠ .error t) ∧
    (∃ (f : MForm) (s : State), (Instr.cinvTlb f).wf = true ∧ s.cg.live = true ∧ Free s (f.gRegs true) true ∧ memWhere s.cg f false ≠ [] ∧
      (∀ l ∈ memWhere s.cg f false, hi32 (s.cg.gAddr f true l) ≠ 0xFFFFFFFF ∧ (s.cg.gAddr f true l).toNat < 2 ^ 55) ∧
      s.cg.cp < 63 ∧ s.cg.acc = [] ∧ (s.releaseActs s.cur.core s.cur.gs .device).evicting s.cur.core = false) ∧
    ∃ (f : MForm) (s : State), (Instr.cinvCtx f).wf = true ∧ s.cg.live = true ∧ s.cg.uniGuard f.g s.cg.active = true := by
  have h5 : ∀ x ∈ st.cg.gLanes { m0 with d := 0, size := .b8 } true (memWhere st.cg { m0 with d := 0, size := .b8 } false),
      ∀ va, x.tgt = .glob va → va.toNat < 2 ^ 55 := by
    intro x hx va hv
    have h := List.all_eq_true.mp (by decide +kernel : (st.cg.gLanes { m0 with d := 0, size := .b8 } true
      (memWhere st.cg { m0 with d := 0, size := .b8 } false)).all (fun x => match x.tgt with
        | .glob va => decide (va.toNat < 2 ^ 55) | _ => true) = true) x hx
    simpa [hv] using h
  have h6 : ∀ x ∈ st.cg.gLanes { m0 with d := 0, size := .b8 } true (memWhere st.cg { m0 with d := 0, size := .b8 } false),
      ∀ va t, x.tgt = .glob va → st.cinvPage st.cur.core st.cur.gs va ≠ .error t := by
    intro x hx va t hv
    have h := List.all_eq_true.mp (by decide +kernel : (st.cg.gLanes { m0 with d := 0, size := .b8 } true
      (memWhere st.cg { m0 with d := 0, size := .b8 } false)).all (fun x => match x.tgt with
        | .glob va => (match st.cinvPage st.cur.core st.cur.gs va with | .ok _ => true | .error _ => false)
        | _ => true) = true) x hx
    intro e
    simp [hv, e] at h
  refine ⟨⟨{ m0 with d := 0, size := .b8 }, st, ?_, ?_, ?_⟩, ⟨{ m0 with d := 0, size := .b8 }, st, _, ?_, rfl, ?_, ?_, h5, ?_, ?_, h6⟩,
    ⟨{ m0 with d := 1, size := .b8 }, st, ?_, ?_, ?_, ?_, ?_, ?_, ?_, ?_⟩,
    ⟨{ m0 with d := 2, base := 0, idx := 0, size := .b8 }, st, ?_, ?_, ?_⟩⟩ <;> (try unfold Free) <;> decide +kernel
/-- The execution set of lane 0 alone, with scratch word 0 of window 0 as given. -/
def lane0 : Guard := { neg := false, k := 1 }
def scrState (w lo : SWord) (bars : List (Nat × Nat)) : State :=
  { withG { grp with k := [(1, 1)], s := [] } with
    cores := [(0, { core0 with scr := [(3 * 4096, lo), (3 * 4096 + 1, w)].filter (fun e => e.2 != {}), bars })] }
theorem hyp_scratch (w lo : SWord) (bars : List (Nat × Nat)) (h : (w = {} ∧ lo = {}) ∨ (w = {} ∧ lo = { f := true }) ∨
      (w = {} ∧ lo = { data := 2, sp := true }) ∨ (w = {} ∧ lo = { data := 1, sp := true }))
    (hb : bars = [] ∨ bars = [(3 * 4096, 0)] ∨ bars = [(1, 0), (3, 0)]) : NoWaiters (scrState w lo bars) ∧
    InBank (scrState w lo bars) ((scrState w lo bars).cg.sAddr { m0 with g := lane0 } 0) 3 0 ∧ ScratchIdle (scrState w lo bars) ∧
    laneList ((scrState w lo bars).cg.execSet lane0 (scrState w lo bars).cg.active) = [0] ∧
    (scrState w lo bars).cg.acc = [] ∧ (scrState w lo bars).cg.st < 63 ∧ CanTrap (scrState w lo bars) ∧
    (scrState w lo bars).evicting 0 = false ∧ Free (scrState w lo bars) [(4, 1), (0xC4, 2), (0xC9, 2), (0xFF, 1)] true := by
  rcases h with ⟨rfl, rfl⟩ | ⟨rfl, rfl⟩ | ⟨rfl, rfl⟩ | ⟨rfl, rfl⟩ <;> rcases hb with rfl | rfl | rfl <;>
    exact ⟨⟨by decide, by decide +kernel⟩, by unfold InBank; decide +kernel, (by intro a ha; cases ha),
      by decide +kernel, by decide +kernel, by decide +kernel, by unfold CanTrap; decide +kernel, by decide +kernel,
      by unfold Free; decide +kernel⟩
/-- The tagged words: F as the word asks, and not as it asks. -/
theorem hyp_TaggedWordsHandOver : (Instr.ldwF { m0 with g := lane0 }).wf = true ∧ (Instr.ldwFE { m0 with g := lane0 }).wf = true ∧
    (Instr.stwE { m0 with g := lane0 }).wf = true ∧
    ((scrState {} { f := true } []).cc.word 3 0).f = true ∧ ((scrState {} { f := true } []).cc.word 3 0).sp = false ∧
    ((scrState {} {} []).cc.word 3 0).f = false ∧ ((scrState {} {} []).cc.word 3 0).sp = false := by decide +kernel
theorem hyp_TagWordsSetTags : (Instr.tagset { m0 with d := 3, g := lane0 }).wf = true ∧
    (Instr.tagclr { m0 with d := 3, g := lane0, size := .b64 }).wf = true := by decide
/-- LARM, BARINIT where the directory has the word, has room for it, and has none. -/
theorem hyp_LatchAndBarrierWordsAreSet :
    (Instr.larm { m0 with d := 0xC9, size := .b64 }).wf = true ∧ (Instr.barinit { m0 with d := 0xC9, size := .b64 }).wf = true ∧
    (3 * 4096, 0) ∈ (scrState {} {} [(3 * 4096, 0)]).cc.bars ∧
    ((scrState {} {} []).cc.bars.filter (fun e => e.2 == 0)).length < (scrState {} {} []).ct.nbar ∧
    (scrState {} {} [(1, 0), (3, 0)]).ct.nbar ≤ ((scrState {} {} [(1, 0), (3, 0)]).cc.bars.filter (fun e => e.2 == 0)).length ∧
    ∀ e ∈ (scrState {} {} [(1, 0), (3, 0)]).cc.bars, e.1 ≠ 3 * 4096 := by decide +kernel
/-- The barrier words at a barrier of two parties and of one, and BWAIT with the phase it waits on and the other. -/
theorem hyp_BarrierWordsArriveAndWait :
    (Instr.barr { m0 with d := 0xC9, size := .b64 }).wf = true ∧ (Instr.bwait { m0 with d := 0xC9, size := .b64 }).wf = true ∧
    (Instr.arrw { m0 with d := 0xC9, size := .b64 }).wf = true ∧
    (scrState {} { data := 2, sp := true } []).cc.isBar 3 0 = true ∧ (scrState {} { data := 1, sp := true } []).cc.isBar 3 0 = true ∧
    completes { data := 2, sp := true } {} = false ∧ completes { data := 1, sp := true } {} = true ∧
    (scrState {} { data := 2, sp := true } []).cg.sfld 0xC9 = 0 ∧ (grp.sput 9 1).sfld 0xC9 = 1 := by decide +kernel
/-- FIFO words on a FIFO with room, full, holding an entry, empty, and on one not mapped. -/
def fifoState (q : Fifo) : State := withC { core0 with fifos := if q = {} then [] else [(4, q)] }
theorem hyp_FifoWordsPushAndPop :
    (Instr.qpush { m0 with base := 0, idx := 0, ofs := 1 }).wf = true ∧ (Instr.qpop { m0 with base := 0, idx := 0, ofs := 1 }).wf = true ∧
    st.cg.execSet m0.g st.cg.active ≠ 0 ∧ st.ct.fifoOf 1 = some 4 ∧ st.ct.fifoOf 2 = none ∧ st.cg.acc = [] ∧
    ((fifoState { tail := 5 }).cc.fifo 4).count = 5 ∧ ((fifoState { tail := 128 }).cc.fifo 4).count = 128 ∧
    ((fifoState {}).cc.fifo 4).count = 0 := by decide +kernel
theorem hyp_FifoWordsPushAndPop_free (q : Fifo) (h : q = {} ∨ q = { tail := 5 } ∨ q = { tail := 128 }) :
    Free (fifoState q) [(4, 1)] true ∧ NoWaiters (fifoState q) ∧ CanTrap (fifoState q) := by
  rcases h with rfl | rfl | rfl <;>
    exact ⟨by unfold Free; decide +kernel, ⟨by decide, by decide +kernel⟩, by unfold CanTrap; decide +kernel⟩
def shut0 (n : BitVec 16) : MForm := { m0 with d := 0, base := 0, idx := 0, size := .b8, ofs := n }
theorem hyp_ShutsAreAccepted :
    (Instr.shutS (shut0 5)).wf = true ∧ (Instr.shutQ (shut0 5)).wf = true ∧ (Instr.shutC (shut0 0)).wf = true ∧
    (Instr.shutCq (shut0 1)).wf = true ∧ st.cg.live = true ∧ st.cg.uniGuard m0.g st.cg.active = true ∧ st.cg.cp < 63 ∧
    st.ct.bankOf 5 = none ∧ st.ct.fifoOf 5 = none ∧ st.ct.bankOf 0 = some 3 ∧ st.ct.fifoOf 1 = some 4 ∧ st.cc.flips = [] ∧
    st.cc.cacheWays.head? = some 0 ∧ 2 ≤ st.cc.waysLeft ∧ st.ct.win.length + st.ct.fifo.length < 31 ∧ st.cc.bars = [] ∧
    (withC { core0 with shut := .cache :: List.replicate 31 .scratch }).cc.waysLeft ≤ 1 := by decide +kernel
theorem hyp_ShutsAreAccepted_free : NoWaiters st ∧ CanTrap st ∧ st.cg.tm = false := by
  exact ⟨⟨by decide, by decide +kernel⟩, by unfold CanTrap; decide +kernel, rfl⟩
theorem hyp_FragmentLoadsAreIssued : ∀ tr : Bool, ∃ (i : Instr) (f : MForm) (s : State) (b o : Nat → Nat), ((i = .ldfrag f ∧ tr = false) ∨ (i = .ldfragT f ∧ tr = true)) ∧ i.wf = true ∧
    Free s ((f.d, 4) :: f.sRegs) (s.cg.execSet f.g s.cg.active != 0) ∧ s.cg.execSet f.g s.cg.active ≠ 0 ∧
    (∀ l ∈ laneList (s.cg.execSet f.g s.cg.active), InBank s (s.cg.sAddr f l) (b l) (o l) ∧
      (if tr then (s.cg.sAddr f l).toNat % 4096 % 1 = 0 ∧ (s.cg.sAddr f l).toNat % 4096 / 64 % 16 = 0
       else (s.cg.sAddr f l).toNat % 4096 % 16 = 0)) ∧ s.cg.ld < 63 ∧ s.cc.txUsed ≤ 8192 := by
  intro tr; cases tr
  · refine ⟨.ldfrag { m0 with size := .b8, base := 0xC8 }, _, st, fun _ => 3, fun _ => 0, .inl ⟨rfl, rfl⟩, ?_, ?_, ?_, ?_, ?_, ?_⟩ <;>
      (try unfold Free) <;> (try unfold InBank) <;> decide +kernel
  · refine ⟨.ldfragT { m0 with size := .b8, base := 0xC8 }, _, st, fun _ => 3, fun _ => 0, .inr ⟨rfl, rfl⟩, ?_, ?_, ?_, ?_, ?_, ?_⟩ <;>
      (try unfold Free) <;> (try unfold InBank) <;> decide +kernel
theorem hyp_FragmentLoadsAreIssued_misaligned : ∃ f s l, (Instr.ldfrag f).wf = true ∧
    (laneList (s.cg.execSet f.g s.cg.active)).find? (fun l => decide (false = false ∧ (s.cg.sAddr f l).toNat % 16 ≠ 0)) = some l ∧
    Free s ((f.d, 4) :: f.sRegs) (s.cg.execSet f.g s.cg.active != 0) ∧ CanTrap s := by
  refine ⟨{ m0 with size := .b8, base := 0xC8, ofs := 1 }, st, 0, ?_, ?_, ?_, ?_⟩ <;> (try unfold Free) <;> (try unfold CanTrap) <;>
    decide +kernel

/-! ## Matrix, engine and collective words -/

/-- An int8 operand in window 0, named by s4 and by s6. -/
def recGrp : Group := { grp with s := [(4, 0x06000000), (6, 0x06000000)] }
def planes8 : List Loc := (List.range 8).map (fun p => .own 3 (512 * p))
def mma0 : TForm := { t0 with ra := 0xC4, rb := 0xC6 }
theorem operand_rec (s : State) (h : s = withG recGrp) : Operand s 0xC4 ⟨8, 8, .int 8⟩ planes8 ∧ Operand s 0xC6 ⟨8, 8, .int 8⟩ planes8 := by
  subst h
  have h : ∀ l ∈ planes8, ∃ b o, l = .own b o := by
    intro l hl
    obtain ⟨p, -, rfl⟩ := List.mem_map.mp hl
    exact ⟨_, _, rfl⟩
  exact ⟨⟨by decide +kernel, by decide +kernel, h⟩, ⟨by decide +kernel, by decide +kernel, h⟩⟩
theorem hyp_TileWordsAreQueued_mma : (Instr.tmma mma0).wf = true ∧ Free (withG recGrp) (pairRegs mma0.ra ++ pairRegs mma0.rb) true ∧
    (withG recGrp).cg.uniGuard mma0.g (withG recGrp).cg.active = true ∧ Tile (withG recGrp) 0 5 ∧ TileRoom (withG recGrp) ∧
    CanTrap (withG recGrp) := by unfold Free Tile TileRoom CanTrap; decide +kernel
theorem hyp_TileWordsAreQueued_bad : recordOk (st.cg.sfld 0xC8) (st.cg.sfld 0xC9) = none ∧ Free st (pairRegs 0xC8 ++ pairRegs 0xC8) true ∧
    Tile st 0 5 ∧ st.ct.tiles.length ≤ (2 : BitVec 8).toNat ∧ (Instr.tmma { t0 with td := 2, ra := 0xC8, rb := 0xC8 }).wf = true := by
  unfold Free Tile; decide +kernel
theorem hyp_TileWordsAreQueued_zero : (Instr.tzero { t0 with ra := 0xC0, rb := 0, fn := 1 }).wf = true ∧
    (List.range ((1 : BitVec 16).toNat + 1)).map (fun i => st.ct.tiles[(0 : BitVec 8).toNat + i]?) = [5, 6].map some ∧ TileRoom st ∧
    (Instr.cbookDef { t0 with rb := 0, fn := 1 }).wf = true ∧ st.cg.live = true := by unfold TileRoom; decide +kernel
/-- TLOADA, TDRAIN, HREAD and CBOOK at an address of page 2 with rows of 256 bytes. -/
def tileG : Group := { grp with s := [(4, 0x20000), (5, 256)] }
theorem hyp_TileWordsAreQueued_memory : ∀ i ∈ [Instr.tloada { t0 with ra := 0xC4, rb := 0 }, .tdrain { t0 with ra := 0xC4, rb := 0, fn := 0x10 },
      .hread { t0 with ra := 0xC4, rb := 0 }, .cbook { t0 with ra := 0xC4, rb := 0 }], ∃ m, tileMemRule (withG tileG).cg i = some m ∧
    i.wf = true ∧ Free (withG tileG) m.regs true ∧ (withG tileG).cg.uniGuard m.f.g (withG tileG).cg.active = true ∧
    StrideOk (withG tileG).cg i ∧ Cleared (withG tileG) m.op .plain m.size m.ats := by
  simp only [List.forall_mem_cons]
  refine ⟨⟨_, rfl, ?_, ?_, ?_, ?_, cleared_of ?_⟩, ⟨_, rfl, ?_, ?_, ?_, ?_, cleared_of ?_⟩, ⟨_, rfl, ?_, ?_, ?_, trivial, cleared_of ?_⟩,
    ⟨_, rfl, ?_, ?_, ?_, trivial, cleared_of ?_⟩, fun _ h => nomatch h⟩ <;> (try unfold Free) <;> (try unfold StrideOk) <;> decide +kernel
/-- A gang of %grp 0 and 1; the second waits at the latch or not. -/
def gangGrp (n : Nat) : Group := { recGrp with gang := 0x2002, grp := n }
def gangArr : Arrival :=
  { idx := 1, gs := 1, arec := (0x06000000, 0), brec := (0, 0), tile := 6, z := false, fmt := 6, npl := 8, sp := false, apl := planes8, bpl := [] }
def gangState (l : GangLatch) : State :=
  { st with groups := [(0, gangGrp 0), (1, { gangGrp 1 with wait := if l = {} then none else some { kind := .gang } })]
            cores := [(0, { core0 with latch := l })] }
def gangLatch1 : GangLatch := { list := 0x2002, team := 0, fn := 0, arrivals := [gangArr] }
theorem hyp_GangMembersArriveAndFire (l : GangLatch) (h : l = {} ∨ l = gangLatch1) : (Instr.tmmag mma0).wf = true ∧
    Free (gangState l) (pairRegs mma0.ra ++ pairRegs mma0.rb) true ∧ (gangState l).cg.uniGuard mma0.g (gangState l).cg.active = true ∧
    Tile (gangState l) 0 5 ∧ (gangState l).cur.gs < 64 ∧ gangList (gangState l).cg.gang = [0, 1] ∧ [0, 1][0]? = some (gangState l).cg.grp ∧
    Operand (gangState l) 0xC4 ⟨8, 8, .int 8⟩ planes8 ∧ Operand (gangState l) 0xC6 ⟨8, 8, .int 8⟩ planes8 ∧
    (∀ m ∈ [0, 1], ∃ e ∈ (gangState l).liveAt (gangState l).cur.core, e.2.team = (gangState l).cg.team ∧ e.2.grp = m) ∧
    (gangState l).cg.tl < 63 := by
  have hp : ∀ l ∈ planes8, ∃ b o, l = .own b o := by
    intro l hl
    obtain ⟨p, -, rfl⟩ := List.mem_map.mp hl
    exact ⟨_, _, rfl⟩
  rcases h with rfl | rfl <;>
    exact ⟨by decide, by unfold Free; decide +kernel, by decide +kernel, by unfold Tile; decide +kernel, by decide, by decide +kernel, by decide +kernel,
      ⟨by decide +kernel, by decide +kernel, hp⟩, ⟨by decide +kernel, by decide +kernel, hp⟩, by decide +kernel, by decide +kernel⟩
theorem hyp_GangMembersArriveAndFire_last : (gangState gangLatch1).cc.latch.arrivals = [gangArr] ∧
    (gangState gangLatch1).cc.latch.team = (gangState gangLatch1).cg.team ∧ (gangState gangLatch1).cc.latch.list = (gangState gangLatch1).cg.gang ∧
    gangArr.fmt = ((gangState gangLatch1).arrivalOf mma0 0 5 planes8 planes8).fmt ∧
    gangArr.npl = ((gangState gangLatch1).arrivalOf mma0 0 5 planes8 planes8).npl ∧ (gangState gangLatch1).cc.tq.length < 16 ∧
    gangArr.gs < 64 ∧ gangArr.gs ≠ (gangState gangLatch1).cur.gs ∧ (gangState {}).cc.latch.arrivals = [] := by decide +kernel
/-- CPY past its checks, with an access still outstanding, with a bad latch operand, and turned off by its guard. -/
def cpy0 : TForm := { t0 with ra := 0xC4, rb := 0xC6, aux := 0xC9 }
set_option maxRecDepth 30000 in
theorem hyp_EngineWordsStart : ∃ scope kind latch,
    engineRule st (.cpy cpy0) = some (cpy0, pairRegs 0xC4 ++ [(0xC6, 2)] ++ [(0xC9, 2)], true, scope, kind, latch) ∧ (Instr.cpy cpy0).wf = true ∧
    Free st (pairRegs 0xC4 ++ [(0xC6, 2)] ++ [(0xC9, 2)]) true ∧ st.cg.uniGuard cpy0.g st.cg.active = true ∧ CanStart st scope 0 ∧
    st.cg.uniGuard no st.cg.active = false := by
  refine ⟨widest (st.reachOf (st.cg.sfld 0xC4)) (st.reachOf (st.cg.sfld 0xC6)), .copy 0x20000 0x30000 64 1 1 0 0 0 0, 0, ?_, ?_, ?_, ?_, ?_, ?_⟩ <;>
    (try unfold Free) <;> (try unfold CanStart) <;> first | decide +kernel | rfl
theorem hyp_EngineWordsStart_held : (withG { grp with acc := [oldAcc .store] }).cg.cp < 63 ∧ (withG { grp with acc := [oldAcc .store] }).cg.acc ≠ [] ∧
    Free (withG { grp with acc := [oldAcc .store] }) (pairRegs 0xC4 ++ [(0xC6, 2)] ++ [(0xC9, 2)]) true := by unfold Free; decide +kernel
theorem hyp_EngineWordsStart_latch : hi32 ((withG { grp with s := [(4, 0x20000), (5, 64), (6, 0x30000), (9, 0x100000000)] }).cg.sfld 0xC9) ≠ 0 ∧
    CanTrap (withG { grp with s := [(4, 0x20000), (5, 64), (6, 0x30000), (9, 0x100000000)] }) := by unfold CanTrap; decide +kernel
theorem words_of {x : DescRead} {P : List (Option W64) → State → Bool} (h : (match x with | .words ws v => P ws v | _ => false) = true) :
    ∃ ws v, x = .words ws v ∧ P ws v = true := by
  cases x <;> simp_all
/-- COLL of a descriptor at the start of window 0, an all-gather of four elements from 0 to 256 in communicator 0 of two
members. -/
def collState : State :=
  { withG { grp with s := [(4, 0xFFFFFFFF00000000)] } with
    cores := [(0, { core0 with scr := [(3 * 4096, { data := 0x20000 }), (3 * 4096 + 2, { data := 4 }), (3 * 4096 + 6, { data := 256 })] })]
    comms := [(0, [0, 7])] }
def coll0 : TForm := { t0 with ra := 0xC4, rb := 0 }
def collPs (n : Nat) : List LanePart := (runPlaces (collState.cg.sfld 0xC4) n 8).map (laneOf collState .load (fun _ => 0))
theorem hyp_CollectiveWordsRegister : (Instr.coll coll0).wf = true ∧ Free collState [(coll0.ra, 2)] true ∧
    collState.cg.uniGuard coll0.g collState.cg.active = true ∧ Cleared collState .load .system 8 (runPlaces (collState.cg.sfld coll0.ra) 8 8) ∧
    collState.cg.acc = [] ∧ (collState.releaseActs 0 0 .system).evicting 0 = false ∧
    ∃ ws v, (collState.releaseActs 0 0 .system).readDesc 0 0 (numbered (collPs 8)) = .words ws v ∧ (∀ w ∈ ws, w.isSome = true) ∧
      v.ct = collState.ct ∧ v.teamIndex collState.ct = collState.teamIndex collState.ct ∧
      let r := rawDesc (ws.map (fun w => w.getD 0)) (collState.cg.sfld coll0.ra) collState.ct.ctx collState.ct.launch (collState.teamIndex collState.ct)
      let w := (v.setRecords 0 0 .load .system (collPs 8)).engineWrite collState.ct.func collState.ct.ctx collState.ct.launch
        (collState.teamIndex collState.ct) (collState.cg.sfld coll0.ra + 0x30) (statusBytes 0 none)
      w.descBad collState.ct.func r false = none ∧ w.keyOf collState.ct.func r.comm r.tag = none ∧ w.keys.length < 4096 := by
  refine ⟨by decide, by unfold Free; decide +kernel, by decide +kernel, cleared_of (by decide +kernel), by decide +kernel, by decide +kernel, ?_⟩
  have hr : collState.releaseActs 0 0 .system = collState := by rfl
  have hd : collState.readDesc 0 0 (numbered (collPs 8)) =
    .words [some 0x20000, some 4, some 0, some 256, some 0, some 0, some 0, some 0] collState := by rfl
  rw [hr]
  refine ⟨_, collState, hd, ?_, rfl, rfl, ?_⟩
  · simp
  · refine ⟨?_, ?_, ?_⟩ <;> decide +kernel
theorem hyp_CollectiveWordsRegister_cancel : (Instr.ccancel { coll0 with aux := 0xC9 }).wf = true ∧
    Free collState [(coll0.ra, 2), (0xC9, 2)] true ∧ hi32 (collState.cg.sfld 0xC9) = 0 ∧
    Cleared collState .load .system 8 (runPlaces (collState.cg.sfld coll0.ra) 1 8) ∧ collState.cg.cp < 63 ∧
    (∀ x ∈ collPs 1, collState.accMeets 0 0 x.loc 8 = false) ∧
    ∃ w ws v, collState.readDesc 0 0 (numbered (collPs 1)) = .words (some w :: ws) v ∧ v.cur = collState.cur := by
  refine ⟨by decide, by unfold Free; decide +kernel, by decide +kernel, cleared_of (by decide +kernel), by decide +kernel, by decide +kernel, ?_⟩
  obtain ⟨ws, v, h, hp⟩ := words_of (x := collState.readDesc 0 0 (numbered (collPs 1))) (P := fun ws v =>
    decide (ws = [some 0x20000]) && decide (v.cur = collState.cur)) (by decide +kernel)
  simp only [Bool.and_eq_true, decide_eq_true_eq] at hp
  exact ⟨_, _, v, hp.1 ▸ h, hp.2⟩
theorem hyp_CollectiveWordsRegister_state : (Instr.cstat { coll0 with td := 0xC9 }).wf = true ∧ Free collState [(coll0.ra, 2), (0xC9, 2)] true := by
  unfold Free; decide +kernel

/-! ## Events: power, links and the fabric -/

/-- The machine after reset with what an event brings. -/
def ev (x : EventArgs) : State := { State.reset with inp := x }
/-- A start with the faults of bring-up, over what the machine had reached. -/
def starting (die stack reached : Bool) (h : Halt) : State :=
  { ev { env := { dieLinkFail := die, stackFail := stack, badPorts := [3] } } with boot := { reached, halt := h } }
theorem hyp_StartsAndPower_start : ∀ die stack reached : Bool, let s := starting die stack reached .none_
    s.inp.env.dieLinkFail = die ∧ s.inp.env.stackFail = stack ∧ s.boot.reached = reached ∧ s.boot.halt ≠ .measure ∧
    s.inp.env.badPorts.contains 3 = true ∧ s.inp.env.badPorts.contains 0 = false ∧ (s.port 3).state ≠ .up ∧ (s.port 3).disable = false := by
  decide
theorem hyp_StartsAndPower_halted : (starting false false true .measure).boot.reached = true ∧ (starting false false true .measure).boot.halt = .measure ∧
    ∃ s : State, (s.port 3).state = .up ∧ (s.port 4).disable = true ∧ s.boot.reached = true ∧ s.boot.halt ≠ .measure ∧
      s.inp.env.dieLinkFail = false ∧ s.inp.env.stackFail = false :=
  ⟨rfl, rfl, { starting false false true .none_ with ports := [(3, { state := .up }), (4, { disable := true })] }, by decide⟩
theorem hyp_StartsAndPower :
    (State.reset.boot.locked = false ∧ State.reset.inp.off + State.reset.inp.bytes.length ≤ 2 ^ 28 ∧ State.reset.boot.step ≠ 7) ∧
    (∃ s : State, s.inp.flag = true) ∧ (∃ s : State, s.inp.flag = false ∧ s.boot.clockMHz < 1700) ∧
    (∃ s : State, s.boot.locked = true) ∧ (∃ s : State, 2 ^ 28 < s.inp.off + s.inp.bytes.length) ∧
    ∃ s : State, s.boot.locked = false ∧ s.boot.step = 7 ∧ s.boot.halt = .none_ :=
  ⟨by decide, ⟨ev { flag := true }, rfl⟩,
    ⟨{ State.reset with boot := { clockMHz := 800 } }, by decide⟩, ⟨{ State.reset with boot := { locked := true } }, rfl⟩,
    ⟨ev { off := 2 ^ 28, bytes := [0] }, by decide⟩, ⟨{ State.reset with boot := { step := 7 } }, by decide⟩⟩

/-- Port 0 is up, and an event brings it something. -/
def up0 : Port := { state := .up, rxw := 1, txw := 1 }
def onPort (p : Port) (x : EventArgs) : State := { State.reset with ports := [(0, p)], inp := x }
/-- Flits on a width of 16 lanes, with their CRC written out: a data flit of VC 2 with sequence number 0 and one unit, a
control flit, and parity of flit 0. -/
def data5 : Flit := (0x1B93A802BAF9DAA2 : BitVec 64) ++ (0x7100000FFFFF40000 : BitVec 1984)
def ctl5 : Flit := (0x885FCAF66AAB8E7C : BitVec 64) ++ (0x500000FFFFF00000 : BitVec 1984)
def par5 : Flit := (0x70BA7374AF2F0EAA : BitVec 64) ++ (0x1900000FFFFF00000 : BitVec 1984)

theorem crc_of {f : Flit} {hd : List Byte} {a b c d : W64}
    (h : flitBytes f 248 = hd ++ (List.replicate 62 0 ++ (List.replicate 62 0 ++ List.replicate 62 0)))
    (h1 : hd.foldl crcByte (BitVec.allOnes 64) = a) (h2 : (List.replicate 62 (0 : Byte)).foldl crcByte a = b)
    (h3 : (List.replicate 62 (0 : Byte)).foldl crcByte b = c) (h4 : (List.replicate 62 (0 : Byte)).foldl crcByte c = d) :
    flitCrc f = ~~~d := by
  rw [flitCrc, crc64, h, List.foldl_append, List.foldl_append, List.foldl_append, h1, h2, h3, h4]
theorem crc_data5 : flitCrc data5 = 0x1B93A802BAF9DAA2 :=
  crc_of (hd := [0, 0, 0xf4, 0xff, 0xff, 0, 0, 0x10, 7] ++ List.replicate 53 0) (a := 0xFB83BDF301518794) (b := 0x9B45EF1A4B00BD7)
    (c := 0xB3D470F4514CAD29) (d := 0xE46C57FD4506255D) (by decide +kernel) (by decide +kernel) (by decide +kernel) (by decide +kernel)
    (by decide +kernel)
theorem crc_ctl5 : flitCrc ctl5 = 0x885FCAF66AAB8E7C :=
  crc_of (hd := [0, 0, 0xf0, 0xff, 0xff, 0, 0, 0x50, 0] ++ List.replicate 53 0) (a := 0x683D43B735858A0D) (b := 0x5859681275CCB11F)
    (c := 0x4869D3921DD47FFE) (d := 0x77A0350995547183) (by decide +kernel) (by decide +kernel) (by decide +kernel) (by decide +kernel)
    (by decide +kernel)
theorem crc_par5 : flitCrc par5 = 0x70BA7374AF2F0EAA :=
  crc_of (hd := [0, 0, 0xf0, 0xff, 0xff, 0, 0, 0x90, 1] ++ List.replicate 53 0) (a := 0x14671F0B0E36A5C4) (b := 0xF84C4BBE9DE26A0C)
    (c := 0xF77B1A8E10ECAC86) (d := 0x8F458C8B50D0F155) (by decide +kernel) (by decide +kernel) (by decide +kernel) (by decide +kernel)
    (by decide +kernel)

/-- The data flit with a bit of its CRC changed. -/
def bad5 : Flit := data5 ^^^ (1 : Flit) <<< 1984
theorem crc_bad5 : flitCrc bad5 = flitCrc data5 := by
  have h : flitBytes bad5 248 = flitBytes data5 248 := by decide +kernel
  rw [flitCrc, h, flitCrc]
theorem good_flits : flitGood data5 = true ∧ flitGood ctl5 = true ∧ flitGood par5 = true ∧ flitGood bad5 = false := by
  unfold flitGood
  rw [crc_bad5, crc_data5, crc_ctl5, crc_par5]
  decide +kernel
/-- A control flit with a width order, a RESEND and one PREQ. -/
def ctl6 : Flit := (0x98FB0B65FA1DC418 : BitVec 64) ++ (0x8000000000000000000000000000000000000000000000000000000080000000A000000000000000500000FFFFF00000 : BitVec 1984)
theorem crc_ctl6 : flitCrc ctl6 = 0x98FB0B65FA1DC418 :=
  crc_of (hd := [0, 0, 0xf0, 0xff, 0xff, 0, 0, 0x50, 0, 0, 0, 0, 0, 0, 0, 0xA0, 0, 0, 0, 0x80] ++ List.replicate 27 0 ++ [0x80] ++ List.replicate 14 0)
    (a := 0x23D89A8DDF9A2608) (b := 0xEEF1B837CCFF6FBE) (c := 0xDD6F9A10E6703750) (d := 0x6704F49A05E23BE7) (by decide +kernel) (by decide +kernel) (by decide +kernel) (by decide +kernel)
    (by decide +kernel)
theorem good_ctl6 : flitGood ctl6 = true := by
  unfold flitGood
  rw [crc_ctl6]
  decide +kernel
theorem hyp_LinkReceives_good : ∀ f ∈ [data5, ctl5, ctl6, par5], let s := onPort { up0 with preq := [0], damaged := [(0, bad5)] } { flit := f }
    (portIn s).state = .up ∧ flitGood s.inp.flit = true ∧ (portIn s).worder = none ∧ flitW s.inp.flit = (portIn s).rxw := by
  obtain ⟨h1, h2, h3, -⟩ := good_flits
  simp only [List.forall_mem_cons]
  exact ⟨⟨rfl, h1, rfl, by decide +kernel⟩, ⟨rfl, h2, rfl, by decide +kernel⟩, ⟨rfl, good_ctl6, rfl, by decide +kernel⟩,
    ⟨rfl, h3, rfl, by decide +kernel⟩, fun _ h => nomatch h⟩
/-- In sequence, after a gap, delivered before, and with its VC's buffer full. -/
theorem hyp_LinkReceives_data : flitKind data5 = 0 ∧ flitSeq data5 = up0.rxSeq ∧ up0.hold = [] ∧ up0.occ (flitVc data5) < 1024 ∧
    up0.fullHold = none ∧
    (serialGe (flitSeq data5) 0xFFFFF = true ∧ flitSeq data5 ≠ 0xFFFFF) ∧ serialGe (flitSeq data5) 9 = false ∧ up0.rresend = none := by
  decide +kernel
theorem hyp_LinkReceives_full : 1024 ≤ { up0 with rxbuf := [(2, List.replicate 1024 (true, 0))] }.occ (flitVc data5) := by
  have h : flitVc data5 = 2 := by decide +kernel
  have e : ∀ n, { up0 with rxbuf := [(2, List.replicate n (true, 0))] }.occ 2 = n := by intro n; simp [Port.occ, tget]
  rw [h, e]
theorem hyp_LinkReceives_damaged : flitGood bad5 = false ∧ serialGe (flitSeq bad5) up0.rxSeq = true ∧
    (flitSeq bad5 - up0.rxSeq).toNat < 1024 ∧ ∀ g ∈ up0.hold, flitSeq g ≠ flitSeq bad5 := by
  have h : flitSeq bad5 = 0 := by decide +kernel
  exact ⟨good_flits.2.2.2, by rw [h]; decide +kernel, by rw [h]; decide +kernel, fun _ h => nomatch h⟩
theorem hyp_LinkReceives_control : flitKind ctl5 = 1 ∧ flitKind par5 = 2 ∧ flitBits par5 64 8 = 1 ∧ flitSeq par5 ∈ [0] ∧
    flitSeq par5 = up0.rxSeq ∧ flitKind ctl5 ≠ 0 := by decide +kernel
/-- Nothing in hand, and a RESEND being served: of the flit asked for again, and of another. -/
theorem hyp_LinkReceives_resend : flitKind ctl6 = 1 ∧ bitOf (flitWord ctl6 12) 31 = true ∧ bitOf (flitWord ctl6 16) 31 = true ∧
    bitOf (flitWord ctl6 44) 31 = true ∧ up0.resend = [] ∧ BitVec.ofNat 20 (flitWord ctl6 44) = 0 ∧
    (let x := { up0 with resend := [data5], served := some 0, replay := [data5] }
     x.served = some 0 ∧ ∃ g ∈ x.resend, serialGe (flitSeq g) 0 = true) ∧ flitSeq data5 = BitVec.ofNat 20 (flitWord ctl6 16) :=
  ⟨by decide +kernel, by decide +kernel, by decide +kernel, by decide +kernel, rfl, by decide +kernel,
    ⟨rfl, data5, .head _, by decide +kernel⟩, by decide +kernel⟩
theorem hyp_LinkReceives_timeout : ∀ b : Bool, ∃ s : State, s.inp.seq ∈ (portIn s).preq ∧ (portIn s).repeated.contains s.inp.seq = b ∧
    (portIn s).rresend = none := by
  intro b; cases b
  · exact ⟨onPort { up0 with preq := [0] } {}, by decide⟩
  · exact ⟨onPort { up0 with preq := [0], repeated := [0] } {}, by decide⟩

/-- A unit waits on VC 2, with or without a width order whose flit has come. -/
theorem hyp_LinkSends_data : ∀ o ∈ [none, some { width := .w8, set := 0, sw := 0 }, some { width := .w8, set := 0, sw := 9 }],
    let s := onPort { up0 with txq := [(2, [(true, 7)])], order := o } { vc := 2 }
    (portIn s).state = .up ∧ (portIn s).slot21 < 20 ∧ (portIn s).resend = [] ∧ (portIn s).order = o ∧
    tget [] (portIn s).txq s.inp.vc.toNat ≠ [] ∧ (portIn s).txMute = false ∧ (portIn s).txStop.getLsbD s.inp.vc.toNat = false ∧
    ((portIn s).txSeq - (portIn s).txAck).toNat < 1023 ∧ serialGe (portIn s).txSeq 0 = true ∧ serialGe (portIn s).txSeq 9 = false := by
  decide +kernel
theorem hyp_LinkSends_stopped : ∀ x ∈ [up0, { up0 with txMute := true }, { up0 with txStop := 4 }, { up0 with txSeq := 1023 }],
    let s := onPort x { vc := 2 }
    (portIn s).state = .up ∧ (portIn s).slot21 < 20 ∧ (portIn s).resend = [] ∧ (portIn s).order = none ∧
    tget [] (portIn s).txq s.inp.vc.toNat = [] := by decide +kernel
theorem hyp_LinkSends_muted : { up0 with txMute := true }.txMute = true ∧ { up0 with txStop := 4 }.txStop.getLsbD 2 = true ∧
    1023 ≤ ({ up0 with txSeq := 1023 }.txSeq - { up0 with txSeq := 1023 }.txAck).toNat := by decide +kernel
theorem hyp_LinkSends_again : ∀ o ∈ [none, some { width := .w8, set := 0, sw := 0 }, some { width := .w8, set := 0, sw := 9 }],
    let s := onPort { up0 with resend := [data5], order := o } {}
    (portIn s).state = .up ∧ (portIn s).slot21 < 20 ∧ (portIn s).resend = data5 :: [] ∧ (portIn s).order = o ∧
    serialGe (flitSeq data5) 0 = true ∧ serialGe (flitSeq data5) 9 = false := by decide +kernel
theorem hyp_LinkSends_control : let s := onPort { up0 with slot21 := 20 } {}
    (portIn s).state = .up ∧ (portIn s).slot21 = 20 := by decide +kernel
theorem hyp_LinkSends_parity : let s := onPort { up0 with parReq := [0], replay := [data5] } {}
    (portIn s).state = .up ∧ (portIn s).slot21 < 20 ∧ (portIn s).parReq = 0 :: [] ∧
    (portIn s).replay.find? (fun h => flitSeq h == 0) = some data5 := by decide +kernel

theorem hyp_LinkWidthsAndTraining :
    (let s := onPort up0 { lwidth := .w8 }
     (portIn s).state = .up ∧ (portIn s).lanebad = 0 ∧ (portIn s).rxw.toNat < s.inp.lwidth.code.toNat ∧
     (if (portIn s).maxw = 0 then 1 else (portIn s).maxw.toNat) ≤ s.inp.lwidth.code.toNat) ∧
    (let s := onPort up0 { lwidth := .w16 }
     (portIn s).state = .up ∧ (portIn s).lanebad = 0 ∧ s.inp.lwidth.code.toNat ≤ (portIn s).rxw.toNat) ∧
    (let s := onPort { up0 with maxw := 3 } { lwidth := .w8 }
     (portIn s).state = .up ∧ (portIn s).lanebad = 0 ∧ s.inp.lwidth.code.toNat < (portIn s).maxw.toNat ∧ (portIn s).maxw ≠ 0) ∧
    (let s := onPort up0 { flag := true }
     (portIn s).state = .up ∧ s.inp.flag = true ∧ (portIn s).disable = false ∧ (∀ x ∈ s.streams, x.port ≠ some s.inp.port) ∧
     (portIn s).kept = []) ∧
    (let s := onPort { up0 with state := .training } {}
     (portIn s).state = .training ∧ (∀ x ∈ s.streams, x.port ≠ some s.inp.port) ∧ (portIn s).kept = [] ∧ (portIn s).disable = s.inp.flag) ∧
    (let s := onPort { up0 with state := .failed } {}
     (portIn s).disable = false ∧ (portIn s).state ≠ .up) ∧
    let s := onPort { up0 with state := .failed, disable := true } {}
    (portIn s).disable = true ∧ s.inp.flag = false := by decide +kernel
/-- A watermark write that is taken, with the occupancy at or above HIGH and at or below LOW, and one that is not. -/
theorem hyp_LinkWidthsAndTraining_wmark : up0.fullHold = none ∧ up0.occ 0 = 0 ∧
    (let v : W32 := 0x00020001; (v.extractLsb' 0 11).toNat < (v.extractLsb' 16 11).toNat ∧ (v.extractLsb' 16 11).toNat ≤ 1024) ∧
    { up0 with rxbuf := [(0, [(true, 0), (true, 0)])] }.occ 0 = 2 ∧
    let v : W32 := 0x00010001; ¬(v.extractLsb' 0 11).toNat < (v.extractLsb' 16 11).toNat := by decide +kernel

/-! ### Packets at their target -/

/-- A partition of 512 MiB of function 1, VDN 0: its pages 0 to 3 stand at the start of HBM. Its context 0 reaches every
address of it where it stands, by tables of pages 0 to 2 and of HBM at 0x40000. -/
def tables : List Host.Cell :=
  [(0, 1), (2, 1), (0x10000, 1), (0x10002, 2), (0x20000, 0x3B), (0x40000, 1), (0x40002, 5), (0x50000, 0x3B)]
def fn1 : Func :=
  { part := true, vfOn := true, quota := 1, s2root := 0x40000, deficit := 9
    place := (List.range 4).map (fun p => (p, BitVec.ofNat 64 (2 ^ 63 + p * 65536))) }
def dev (x : EventArgs) : State := { State.reset with mem := tables, funcs := [(1, fn1)], ports := [(0, up0)], inp := x }
/-- A packet stands at the head of its VC at port 0. -/
def holding (s : State) (p : Packet) : State :=
  { s with ports := [(0, { up0 with rxbuf := [(opVc p.op, (packetUnits p).map (fun u => (true, u)))] })], inp := { s.inp with pkt := p } }
/-- A request to offset 0x30000 and off of the partition. -/
def req (op : BitVec 6) (x : Packet) : Packet := { x with op, daddr := x.daddr + 0x30000 }
theorem homed_dev (p : Packet) (h : p.daddr < 0x100000000000) : Homed (holding (dev {}) p) 1 := by
  have h' : p.vdn = 0 := by simp [Packet.vdn, BitVec.lt_def] at *; omega
  refine ⟨⟨?_, rfl, rfl, rfl, rfl⟩, rfl, rfl⟩
  show (dev {}).partOf p.vdn = some 1
  rw [h']; decide +kernel
theorem hyp_MemoryRequestsAreServed : ∀ op ∈ [oREAD, oWRITE, oPOSTED], let s := holding (dev {}) (req op { opx := 31 })
    Arrived s op ∧ Homed s 1 ∧ s.inp.pkt.scope ≠ 4 ∧ s.poison = [] ∧ s.weak = [] ∧ InHbm s 1 s.inp.pkt.off (s.inp.pkt.opx.toNat % 256 + 1) 0x30000 := by
  simp only [List.forall_mem_cons]
  refine ⟨⟨?_, homed_dev _ (by decide), by decide, rfl, rfl, ?_⟩, ⟨?_, homed_dev _ (by decide), by decide, rfl, rfl, ?_⟩,
    ⟨?_, homed_dev _ (by decide), by decide, rfl, rfl, ?_⟩, fun _ h => nomatch h⟩ <;> (try unfold Arrived) <;> (try unfold InHbm) <;> decide +kernel
/-- ATOM.ADD of four bytes, and FSIG to the first word of page 3 with its latch 64 bytes further. -/
theorem hyp_MemoryRequestsAreServed_atomic : let s := holding (dev {}) (req oATOMIC { opx := 0x240 })
    Arrived s oATOMIC ∧ Homed s 1 ∧ s.poison = [] ∧ s.weak = [] ∧ s.sync = [] ∧ s.inp.pkt.opx.toNat / 256 = 2 ∧ s.inp.pkt.opx.toNat % 256 = 0x40 ∧
    InHbm s 1 s.inp.pkt.off 4 0x30000 := by
  refine ⟨?_, homed_dev _ (by decide), rfl, rfl, rfl, ?_, ?_, ?_⟩ <;> (try unfold Arrived) <;> (try unfold InHbm) <;> decide +kernel
theorem hyp_MemoryRequestsAreServed_fsig : let s := holding (dev {}) (req oFSIG { opx := 2, w3 := 0x30040 })
    Arrived s oFSIG ∧ Homed s 1 ∧ s.poison = [] ∧ s.weak = [] ∧ s.sync = [] ∧ InHbm s 1 s.inp.pkt.off 8 0x30000 ∧
    InHbm s 1 (s.inp.pkt.w3.toNat % 2 ^ 44) 8 0x30040 ∧ 0x30000 + 8 ≤ 0x30040 := by
  refine ⟨?_, homed_dev _ (by decide), rfl, rfl, rfl, ?_, ?_, ?_⟩ <;> (try unfold Arrived) <;> (try unfold InHbm) <;> decide +kernel
/-- A stream of core 1. -/
def sid1 : StreamId := { svdn := 0, score := 1, sgrp := 0, strm := 0, steam := 0 }
/-- A READ past the quota, and one of a page in transit. -/
theorem hyp_MemoryRequestsAreServed_none : let s := holding (dev {}) (req oREAD { daddr := 0x20000000 })
    Arrived s oREAD ∧ Homed s 1 ∧ (s.func 1).quota * 2 ^ 29 ≤ s.inp.pkt.off ∧ s.inp.pkt.off < 0xF0000000000 := by
  refine ⟨?_, homed_dev _ (by decide), ?_⟩ <;> (try unfold Arrived) <;> decide +kernel
def transit1 : State := { dev {} with funcs := [(1, { fn1 with place := [(3, 0x9000000000030000)] })] }
theorem hyp_MemoryRequestsAreServed_transit : let s := holding transit1 (req oREAD { opx := 31 })
    Arrived s oREAD ∧ Homed s 1 ∧ s.inp.pkt.off % 65536 + s.inp.pkt.opx.toNat % 256 + 1 ≤ 65536 ∧
    s.inp.pkt.off + s.inp.pkt.opx.toNat % 256 + 1 ≤ (s.func 1).quota * 2 ^ 29 ∧
    plV (s.placeEntry 0 1 (s.inp.pkt.off / 65536)) = true ∧ plTransit (s.placeEntry 0 1 (s.inp.pkt.off / 65536)) = true := by
  unfold Arrived Homed AtHome; decide +kernel
/-- A request of a frozen stream, and of one to be sent again. -/
def frozen1 : TFreeze := { sid := sid1, vdn := 0, sseq := 3, sclu := 0, func := 1, page := 3, hi := 3 }
theorem hyp_MemoryRequestsAreServed_frozen : ∀ e ∈ [(Instr.readReq, oREAD), (.writeReq, oWRITE), (.postedReq, oPOSTED), (.atomicReq, oATOMIC),
      (.fsigReq, oFSIG)], let p := req e.2 { score := 1, sseq := 4 }
    (let s := holding { dev {} with tfreezes := [frozen1] } p
     AtHome s 1 ∧ Arrived s e.2 ∧ s.tfreezes = [frozen1] ∧ frozen1.sid = s.inp.pkt.sid ∧ frozen1.vdn.toNat = s.inp.pkt.vdn ∧
     frozen1.resumed = false) ∧
    let s := holding { dev {} with retries := [sid1] } p
    AtHome s 1 ∧ Arrived s e.2 ∧ s.tfreezes = [] ∧ s.inp.pkt.sid ∈ s.retries ∧ s.inp.pkt.resend = false := by
  unfold Arrived AtHome; decide +kernel

theorem hyp_OtherRequestsAreServed : ∀ op ∈ [oCFGRD, oCFGWR, oMMIORD, oMMIOWR, oHOSTRD, oHOSTWR, oEVREC],
    Arrived (holding (dev {}) (req op {})) op := by unfold Arrived; decide +kernel
theorem hyp_OtherRequestsAreServed_coll : ∀ op ∈ [oCBEGUN, oCDATA], let s := holding (dev {}) (req op {})
    Arrived s op ∧ Homed s 1 ∧ s.mig.inFunc ≠ some 1 ∧ s.keys = [] ∧ s.earlySegs = [] ∧ (s.func 1).passed = none ∧
    s.begunSeen.contains (1, s.inp.pkt.w3.extractLsb' 32 32) = false := by unfold Arrived Homed AtHome; decide +kernel
/-- Stream bytes for the incoming function 1, at VDN 5 of PF0, ahead of the position awaited and at it. -/
def incoming : State := { dev {} with funcs := [(0, { part := true, vdn := 5 }), (1, fn1)], mig := { inFunc := some 1 } }
theorem hyp_OtherRequestsAreServed_stream : ∀ o : Bool,
    let s := holding incoming { op := oMSTREAM, daddr := 5 <<< 44 + (if o then 64 else 0), w3 := 1, len := 1, data := [1, 2, 3] }
    Arrived s oMSTREAM ∧ Homed s 0 ∧ s.mig.inFunc = some 1 ∧ s.mig.inEnd = false ∧ s.inp.pkt.w3.toNat % 64 = 1 ∧ s.mig.inAhead = [] ∧
    s.mig.inBytes = [] ∧ s.mig.inPos < 2 ^ 44 ∧ 0 < s.inp.pkt.data.length ∧ s.inp.pkt.data.length < 8 ∧
    if o then s.mig.inPos < s.inp.pkt.off else s.mig.inPos = s.inp.pkt.off := by unfold Arrived Homed AtHome; decide +kernel
theorem hyp_OtherRequestsAreServed_hmsg : let s := holding { dev {} with mig := { dir := 1, dest := 7, func := 1 } } { op := oHMSG, w3 := 0x123, svdn := 7 }
    Arrived s oHMSG ∧ s.inp.pkt.w3.toNat % 256 = 0x23 ∧ s.mig.dir = 1 ∧ s.mig.phase = 0 ∧ s.inp.pkt.svdn = s.mig.dest ∧
    s.inp.pkt.w3.toNat / 256 % 64 = s.mig.func := by
  unfold Arrived; decide +kernel
def unknown5 : Port := { up0 with rxbuf := [(0, (packetUnits { op := 0x3F }).map (fun u => (true, u)))] }
theorem hyp_OtherRequestsAreServed_unknown : let s := onPort unknown5 { pkt := { op := 0x3F } }
    opKnown s.inp.pkt.op = false ∧ ∀ v, v < 8 → s.atHead s.inp.port v s.inp.pkt = decide (v = 0) := by decide +kernel

/-- One stream to VDN 9, reached over port 0, with a READ outstanding or waiting. -/
def sid0 : StreamId := { svdn := 0, score := 0, sgrp := 0, strm := 0, steam := 0 }
def read0 : Packet := { op := oREAD, daddr := 9 <<< 44, opx := 3 }
def stream0 (out : Bool) (z : Option Freeze) (o : TxnOwner) : Stream :=
  { sid := sid0, vdn := 9, out := if out then [(read0, o)] else [], queue := if out then [] else [(read0, o)], freeze := z }
def streaming (x : Stream) : State :=
  { dev { sid := sid0, vdn := 9 } with streams := [x], vdnTab := [(9, 1 <<< 63 + 1 <<< 64)] }
def answer5 (op : BitVec 6) (status : Byte) : Packet := { op, svdn := 9, status }
def lane00 : TxnOwner := .lane 0 0 0 0
def fill00 : TxnOwner := .fill 0 0 0 0 1 0
theorem hyp_StreamsAtTheSource : ∀ o ∈ [lane00, fill00], ∀ op ∈ [oRDATA, oRACK], ∀ status ∈ [(0 : Byte), 1, 2, 0x82],
    let s := holding (streaming (stream0 true none o)) (answer5 op status)
    let x := stream0 true none o
    s.streams = [x] ∧ x.sid = s.inp.pkt.rsid ∧ x.vdn = s.inp.pkt.svdn ∧ x.out = [(read0, o)] ∧ x.queue = [] ∧ x.freeze = none ∧
    read0.sseq = s.inp.pkt.sseq ∧ Quiet s ∧ Arrived s op ∧ s.inp.pkt.status = status := by unfold Arrived Quiet; decide +kernel
theorem hyp_StreamsAtTheSource_room (o : TxnOwner) (p : Packet) (n : Nat) : (holding (streaming (stream0 true none o)) p).l2Room n =
    holding (streaming (stream0 true none o)) p := if_pos (by
  have h : (holding (streaming (stream0 true none o)) p).l2 = [] := rfl
  rw [h]; rfl)
theorem hyp_StreamsAtTheSource_finish : let s := withG { grp with acc := [{ oldAcc .load with parts := [{ lane := 3, va := 0, loc := .err 0 }] }] }
    ∃ a x, (s.group 0 0).acc = [a] ∧ a.id = 0 ∧ a.op = .load ∧ a.parts = [x] ∧ x.lane = 3 ∧ isS a.dest = false ∧ a.bytes = 4 :=
  ⟨_, _, rfl, rfl, rfl, rfl, rfl, by decide, rfl⟩
theorem hyp_StreamsAtTheSource_ended : ∀ op ∈ [oRESUME, oABORT],
    let x := stream0 false (some (.rfault 0)) lane00
    let s := holding (streaming x) (answer5 op 0)
    Arrived s op ∧ s.incoming s.inp.pkt.vdn = false ∧ s.streams = [x] ∧ x.sid = s.inp.pkt.rsid ∧ x.vdn = s.inp.pkt.svdn ∧ x.out = [] ∧
    x.queue = [(read0, lane00)] ∧ x.freeze = some (.rfault s.inp.pkt.sseq) ∧ Routed s lane00 x.vdn 0 ∧ Quiet s ∧ s.savedTeams = [] ∧
    x.sid = s.inp.sid ∧ x.vdn = s.inp.vdn := by
  unfold Arrived Routed Quiet; decide +kernel
theorem hyp_StreamsAtTheSource_retry : ∀ z ∈ [none, some (Freeze.retry 0)],
    let x := stream0 false z lane00
    let s := streaming x
    s.streams = [x] ∧ x.sid = s.inp.sid ∧ x.vdn = s.inp.vdn ∧ x.out = [] ∧ x.queue = [(read0, lane00)] ∧ x.freeze = z ∧
    Routed s lane00 x.vdn 0 ∧ s.waitVdn = [] ∧ vtHold (tget 0 s.vdnTab x.vdn.toNat) = false ∧ Quiet s := by unfold Routed Quiet; decide +kernel
/-- A message for a partition that comes in. -/
theorem hyp_StreamsAtTheSource_incoming : ∀ op ∈ [oRESUME, oABORT], let s := holding { dev {} with mig := { inFunc := some 1 } } (answer5 op 0)
    Arrived s op ∧ s.incoming s.inp.pkt.vdn = true := by unfold Arrived; decide +kernel
/-- A frozen page with its condition gone, lasting, and the page being moved to another tier. -/
theorem hyp_StreamsAtTheSource_condition : ∀ n ∈ [8, 10, 9], let e := BitVec.ofNat 64 (n * 2 ^ 60 + 0x30000)
    let z : TFreeze := { sid := sid0, vdn := 0, sseq := 0, sclu := 0, func := 1, page := 3, hi := 0 }
    let s := { dev { func := 1, page := 3 } with tfreezes := [z], funcs := [(1, { fn1 with place := [(3, e)] })] }
    s.tfreezes = [z] ∧ z.func = s.inp.func ∧ z.page = s.inp.page ∧ z.resumed = false ∧ tget 0 (s.func s.inp.func).place s.inp.page = e ∧
    (plWp e || plTransit e) = (n != 8) ∧ s.tierOf s.inp.func s.inp.page = none ∧ s.owed = [] := by decide +kernel

def out0 (first : Option (BitVec 16)) (wait later : List (BitVec 16)) (own : Bool) : VdnOut :=
  { vdn := 9, entry := 1 <<< 63, first, wait, later, ownDone := own }
theorem hyp_VdnUpdates : let e := vtSetHold (tget 0 (dev {}).vdnTab 9) true
    (∀ en ∈ [2 ^ 63, 0], let s := dev { upd := { vdn := 9, entry := BitVec.ofNat 128 en, src := 0 } }
     tget [] (portIn s).rxbuf 7 = [] ∧ s.loop = [] ∧ s.mig.dir = 0 ∧ s.vdnUpds = [] ∧ s.partOf s.inp.upd.vdn.toNat = none ∧
     s.inp.upd.src = s.haspSrc ∧ (tget 0 s.vdnTab s.inp.upd.vdn.toNat = vtSetHold s.inp.upd.entry false ↔ en = 0) ∧
     e = vtSetHold (tget 0 s.vdnTab s.inp.upd.vdn.toNat) true) ∧
    (let s := dev { upd := { vdn := 9, entry := 1 <<< 63, src := 3 } }
     s.inp.upd.src ≠ s.haspSrc ∧ tget [] (portIn s).rxbuf 7 = [] ∧ s.loop = [] ∧ s.mig.dir = 0 ∧ s.vdnUpds = [] ∧
     s.partOf s.inp.upd.vdn.toNat = none) ∧
    (∀ xs ∈ [[], [stream0 true none lane00]], let s := { dev { vdn := 9 } with vdnUpds := [{ vdn := 9, entry := 1 <<< 63, src := 0 }], streams := xs }
     s.streams = xs ∧ s.waitVdn = [] ∧ s.vdnUpds = [{ vdn := s.inp.vdn, entry := 1 <<< 63, src := 0 }] ∧ vtHold (1 <<< 63) = false ∧ Quiet s) ∧
    (stream0 true none lane00).vdn = 9 ∧ (stream0 true none lane00).out ≠ [] ∧
    let s := { dev { vdn := 9 } with fwdWin := [9], holdq := [read0] }
    s.fwdWin = [s.inp.vdn] ∧ s.holdq = [read0] ∧ read0.vdn = s.inp.vdn.toNat ∧ ¬(s.mig.dir = 1 ∧ s.mig.phase = 8) := by
  unfold Quiet; decide +kernel
theorem hyp_VdnUpdates_last : let s := { dev { vdn := 9 } with fwdWin := [9], holdq := [read0], mig := { dir := 1, phase := 8 } }
    s.fwdWin = [s.inp.vdn] ∧ s.holdq = [read0] ∧ read0.vdn = s.inp.vdn.toNat ∧ s.mig.dir = 1 ∧ s.mig.phase = 8 := by decide +kernel
/-- Acknowledgements of one of two members, of the last, of the old home, and one that turns the update away. -/
theorem hyp_VdnUpdates_acks : ∀ o ∈ [out0 none [2, 3] [] false, out0 none [2] [] true, out0 (some 2) [] [3] false], ∀ status ∈ [(0 : Byte), 1],
    ∀ xs ∈ [[], [stream0 true none lane00]], let s := { dev { vdn := 9, dev := 2, status } with vdnOut := [o], streams := xs }
    tget [] (portIn s).rxbuf 7 = [] ∧ s.loop = [] ∧ s.vdnOut = [o] ∧ o.vdn = s.inp.vdn ∧ s.inp.epoch = vtEpoch o.entry ∧ s.inp.status = status ∧
    s.mig.inFunc = none ∧ s.vdnUpds = [] ∧ Quiet s ∧ s.streams = xs ∧
    (o.first = none → s.inp.dev ∈ o.wait) ∧ (o.first ≠ none → o.first = some s.inp.dev ∧ o.later ≠ []) := by
  unfold Quiet; decide +kernel
theorem hyp_VdnUpdates_kinds : (out0 none [2, 3] [] false).wait.filter (fun d => d != 2) ≠ [] ∧ (out0 none [2] [] true).wait = [2] ∧
    (out0 none [2] [] true).ownDone = true ∧ (out0 none [2] [] true).first = none ∧ (out0 (some 2) [] [3] false).first = some 2 := by decide

/-! ### Collectives, host accesses and registers -/

def okAnd {ε α : Type} (r : Except ε α) (P : α → Bool) : Bool := match r with | .ok x => P x | .error _ => false
theorem ok_of {ε α : Type} {r : Except ε α} {P : α → Bool} (h : okAnd r P = true) : ∃ x, r = .ok x ∧ P x = true := by
  cases r <;> simp_all [okAnd]
theorem some_of {α : Type} {r : Option α} {P : α → Bool} (h : (match r with | some x => P x | none => false) = true) :
    ∃ x, r = some x ∧ P x = true := by
  cases r <;> simp_all
theorem reads_of {r : VaRes} {P : List Byte → State → Bool} (h : (match r with | .bytes b v => P b v | _ => false) = true) :
    ∃ b v, r = .bytes b v ∧ P b v = true := by
  cases r <;> simp_all
/-- A sequencer with a role and its numbers, alone or not, of which communicator 2 has the members at VDN 0 and 7. -/
def seqState (role : Nat) (ns : List SeqNum) (m : SeqMsg) (alone : Bool) : State :=
  { dev { msg := m } with seq := { role, nums := ns, alone }, comms := [(2, [0, 7])] }
def num0 (st : NumSt) : SeqNum := { num := 4, comm := 2, tag := 6, st }
def seqMsg0 : SeqMsg := { comm := 2, tag := 6, num := 4 }
theorem hyp_SequencerMoves_first : ∀ z : Bool, let s := seqState 1 [] seqMsg0 z
    Primary s ∧ s.rankOf s.inp.msg.comm s.inp.msg.svdn = some 0 ∧ s.seq.nums = [] ∧ s.seq.waiting = [] ∧ s.seq.alone = z := by
  unfold Primary NoVc5; decide +kernel
theorem hyp_SequencerMoves_later : let s := seqState 1 [] { seqMsg0 with term := 3 } false
    NoVc5 s ∧ s.seq.role = 1 ∧ after16 s.inp.msg.term s.seq.term = true := by unfold NoVc5; decide +kernel
theorem hyp_SequencerMoves_number : ∀ z : Bool, ∀ x ∈ [NumSt.assigned, .started, .voided], let s := seqState 1 [num0 x] seqMsg0 z
    Primary s ∧ s.seq.nums = [num0 x] ∧ (num0 x).num = s.inp.msg.num ∧ (num0 x).comm = s.inp.msg.comm ∧ (num0 x).tag = s.inp.msg.tag ∧
    s.rankOf (num0 x).comm s.inp.msg.svdn = some 0 ∧ s.inp.msg.result = 0 ∧ (num0 x).aacks.contains 0 = false ∧ (num0 x).pend = [] ∧
    (num0 x).st = x ∧ (num0 x).retires.contains 0 = false ∧ s.seq.waiting = [] ∧ s.seq.alone = z := by unfold Primary NoVc5; decide +kernel
/-- A retire that is not the last one, and the last one. -/
theorem hyp_SequencerMoves_retire : (num0 .started).retires.length + 1 < ((seqState 1 [] {} true).membersOf 2).length ∧
    (let n := { num0 .started with retires := [1] }
     let s := seqState 1 [n] seqMsg0 true
     Primary s ∧ s.seq.nums = [n] ∧ n.num = s.inp.msg.num ∧ s.rankOf n.comm s.inp.msg.svdn = some 0 ∧ n.st = .started ∧ n.pend = [] ∧
     n.retires.contains 0 = false ∧ s.seq.waiting = [] ∧ (s.membersOf n.comm).length ≤ n.retires.length + 1 ∧ s.seq.alone = true) := by
  unfold Primary NoVc5; decide +kernel
def numPend : SeqNum := { num0 .assigned with pend := [(.start, 7, false)] }
theorem hyp_SequencerMoves_mack : let s := seqState 1 [numPend] { seqMsg0 with result := 0x12 } false
    Primary s ∧ s.seq.nums = [numPend] ∧ numPend.num = s.inp.msg.num ∧ numPend.pend = [(.start, 7, false)] ∧ s.inp.msg.result = 0x12 ∧
    s.seq.waiting = [] := by unfold Primary NoVc5; decide +kernel
theorem hyp_SequencerMoves_standby : let s := seqState 2 [] { seqMsg0 with result := 0x10 } false
    NoVc5 s ∧ s.seq.role = 2 ∧ s.inp.msg.result = 0x10 ∧ s.seq.nums = [] ∧ s.inp.msg.num ∉ s.seq.gone := by unfold NoVc5; decide +kernel
theorem hyp_SequencerMoves_mirrored : ∀ r ∈ [0x10, 0x11, 0x12, 0x13], let s := seqState 2 [num0 .assigned] { seqMsg0 with result := BitVec.ofNat 8 r } false
    NoVc5 s ∧ s.seq.role = 2 ∧ s.seq.nums = [num0 .assigned] ∧ (num0 .assigned).num = s.inp.msg.num ∧ s.inp.msg.result.toNat = r := by
  unfold NoVc5; decide +kernel
/-- A beat, and another message, that stand on VC 5. -/
def beat5 (b : Bool) : Packet := { seqPacket 0x1B false seqMsg0 with op := if b then 0x1B else 0x1A }
theorem hyp_SequencerMoves_beat : ∀ b : Bool, let s := holding (seqState 2 [] {} false) (beat5 b)
    s.boot.halt ≠ .fatal ∧ s.holdq = [] ∧ s.loop = [] ∧ s.homeHold = [] ∧ s.fwdWin = [] ∧ s.mig.inFunc = none ∧ s.seq.role = 2 ∧
    (match (portIn s).headPacket 5 with | some x => x.1 == beat5 b | none => false) = true ∧ ((beat5 b).op = 0x1B ↔ b = true) := by
  decide +kernel
theorem hyp_SequencerMoves_other : (let s := seqState 1 [] {} false
     s.seq.role = 1 ∧ s.seq.alone = false) ∧
    (let s := seqState 2 [num0 .voided, num0 .started] {} false
     s.seq.role = 2 ∧ NoVc5 s ∧ s.membersOf (num0 .voided).comm = [0, 7]) ∧
    (let s := { seqState 1 [] {} false with unanswered := [(0x11, seqMsg0)] }
     s.unanswered[s.inp.k]? = some (0x11, seqMsg0)) ∧
    (let s := dev { members := some [0, 7], comm := 2 }
     s.inp.members = some [0, 7] ∧ 2 ≤ [(0 : BitVec 16), 7].length ∧ [(0 : BitVec 16), 7].length ≤ 4096 ∧ [(0 : BitVec 16), 7].Nodup) ∧
    (let s := dev {}
     s.inp.members = none ∧ (∀ n ∈ s.seq.nums, n.comm ≠ s.inp.comm) ∧ ∀ k ∈ s.keys, k.comm ≠ s.inp.comm) ∧
    (let s := dev { v := 0x20000007 }
     (s.seq.role ≠ 1 ∧ s.seq.role ≠ 2) ∧ (s.inp.v.extractLsb' 29 2).toNat = 1) ∧
    (let s := seqState 1 [num0 .assigned] {} false
     ¬((s.seq.role ≠ 1 ∧ s.seq.role ≠ 2) ∧ (s.inp.v.extractLsb' 29 2).toNat = 1) ∧ (s.inp.v.extractLsb' 29 2).toNat ≠ s.seq.role ∧ s.seq.nums ≠ []) ∧
    let s := seqState 1 [] {} false
    ¬((s.seq.role ≠ 1 ∧ s.seq.role ≠ 2) ∧ (s.inp.v.extractLsb' 29 2).toNat = 1) ∧ s.seq.nums = [] := by unfold NoVc5; decide +kernel

/-- Function 1 as a member, with one key; and a collective of no elements. -/
def desc5 (kind : Nat) : CollDesc :=
  { addr := 0x30000, kind, op := 0, count := 0, src := 0x30040, dst := 0x30080, root := 0, dtype := 0, latch := none, launch := 0, index := 0, ctx := 0 }
def key0 : KeyEnt := { func := 1, comm := 2, tag := 6 }
def memberState (ks : List KeyEnt) (x : EventArgs) : State := { dev x with keys := ks, comms := [(2, [0, 7])] }
def toMember (result : Byte) : EventArgs := { msg := { seqMsg0 with term := 1, result, first := true }, func := 1 }
theorem hyp_EngineFollowsTheOrder_assign : ∀ r ∈ [(0 : Byte), 1], ∀ ks ∈ [[], [key0]], let s := memberState ks (toMember r)
    ForMember s 1 0x11 ∧ s.inp.msg.result = r ∧ s.earlySegs = [] ∧ s.keys = ks ∧ key0.func = 1 ∧ key0.comm = s.inp.msg.comm ∧
    key0.tag = s.inp.msg.tag ∧ key0.num = none ∧ key0.retired = false ∧ key0.begun = false ∧ s.unanswered = [] ∧
    (s.func 1).passed = none := by unfold ForMember NoVc5; decide +kernel
theorem hyp_EngineFollowsTheOrder_begin : ∀ v o b : Bool,
    let p : Option W32 := if b then some 3 else none
    let k := { key0 with num := some 4, first := !b, prev := 3, issued := !v && !o, void_ := v, orphan := o }
    let s := { memberState [k] (toMember 0) with funcs := [(1, { fn1 with passed := p })] }
    s.inp.func = 1 ∧ s.keys = [k] ∧ k.func = 1 ∧ k.num = some 4 ∧ k.retired = false ∧ (s.func 1).passed = p ∧
    (p = none → k.first = true) ∧ (p = some 3 → k.first = false ∧ k.prev = 3) ∧
    s.wholeStop 1 = false ∧ k.void_ = v ∧ (v = false → k.issued = true ∨ k.orphan = true) ∧ (v = true → k.issued = false) ∧ k.begun = false := by
  decide +kernel
def key1 (kind : Nat) : KeyEnt := { key0 with num := some 4, begun := true, desc := some (desc5 kind) }
theorem hyp_EngineFollowsTheOrder_grant : ∀ r ∈ [(0 : Byte), 1], let s := memberState [key1 2] (toMember r)
    ForMember s 1 0x14 ∧ s.keys = [key1 2] ∧ (key1 2).func = 1 ∧ (key1 2).num = some s.inp.msg.num ∧ (key1 2).begun = true ∧
    (key1 2).granted = false ∧ (key1 2).retired = false ∧ (key1 2).desc = some (desc5 2) ∧ s.unanswered = [] ∧ s.inp.msg.result = r ∧
    (desc5 2).kind ≠ 1 ∧ (key1 2).issued = false := by unfold ForMember NoVc5; decide +kernel
def key2 (kind : Nat) : KeyEnt := { key1 kind with granted := true, begunSent := true }
def dataState : State := memberState [key2 2] { func := 1, comm := 2, tag := 6, num := 4 }
theorem hyp_EngineFollowsTheOrder_data : ∃ (u v : State) (src : Nat → List W32), dataState.inp.func = 1 ∧ dataState.keys = [key2 2] ∧
    dataState.ringOf 1 (key2 2) = some ([0, 7], 0) ∧ (key2 2).granted = true ∧ (key2 2).retired = false ∧ (key2 2).orphan = false ∧
    dataState.wholeStop 1 = false ∧ dataState.bring (key2 2) (desc5 2) 2 0 dataState.inp.others = .ok src u ∧ u.keys = [key2 2] ∧
    (key2 2).srcFail = false ∧ (key2 2).dstFail = false ∧
    u.engWrite 1 (key2 2) (desc5 2) 0x30080 (wordsBytes (collResult (desc5 2) 2 0 src)) ((desc5 2).dstN 2 / 16384 + 2) = .ok () v := by
  refine ⟨_, _, _, rfl, rfl, by decide +kernel, rfl, rfl, rfl, by decide +kernel, rfl, ?_, rfl, rfl, rfl⟩
  decide +kernel
theorem hyp_EngineFollowsTheOrder_repeat : let s := memberState [key2 1] { func := 1, num := 4 }
    s.keys = [key2 1] ∧ (key2 1).num = some s.inp.num ∧ (key2 1).granted = true ∧ (key2 1).retired = false ∧
    (key2 1).desc = some (desc5 1) ∧ (desc5 1).kind = 1 ∧ s.ringOf 1 (key2 1) = some ([0, 7], 0) ∧ s.inp.hop = 0 ∧
    (key2 1).begunSent = true ∧ (key2 1).begunAck = false := by decide +kernel
def key3 : KeyEnt := { key2 1 with sent := 1, got := [((0, 0), [1])] }
theorem hyp_EngineFollowsTheOrder_hop : let s := memberState [key3] { func := 1, num := 4, hop := 1 }
    s.keys = [key3] ∧ s.ringOf 1 key3 = some ([0, 7], 0) ∧ 1 ≤ s.inp.hop ∧ s.inp.hop < 2 ∧ s.inp.seg * (2 - 1) + s.inp.hop - 1 < key3.sent ∧
    key3.acked.contains (s.inp.seg * (2 - 1) + s.inp.hop - 1) = false ∧
    key3.got.find? (fun e => e.1 == ((0 + 2 + 1 - s.inp.hop) % 2, s.inp.seg)) = some (((0 + 2 + 1 - s.inp.hop) % 2, s.inp.seg), [1]) := by
  decide +kernel
def cancel0 : Cancel := { gs := 0, va := 0x30000, comm := 2, tag := 6, latch := 0xFFFFFFFF }
def cancelState : State :=
  { memberState [] (toMember 0) with
    groups := [(0, { grp with cstat := some (0xC4, 2, 6, false) })], teams := [(0, team)], cores := [(0, { core0 with cancels := [cancel0] })] }
theorem hyp_EngineFollowsTheOrder_answers : ForMember cancelState 1 0x16 ∧ cancelState.cores = [(0, { core0 with cancels := [cancel0] })] ∧
    cancelState.savedTeams = [] ∧ cancelState.unanswered = [] ∧ cancel0.comm = cancelState.inp.msg.comm ∧
    cancel0.tag = cancelState.inp.msg.tag ∧ (cancelState.team 0 (cancelState.group 0 cancel0.gs).team).func = 1 ∧
    noLatch cancel0.latch = true ∧ cancelState.inp.msg.result = 0 ∧
    (cancelState.group cancelState.inp.core cancelState.inp.gs).live = true ∧
    (cancelState.group cancelState.inp.core cancelState.inp.gs).cstat = some (0xC4, 2, 6, false) := by
  unfold ForMember NoVc5; decide +kernel
def key4 : KeyEnt := { key1 2 with retired := true }
theorem hyp_EngineFollowsTheOrder_done : let s := memberState [key4] (toMember 0)
    ForMember s 1 0x18 ∧ s.unanswered = [] ∧ s.keys = [key4] ∧ key4.func = 1 ∧ key4.num = some s.inp.msg.num ∧ key4.retired = true := by
  unfold ForMember NoVc5; decide +kernel
theorem hyp_EngineFollowsTheOrder_term : let s := memberState [] { msg := { term := 2 } }
    NoVc5 s ∧ s.memberOf 0x1C s.inp.msg = true ∧ s.partOf s.inp.msg.dvdn.toNat = some 1 ∧ s.seq.role ≠ 1 ∧
    after16 s.inp.msg.term s.ceTerm = true ∧ s.unanswered = [] := by unfold NoVc5; decide +kernel
/-- Messages that no member here is addressed by, at a standby and at a device without a role. -/
theorem hyp_EngineFollowsTheOrder_stray : ∀ r ∈ [0, 2], ∀ op ∈ [0x11, 0x14, 0x16, 0x18, 0x1C],
    let s := { memberState [] { msg := { dvdn := 9 } } with seq := { role := r } }
    NoVc5 s ∧ s.memberOf (BitVec.ofNat 8 op) s.inp.msg = false ∧ s.seq.role = r := by unfold NoVc5; decide +kernel

theorem hyp_HostReachesRegisters_write : ∀ w ∈ [Requester.func 1, .pf0, .hasp], ∀ o ∈ [0x180000, 0x170010, 0x100000 + 17 * 0x1000 + 8],
    let s := dev { who := w, off := o }
    s.inp.space = .mgmt ∧ s.inp.size = 4 ∧ s.inp.who = w ∧ s.inp.off = o := by decide +kernel
theorem hyp_HostReachesRegisters_bar : let s := dev { space := .bar0 1, off := 63 * 0x40 + 0x18 }
    s.inp.space = .bar0 1 ∧ s.inp.size = 4 ∧ s.inp.off = 63 * 0x40 + 0x18 := by decide +kernel
def bridge (x : EventArgs) (locked : Bool) : State := { dev x with boot := { bridge := true, locked } }
theorem hyp_HostReachesRegisters_bridge : let s := bridge { func := 1 } false
    s.boot.bridge = true ∧ s.inp.bus = s.boot.slot ∧ s.present s.inp.func = true ∧ s.inp.cfgWr = none ∧ s.inp.mmioWr = none ∧
    s.inp.bar = 0 ∧ s.inp.size = 4 := by decide +kernel
theorem hyp_HostReachesRegisters_bridge_write : let s := bridge { func := 1, cfgWr := some (3, 15), mmioWr := some 5 } false
    s.boot.bridge = true ∧ s.inp.bus = s.boot.slot ∧ s.present s.inp.func = true ∧ s.inp.cfgWr = some (3, 15) ∧ s.inp.mmioWr = some 5 ∧
    s.inp.bar = 0 ∧ s.inp.size = 4 := by decide +kernel
theorem hyp_HostReachesRegisters_other : (let s := bridge { bus := 3 } false
     s.boot.bridge = true ∧ s.inp.bus ≠ s.boot.slot ∧ tget none s.group8 s.inp.bus.toNat = none) ∧
    (let s := bridge { bar := 2 } true
     s.boot.bridge = true ∧ s.inp.bus = s.boot.slot ∧ s.inp.func = 0 ∧ s.inp.bar = 2 ∧ s.boot.locked = true) ∧
    State.reset.boot.bridge = false := by decide +kernel
theorem hyp_HostReachesRegisters_notify : let s := dev { func := 1, v := 16 }
    (s.inp.v - (s.queue 1 0).head).toNat ≤ (s.queue 1 0).size ∧ 1 ≤ (s.inp.v - (s.queue 1 0).tail).toNat ∧
    (s.inp.v - (s.queue 1 0).tail).toNat < 2 ^ 31 := by decide +kernel
theorem hyp_HostReachesRegisters_notify_over : let s := dev { func := 1, v := 17 }
    (s.queue 1 0).size < (s.inp.v - (s.queue 1 0).head).toNat := by decide +kernel
theorem hyp_HostReachesRegisters_notify_any : (let s := dev { func := 1 }
     (s.func s.inp.func).flr = false ∧ s.accepting = true ∧ s.inp.off = 0 ∧ s.inp.size = 4 ∧ (s.queue 1 0).size = 16 ∧
     s.inp.v = (s.queue 1 0).tail) ∧
    (dev { off := 8 }).inp.off ≠ 0 ∧ (∃ s : State, (s.func s.inp.func).flr = true) ∧
    (∃ s : State, s.boot.halt = .measure) ∧ ∃ s : State, s.boot.halt = .fatal :=
  ⟨by decide +kernel, by decide, ⟨{ dev {} with funcs := [(0, { flr := true })] }, rfl⟩,
    ⟨{ State.reset with boot := { halt := .measure } }, rfl⟩, ⟨{ State.reset with boot := { halt := .fatal } }, rfl⟩⟩

/-! ### Commands, teams and graphs -/

theorem reaches_of {s : State} {f ctx access pa : Nat} {va : W64} (h : okAnd (s.translate 0 f ctx va access).1
      (fun e => !e.windowed access && decide (e.loc.add (va.toNat % 65536) = .home pa)) = true) : Reaches s f ctx va access pa := by
  obtain ⟨e, he, h⟩ := ok_of h
  simp only [Bool.and_eq_true, Bool.not_eq_true', decide_eq_true_eq] at h
  exact ⟨e, he, h.1, h.2⟩
/-- Page 3 of the partition holds some bytes more. -/
def page3 (cells : List Host.Cell) : List Host.Cell := tables.take 5 ++ cells ++ tables.drop 5
def cmd0 (kind : Nat) (caddr w3 w4 : W64) : Cmd :=
  { slot := 0, kind, irq := false, cseq := 9, caddr, ctx := 0, w2 := 0x30000, w3, w4 }
def queued (cells : List Host.Cell) (cs : List Cmd) (tail : W32) : State :=
  { dev { func := 1, copy := .queue 1 0 0, fw := 1 } with
    mem := page3 cells
    funcs := [(1, { fn1 with ctxs := [(0, some (0x10001, 0, 0))], rects := [{ die := 0, row := 0, col := 0, rows := 1, cols := 1 }]
                             queues := [(0, { base := 0x30000, cfg := 0x80000004, tail, cmds := cs })] })] }
theorem hyp_CommandsRunAndRetire_hasp : (dev {}).inp.fw = 0 ∧ 8 ≤ (dev { fw := 8 }).inp.fw := by decide
def fetching : State := queued [(0x30000, 4)] [] 1
theorem hyp_CommandsRunAndRetire_ready : (1 ≤ fetching.inp.fw ∧ fetching.inp.fw ≤ 7) ∧ fetching.accepting = true ∧
    (fetching.func 1).part = true ∧ (fetching.func 1).flr = false ∧ (fetching.func 1).fetchOff = false ∧
    (fetching.queue 1 0).fetchable = true := by decide +kernel
theorem hyp_CommandsRunAndRetire_fetch : ∃ ok u b v, (fetching.serve 1 1 0).bindCtx 1 (fetching.queue 1 0).ctx = .ok (ok, u) ∧
    u.vaRead 1 (fetching.queue 1 0).ctx 0x30000 256 = .bytes b v ∧ cmdBad b = none := by
  obtain ⟨x, hx, h⟩ := ok_of (r := (fetching.serve 1 1 0).bindCtx 1 (fetching.queue 1 0).ctx)
    (P := fun x => match x.2.vaRead 1 (fetching.queue 1 0).ctx 0x30000 256 with | .bytes b _ => cmdBad b == none | _ => false) (by decide +kernel)
  obtain ⟨b, v, hb, h⟩ := reads_of h
  exact ⟨x.1, x.2, b, v, hx, hb, eq_of_beq h⟩
theorem hyp_CommandsRunAndRetire_command : ∀ k ∈ [1, 2, 3, 4], let s := queued [] [cmd0 k 0 0 0] 1
    OneCmd s 1 0 0 k (cmd0 k 0 0 0) ∧ Served s 1 ∧ (s.func 1).flr = false ∧ s.wholeStop 1 = false := by
  unfold OneCmd Served; decide +kernel
theorem hyp_CommandsRunAndRetire_started (s : State) (f q : Nat) (c : Cmd) : ∃ w, CmdStarted s w f q c := ⟨_, rfl⟩
/-- A marker without a record, with an interrupt, and with a record. -/
theorem hyp_CommandsRunAndRetire_irq : let c := { cmd0 4 0 0 0 with irq := true }
    let s := { queued [] [c] 1 with boot := { bridge := true } }
    OneCmd s 1 0 0 4 c ∧ Served s 1 ∧ (s.func 1).flr = false ∧ s.wholeStop 1 = false ∧ c.caddr = 0 ∧ c.irq = true ∧
    s.boot.bridge = true ∧ s.owed = [] ∧ s.devWrites 1 = false := by unfold OneCmd Served; decide +kernel
theorem hyp_CommandsRunAndRetire_marker : let s := queued [] [cmd0 4 0x30100 0 0] 1
    ∃ w, CmdStarted s w 1 0 (cmd0 4 0x30100 0 0) ∧ OneCmd s 1 0 0 4 (cmd0 4 0x30100 0 0) ∧ (cmd0 4 0x30100 0 0).caddr ≠ 0 ∧
      (cmd0 4 0x30100 0 0).caddr.toNat % 16 = 0 ∧ Reaches w 1 0 0x30100 1 0x30100 :=
  ⟨_, rfl, by unfold OneCmd; decide +kernel, by decide, by decide, reaches_of (by decide +kernel)⟩
def copy1 : Cmd := { cmd0 3 0 0x30800 64 with started := true }
def copying : State := queued [(0x30000, 5)] [copy1] 1
theorem hyp_CommandsRunAndRetire_copy : copying.inp.copy = .queue 1 0 0 ∧ (copying.queue 1 0).cmds = [copy1] ∧ copy1.slot = 0 ∧
    copy1.kind = 3 ∧ copy1.started = true ∧ copy1.done = 0 ∧ copy1.caddr = 0 ∧ copy1.irq = false ∧ copy1.w4.toNat % 2 ^ 40 = 64 ∧
    copy1.w2.toNat % 4096 + 64 ≤ 4096 ∧ copy1.w3.toNat % 4096 + 64 ≤ 4096 ∧ copying.cores = [] ∧ copying.l2 = [] ∧ copying.streams = [] ∧
    (copying.func 1).flr = false ∧ copying.wholeStop 1 = false := by decide +kernel
theorem hyp_CommandsRunAndRetire_source : (∃ bs, copying.vaRead 1 copy1.ctx copy1.w2 64 = .bytes bs copying ∧ bs.length = 64) ∧
    Reaches copying 1 copy1.ctx copy1.w3 1 0x30800 := by
  obtain ⟨b, v, hb, h⟩ := reads_of (r := copying.vaRead 1 copy1.ctx copy1.w2 64) (P := fun b v => b.length == 64 && decide (v = copying))
    (by decide +kernel)
  simp only [Bool.and_eq_true, decide_eq_true_eq, beq_iff_eq] at h
  exact ⟨⟨b, h.2 ▸ hb, h.1⟩, reaches_of (by decide +kernel)⟩
def badLaunching : State := queued [(0x30038, 1)] [cmd0 1 0 0 0] 1
theorem hyp_CommandsRunAndRetire_badLaunch : ∃ b v, badLaunching.vaRead 1 0 0x30000 256 = .bytes b v ∧ recordReserved b = true ∧
    v = badLaunching := by
  obtain ⟨b, v, hb, h⟩ := reads_of (r := badLaunching.vaRead 1 0 0x30000 256) (P := fun b v => recordReserved b && decide (v = badLaunching))
    (by decide +kernel)
  simp only [Bool.and_eq_true, decide_eq_true_eq] at h
  exact ⟨b, v, hb, h.1, h.2⟩
theorem hyp_CommandsRunAndRetire_badServed : Served badLaunching 1 ∧ OneCmd badLaunching 1 0 0 1 (cmd0 1 0 0 0) ∧
    badLaunching.wholeStop 1 = false ∧ (badLaunching.func 1).flr = false := by unfold Served OneCmd; decide +kernel
/-- A record of one team of one group of eight registers. -/
def record : List Host.Cell := [(0x3000A, 1), (0x3000B, 1), (0x3000C, 1), (0x30010, 1), (0x30014, 1), (0x30044, 8), (0x30045, 1)]
def launching : State := queued record [cmd0 1 0 0 0] 1
theorem hyp_CommandsRunAndRetire_launch : ∃ b u, launching.vaRead 1 0 0x30000 256 = .bytes b launching ∧ recordReserved b = false ∧
    (cmd0 1 0 0 0).w2.toNat % 64 = 0 ∧ (recordOf b).ok = true ∧ ({} : Usage).fits (recordOf b).need = true ∧
    launching.bindCtx 1 (recordOf b).ctx = .ok (true, u) ∧ Served u 1 ∧ OneCmd u 1 0 0 1 (cmd0 1 0 0 0) ∧ u.coresOf 1 ≠ [] ∧
    u.partitionOk 1 (recordOf b) = true := by
  obtain ⟨b, v, hb, h⟩ := reads_of (r := launching.vaRead 1 0 0x30000 256) (P := fun b v => decide (v = launching) && (!recordReserved b &&
    ((recordOf b).ok && (({} : Usage).fits (recordOf b).need && okAnd (launching.bindCtx 1 (recordOf b).ctx)
      (fun x => decide (x.1 = true ∧ ((x.2.func 1).weight ≠ 0 ∧ 1 ≤ (x.2.func 1).deficit) ∧
        ((x.2.queue 1 0).cmds = [cmd0 1 0 0 0] ∧ (cmd0 1 0 0 0).slot = 0 ∧ (cmd0 1 0 0 0).kind = 1 ∧ (cmd0 1 0 0 0).started = false) ∧
        x.2.coresOf 1 ≠ [] ∧ x.2.partitionOk 1 (recordOf b) = true)))))) (by decide +kernel)
  simp only [Bool.and_eq_true, Bool.not_eq_true', decide_eq_true_eq] at h
  obtain ⟨hv, h1, h2, h3, h4⟩ := h
  obtain ⟨⟨k, u⟩, hu, h4⟩ := ok_of h4
  obtain ⟨hk, h5, h6, h7, h8⟩ := of_decide_eq_true h4
  cases hk
  exact ⟨b, u, hv ▸ hb, h1, by decide, h2, h3, hu, h5, h6, h7, h8⟩

def launch0 : Launch :=
  { id := 1, func := 1, owner := .queue 1 0 0, lrec := { roles := [{ nreg := 8, ngrp := 1 }] }, startMs := 0, total := 1, resident := [], saved := [] }
def placing : State := { queued [] [] 0 with launches := [launch0], ms := 160 }
theorem hyp_TeamsComeAndGo_place : ∃ p c, placing.loading placing.inp.func = false ∧ placing.placeOrder placing.inp.func = [launch0] ∧ launch0.func = placing.inp.func ∧
    placing.plan launch0 = some [[(p, c)]] ∧ p.saved = none ∧ launch0.saved = [] ∧ placing.needsScrub c 1 0 = false ∧
    (placing.core c).scrub = false ∧ launch0.lrec.cbook = 0 ∧ Served placing 1 ∧ placing.groups = [] ∧ placing.teams = [] ∧
    placing.launches = [launch0] ∧ launch0.lrec.roles = [{ nreg := 8, ngrp := 1 }] ∧ (placing.func 1).probex.rights = none := by
  obtain ⟨l, hl, h⟩ := some_of (r := placing.plan launch0) (P := fun l => match l with | [[(p, _)]] => p.saved.isNone | _ => false)
    (by decide +kernel)
  obtain _ | ⟨_ | ⟨⟨p, c⟩, _ | _⟩, _ | _⟩ := l <;> try cases h
  exact ⟨p, c, by decide +kernel, by decide +kernel, rfl, hl, Option.isNone_iff_eq_none.mp h, rfl, rfl, rfl, rfl, by unfold Served; decide +kernel, rfl, rfl, rfl,
    rfl, by decide +kernel⟩
theorem hyp_TeamsComeAndGo_hold : placing.launches = [launch0] ∧ launch0.next < launch0.total ∧ placing.age ≠ 0 ∧
    (placing.func placing.inp.func).holder = none ∧ 16 * placing.age ≤ placing.ms - launch0.startMs := by decide +kernel
/-- Groups 0 and 1 of a team: all their lanes have exited, or the team is stopping. -/
def ending (two : Bool) : State :=
  let g : Group := { grp with exited := 0xFFFFFFFF }
  { st with groups := if two then [(0, g), (1, g)] else [(0, g)] }
theorem hyp_TeamsComeAndGo_end : (∀ two : Bool, (ending two).canEnd 0 0 = true ∧ ((ending two).core 0).latch.arrivals = [] ∧
      (ending two).right 1 0 rTRACE = false) ∧
    (1, (ending true).group 0 1) ∈ (ending true).groups ∧ ((ending true).group 0 1).live = true ∧
    (∀ e ∈ (ending false).groups, e.1 / 64 = 0 → e.2.live = true → e.1 % 64 = 0) ∧ (ending false).launches = [] ∧
    ((ending false).core 0).toScrub = false ∧ ((ending false).core 0).shut.length = 32 := by decide +kernel
theorem hyp_TeamsComeAndGo_scrub : ((withC { core0 with scrub := true }).core 0).scrub = true ∧
    (withC { core0 with scrub := true }).evicting 0 = false := by decide +kernel
def stopping (b : Bool) : State := { withC { core0 with stop := true } with teams := [(0, { team with stopping := b })] }
theorem hyp_TeamsComeAndGo_stop : (stopping true).cores = [(0, { core0 with stop := true })] ∧
    (stopping false).teamsOf (fun c' x => c' == 0 && x.stopping) = [] ∧ (stopping true).stopSet 0 = [(0, 0)] ∧
    ((stopping true).team 0 0).stopping = true ∧ (stopping true).teamQuiet 0 0 = true ∧
    (stopping true).teamsOf (fun c' x => c' == 0 && x.stopping) = [(0, 0)] := ⟨rfl, by decide +kernel⟩

/-- A table of one node of kind 2, at the start of page 3. -/
def graph0 (todo : List GAct) : Graph := { id := 1, func := 1, q := 0, slot := 0, addr := 0x30000, ctx := 0, n := 1, todo }
def graphState (cells : List Host.Cell) (g : Graph) : State :=
  { queued ((0x30000, 2) :: cells) [{ cmd0 2 0 1 0 with started := true }] 1 with
    graphs := [g], inp := { func := 1, run := 1 } }
def gotAnd {α : Type} (r : TableRead α) (P : α → State → Bool) : Bool := match r with | .got x u => P x u | _ => false
theorem got_of {α : Type} {r : TableRead α} {P : α → State → Bool} (h : gotAnd r P = true) : ∃ x u, r = .got x u ∧ P x u = true := by
  cases r <;> simp_all [gotAnd]
def starting1 (n : W64) : State := queued [(0x30000, 2)] [cmd0 2 0 n 0] 1
theorem hyp_GraphsRun_none : OneCmd (starting1 0) 1 0 0 2 (cmd0 2 0 0 0) ∧ Served (starting1 0) 1 ∧ (starting1 0).wholeStop 1 = false ∧
    (cmd0 2 0 0 0).w3.toNat % 65536 = 0 := by unfold OneCmd Served; decide +kernel
theorem hyp_GraphsRun_start : OneCmd (starting1 1) 1 0 0 2 (cmd0 2 0 1 0) ∧ (starting1 1).wholeStop 1 = false ∧
    (cmd0 2 0 1 0).w3.toNat % 65536 = 1 ∧ (cmd0 2 0 1 0).w2.toNat % 64 = 0 ∧
    ∃ x y u w, (starting1 1).graphNode { graph0 [] with id := (starting1 1).nextLaunch } 0 = .got (x, y) u ∧ tableBad [x] = none ∧
      u = starting1 1 ∧ Served u 1 ∧ OneCmd u 1 0 0 2 (cmd0 2 0 1 0) ∧ CmdStarted u w 1 0 (cmd0 2 0 1 0) := by
  obtain ⟨⟨x, y⟩, u, h, hx⟩ := got_of (r := (starting1 1).graphNode { graph0 [] with id := (starting1 1).nextLaunch } 0)
    (P := fun z u => tableBad [z.1] == none && decide (u = starting1 1)) (by decide +kernel)
  simp only [Bool.and_eq_true, decide_eq_true_eq, beq_iff_eq] at hx
  refine ⟨by unfold OneCmd; decide +kernel, by decide +kernel, by decide, by decide, x, y, u, _, h, hx.1, hx.2, ?_, ?_, rfl⟩ <;> rw [hx.2]
  · unfold Served; decide +kernel
  · unfold OneCmd; decide +kernel
def nodeState (a : GAct) : State := graphState [(0x30038, 1)] (graph0 [a])
theorem hyp_GraphsRun_node : ∀ a ∈ [GAct.retire 0 2, .arrive 0 true, .start 0],
    ((nodeState a).graphs = [graph0 [a]] ∧ (graph0 [a]).id = (nodeState a).inp.run ∧ (graph0 [a]).todo = [a] ∧ (nodeState a).launches = [] ∧
      (nodeState a).owed = [] ∧ (nodeState a).wholeStop 1 = false ∧ (graph0 [a]).failed = []) ∧
    ∃ x y u, (nodeState a).graphNode (graph0 [a]) 0 = .got (x, y) u ∧ y.retired = false ∧ y.cnt ≠ 0 ∧ x.kind = 2 := by
  have h : ∀ a ∈ [GAct.retire 0 2, .arrive 0 true, .start 0], gotAnd ((nodeState a).graphNode (graph0 [a]) 0)
      (fun z _ => !z.2.retired && z.2.cnt != 0 && z.1.kind == 2) = true := by decide +kernel
  have h2 : ∀ a ∈ [GAct.retire 0 2, .arrive 0 true, .start 0], (nodeState a).graphs = [graph0 [a]] ∧ (graph0 [a]).id = (nodeState a).inp.run ∧
      (graph0 [a]).todo = [a] ∧ (nodeState a).launches = [] ∧ (nodeState a).owed = [] ∧ (nodeState a).wholeStop 1 = false ∧
      (graph0 [a]).failed = [] := by decide +kernel
  intro a ha
  refine ⟨h2 a ha, ?_⟩
  obtain ⟨⟨x, y⟩, u, h, hx⟩ := got_of (r := (nodeState a).graphNode (graph0 [a]) 0) (P := fun (z : GNode × GState) _ => !z.2.retired && z.2.cnt != 0 && z.1.kind == 2) (h a ha)
  simp only [Bool.and_eq_true, Bool.not_eq_true', bne_iff_ne, beq_iff_eq] at hx
  exact ⟨x, y, u, h, hx.1.1, hx.1.2, hx.2⟩
def overState : State := graphState [(0x3003E, 2)] (graph0 [])
theorem hyp_GraphsRun_over : (overState.graphs = [graph0 []] ∧ (graph0 []).id = overState.inp.run ∧ overState.launches = [] ∧ overState.owed = [] ∧
      overState.wholeStop 1 = false ∧ overState.cores = [] ∧ overState.l2 = [] ∧ overState.streams = [] ∧
      (overState.queue 1 0).cmds = [{ cmd0 2 0 1 0 with started := true }]) ∧
    ∃ l, overState.graphNodes (graph0 []) (graph0 []).n = .got l overState ∧ ∀ e ∈ l, e.2.retired = true := by
  refine ⟨by decide +kernel, ?_⟩
  obtain ⟨l, u, h, hx⟩ := got_of (r := overState.graphNodes (graph0 []) (graph0 []).n)
    (P := fun l u => l.all (fun e => e.2.retired) && decide (u = overState)) (by decide +kernel)
  simp only [Bool.and_eq_true, decide_eq_true_eq] at hx
  exact ⟨l, hx.2 ▸ h, by simpa using hx.1⟩

/-! ### Translation, partitions, migrations, Probex and outstanding work -/

/-- A group of function 1 whose next word waits for a page: page 3, and one that stage 1 does not map. -/
def missing (va : Nat) : State :=
  { dev { func := 1 } with
    groups := [(0, { grp with miss := [(va, 0)] })], teams := [(0, team)], cores := [(0, core0)]
    walks := [(0, [{ func := 1, ctx := 0, page := va / 65536, access := 0 }])] }
theorem hyp_FaultsAndErrorsEnd_walk (va : Nat) (h : va = 0x30000 ∨ va = 0x40000000) : coreDie 0 = (missing va).inp.die ∧
    (missing va).inp.k = 0 ∧ (missing va).groups = [(0 * 64 + 0, { grp with miss := [(va, 0)] })] ∧ grp.live = true ∧ grp.park = none ∧
    tget [] (missing va).walks (missing va).inp.die = [{ func := 1, ctx := 0, page := va / 65536, access := 0 }] ∧
    ((missing va).team 0 0).func = 1 ∧ ((missing va).team 0 0).ctx = 0 ∧ va < 2 ^ 64 := by
  rcases h with rfl | rfl <;> exact ⟨rfl, rfl, rfl, rfl, rfl, rfl, rfl, rfl, by decide⟩
theorem hyp_FaultsAndErrorsEnd_entry : ∃ e, ((missing 0x30000).translate 0 1 0 (BitVec.ofNat 64 (3 * 65536)) 0).1 = .ok e ∧ e.windowed 0 = false := by
  obtain ⟨e, he, h⟩ := ok_of (r := ((missing 0x30000).translate 0 1 0 (BitVec.ofNat 64 (3 * 65536)) 0).1) (P := fun e => !e.windowed 0) (by decide +kernel)
  exact ⟨e, he, by simpa using h⟩
def faultAnd (r : Except XlStop TlbEntry) (P : XlFault → Bool) : Bool := match r with | .error (.fault x) => P x | _ => false
theorem fault_of {r : Except XlStop TlbEntry} {P : XlFault → Bool} (h : faultAnd r P = true) : ∃ x, r = .error (.fault x) ∧ P x = true := by
  unfold faultAnd at h; split at h
  · exact ⟨_, rfl, h⟩
  · cases h
theorem hyp_FaultsAndErrorsEnd_fault : ∃ x, ((missing 0x40000000).translate 0 1 0 (BitVec.ofNat 64 (0x4000 * 65536)) 0).1 = .error (.fault x) ∧
    x.stage2 = false ∧ x.level ≠ 0 := by
  obtain ⟨x, hx, h⟩ := fault_of (r := ((missing 0x40000000).translate 0 1 0 (BitVec.ofNat 64 (0x4000 * 65536)) 0).1)
    (P := fun x => !x.stage2 && x.level != 0) (by decide +kernel)
  simp only [Bool.and_eq_true, Bool.not_eq_true', bne_iff_ne] at h
  exact ⟨x, hx, h.1, h.2⟩
def flt0 (stage2 : Bool) (va : W64) : XlFault := { stage2, level := 2, kind := 1, va, gpa := 0, access := 0 }
def park0 (va : W64) : Park := { flt := flt0 false va, active := true, recs := [] }
/-- A parked group of a context whose word 2 sets a limit, on an address that does not translate and on one that does by now. -/
def parkState (va : W64) : State :=
  { dev {} with mem := (0, 1) :: (2, 1) :: (16, 5) :: tables.drop 2
                groups := [(0, { grp with park := some (park0 va) })], teams := [(0, team)], cores := [(0, core0)] }
theorem hyp_FaultsAndErrorsEnd_parked (va : W64) (h : va = 0x40000000 ∨ va = 0x30000) :
    ((parkState va).group (parkState va).inp.core (parkState va).inp.gs).park = some (park0 va) ∧
    (parkState va).inp.target = .group 0 0 ∧ (park0 va).flt.stage2 = false ∧
    (parkState va).hasLimit ((parkState va).team 0 0).func ((parkState va).team 0 0).ctx = true := by
  rcases h with rfl | rfl <;> exact ⟨rfl, rfl, rfl, by decide +kernel⟩
theorem hyp_FaultsAndErrorsEnd_expired : (∃ x, ((parkState 0x40000000).translate (coreDie 0) 1 0 0x40000000 0).1 = .error (.fault x)) ∧
    ∃ e, ((parkState 0x30000).translate (coreDie 0) 1 0 0x30000 0).1 = .ok e := by
  obtain ⟨x, hx, -⟩ := fault_of (r := ((parkState 0x40000000).translate (coreDie 0) 1 0 0x40000000 0).1) (P := fun _ => true) (by decide +kernel)
  obtain ⟨e, he, -⟩ := ok_of (r := ((parkState 0x30000).translate (coreDie 0) 1 0 0x30000 0).1) (P := fun _ => true) (by decide +kernel)
  exact ⟨⟨x, hx⟩, e, he⟩
def launch1 : Launch := { launch0 with id := 0, next := 1, resident := [(0, 0)] }
theorem hyp_FaultsAndErrorsEnd_refuse :
    let s := { parkState 0x40000000 with haspFaults := [(.group 0 0, flt0 true 0x40000000)], launches := [launch1] }
    s.inp.target = .group 0 0 ∧ s.haspFaults = [(.group 0 0, flt0 true 0x40000000)] ∧ (flt0 true 0x40000000).ofRing = false ∧ s.launches = [launch1] ∧
    (s.team 0 (s.group 0 0).team).launch = launch1.id ∧ launch1.resident ≠ [] := ⟨rfl, rfl, by decide, rfl, rfl, by decide⟩
theorem hyp_FaultsAndErrorsEnd_inv : (let s := dev { who := .hasp, v := 0xA0000000 }
     s.inp.who = .hasp ∧ s.inv.busy = false ∧ s.inp.v.getLsbD 31 = true ∧ s.inp.v.getLsbD 30 = false ∧ s.inp.v.extractLsb' 28 2 = 2) ∧
    (dev { who := .pf0 }).inp.who ≠ .hasp ∧
    (let s := { dev {} with inv := { busy := true, scope := 2 } }
     s.inv.busy = true ∧ s.inv.users = [] ∧ s.inv.engines = [] ∧ s.inv.locs = [] ∧ s.inv.scope = 2 ∧ s.owed = [] ∧
     ∀ e ∈ s.cores, e.2.tq = []) ∧
    let s := { withG { grp with acc := [oldAcc .load] } with inv := { busy := true, users := [(0, 0)] } }
    s.inv.busy = true ∧ ∃ u ∈ s.inv.users, ∃ a ∈ (tget ({} : Group) s.groups u.1).acc, a.id = u.2 := by decide +kernel
/-- A tier move: opened, its invalidation done, and its copy done; and a step before its time. -/
def tierState (stage : TierStage) (ts : List TierOpen) (e : Nat) : State :=
  { dev { func := 1, page := 3, stage } with tiers := ts, funcs := [(1, { fn1 with place := [(3, BitVec.ofNat 64 (e * 2 ^ 60 + 0x30000))] })] }
def tier0 (inv : Bool) (copied : Option Nat) : TierOpen := { func := 1, page := 3, inv, copied }
theorem hyp_FaultsAndErrorsEnd_tier : (∀ tr : Bool, let s := tierState (.open_ tr) [] 8
     plV (tget 0 (s.func s.inp.func).place s.inp.page) = true ∧ s.inp.stage = .open_ tr ∧ s.tierOf 1 s.inp.page = none ∧ s.mig.dir = 0) ∧
    (∀ inv : Bool, let s := tierState (.copy false 0x60000) [tier0 inv none] 10
     s.inp.stage = .copy false 0x60000 ∧ s.tierOf 1 s.inp.page = some (tier0 inv none) ∧ (tier0 inv none).inv = inv ∧
     (tier0 inv none).copied = none ∧ plPool (tget 0 (s.func s.inp.func).place s.inp.page) = false) ∧
    (∀ c ∈ [none, some 0x60000], let s := tierState (.finish true 0x60000) [tier0 true c] 10
     s.inp.stage = .finish true 0x60000 ∧ s.tierOf 1 s.inp.page = some (tier0 true c) ∧ (tier0 true c).copied = c ∧
     (tier0 true c).written = false ∧ s.streams = [] ∧ 0x60000 % 65536 = 0) := by
  decide +kernel
/-- A page that no bitmap region holds, whichever regions they are. -/
theorem hyp_FaultsAndErrorsEnd_reserved : ∃ loc, (tierState (.copy false loc) [tier0 true none] 10).inp.stage = .copy false loc ∧
    (tierState (.copy false loc) [tier0 true none] 10).reservedPage (loc / 65536) = false := by
  obtain ⟨b, hb⟩ : ∃ b, ∀ k < 16, ∀ i < 8, Config.bitmapBlock k i < b := by
    refine ⟨(List.range 16).foldr (fun k n => (List.range 8).foldr (fun i n => max n (Config.bitmapBlock k i + 1)) n) 0, ?_⟩
    have h1 : ∀ (g : Nat → Nat) (l : List Nat) (n : Nat), n ≤ l.foldr (fun i n => max n (g i + 1)) n := by
      intro g l n; induction l with
      | nil => exact Nat.le_refl _
      | cons x l ih => simp only [List.foldr_cons]; omega
    have h2 : ∀ (g : Nat → Nat) (l : List Nat) (n i : Nat), i ∈ l → g i < l.foldr (fun i n => max n (g i + 1)) n := by
      intro g l n i hi; induction l with
      | nil => cases hi
      | cons x l ih =>
        simp only [List.foldr_cons]
        rcases List.mem_cons.mp hi with rfl | h
        · omega
        · have := ih h; omega
    have h3 : ∀ (l : List Nat) (n k i : Nat), k ∈ l → i ∈ List.range 8 →
        Config.bitmapBlock k i < l.foldr (fun k n => (List.range 8).foldr (fun i n => max n (Config.bitmapBlock k i + 1)) n) n := by
      intro l n k i hk hi; induction l with
      | nil => cases hk
      | cons x l ih =>
        simp only [List.foldr_cons]
        rcases List.mem_cons.mp hk with rfl | h
        · exact h2 _ _ _ _ hi
        · exact Nat.lt_of_lt_of_le (ih h) (h1 _ _ _)
    intro k hk i hi
    exact h3 _ _ _ _ (List.mem_range.mpr hk) (List.mem_range.mpr hi)
  refine ⟨b * 2 ^ 18, rfl, ?_⟩
  have e : b * 2 ^ 18 / 65536 * 65536 / 2 ^ 18 = b := by omega
  have c : (tierState (.copy false (b * 2 ^ 18)) [tier0 true none] 10).boot.carve = (0, 0) := (show State.reset.boot.carve = (0, 0) by decide +kernel)
  rw [State.reservedPage, c]
  have h : inBitmap (b * 2 ^ 18 / 65536 * 65536) = false := by
    by_contra h
    simp only [Bool.not_eq_false, inBitmap, upto, List.any_eq_true, List.mem_range, beq_iff_eq, e] at h
    obtain ⟨k, hk, i, hi, h⟩ := h
    have := hb k hk i hi
    omega
  rw [h]; simp
def lostState (dirty : BitVec 32) : State :=
  { withC { core0 with l1 := [(0x1800, some { func := 1, dirty, priv := true })] } with inp := { page := 0x1800, site := { src := 2 } } }
theorem hyp_FaultsAndErrorsEnd_scrub : let s := dev { bad := [2 ^ 35 - 1] }
    s.inp.bad = [2 ^ 35 - 1] ∧ 2 ^ 35 - 1 < 2 ^ 35 ∧ s.poison.contains (2 ^ 35 - 1) = false ∧ s.mecLogB.getLsbD 31 = false :=
  ⟨rfl, by decide, rfl, by decide⟩
theorem hyp_FaultsAndErrorsEnd_lost (d : BitVec 32) : (lostState d).inp.site.src = 2 ∧
    (lostState d).l1Get (lostState d).inp.site.core (lostState d).inp.page = some { func := 1, dirty := d, priv := true } ∧
    (lostState d).mecLogB.getLsbD 31 = false ∧ ({ func := 1, dirty := d, priv := true } : Sector).own = 0 :=
  ⟨rfl, rfl, show (0 : W32).getLsbD 31 = false by decide, rfl⟩

/-- A mailbox request for function 1 with its words from the first on. -/
def mailOf (code func : Nat) (w0 : Nat) (ws : List Nat) : MailReq :=
  BitVec.ofNat 1024 (code + func * 2 ^ 8 + w0 * 2 ^ 32 + (ws.foldr (fun w n => w + n * 2 ^ 64) 0) * 2 ^ 64)
def asking (code : Nat) (w0 : Nat) (ws : List Nat) : State := dev { mail := mailOf code 1 w0 ws }
theorem hyp_Asked : ∀ code ∈ [0, 0x10, 0x11, 0x20, 0x21, 0x22, 0x23, 0x28, 0x29, 0x30, 0x31, 0x32, 0x33, 0x34], let s := asking code 1 [2 ^ 31]
    Asked s code ∧ askedFor s = 1 ∧ Settled s 1 ∧ s.migrating 1 = false := by unfold Asked Settled; decide +kernel
/-- PART_SET: granted at once, with a bad rectangle, while the function is reset or moves, and of PF0. -/
theorem hyp_PartitionsAndResets_part : let s := asking 0x10 1 [2 ^ 31]
    s.rectRefusal 1 s.inp.mail = none ∧ ¬mailQuota s.inp.mail < (s.func 1).quota ∧
    s.displaced 1 ((rectWords s.inp.mail).map rectOf) = [] ∧ s.launches = [] ∧
    (asking 0x10 1 [2 ^ 31 + 15]).rectRefusal 1 (asking 0x10 1 [2 ^ 31 + 15]).inp.mail ≠ none := by decide +kernel
theorem hyp_PartitionsAndResets_busy : ∀ code ∈ [0x10, 0x11],
    (let s := { asking code 1 [2 ^ 31] with funcs := [(1, { fn1 with flr := true })] }
     Asked s code ∧ askedFor s = 1 ∧ (s.func 1).vfOn = true ∧ (s.func 1).part = true ∧ (s.func 1).flr = true) ∧
    (let s := { asking code 1 [2 ^ 31] with mig := { dir := 1, func := 1 } }
     Asked s code ∧ askedFor s = 1 ∧ (s.func 1).vfOn = true ∧ (s.func 1).part = true ∧ s.migrating 1 = true) ∧
    let s := dev { mail := mailOf code 0 1 [2 ^ 31] }
    Asked s code ∧ askedFor s = 0 := by unfold Asked; decide +kernel
/-- A smaller quota: with a stage-2 table that names what it takes, and with none. -/
theorem hyp_PartitionsAndResets_named : let s := asking 0x10 0 [2 ^ 31]
    Asked s 0x10 ∧ askedFor s = 1 ∧ Settled s 1 ∧ s.migrating 1 = false ∧ s.rectRefusal 1 s.inp.mail = none ∧
    mailQuota s.inp.mail < (s.func 1).quota ∧
    s.s2Above 1 (s.func 1).vdn.toNat (mailQuota s.inp.mail * 2 ^ 29) [1, 2, 3] (s.func 1).s2root = true := by
  unfold Asked Settled; decide +kernel
theorem s2Above_none (s : State) (f vdn limit tbl : Nat) (ls : List Nat) (hm : s.mem = []) (hn : s.nwc = []) :
    s.s2Above f vdn limit ls tbl = false := by
  have hb : ∀ n a, leNat (bytesAt [] a n) = 0 := by
    intro n; induction n with
    | zero => intro a; rfl
    | succ n ih => intro a; simp [bytesAt, leNat, ih, byteAt, tget]
  have hd : ∀ d pa, s.desc d f pa = 0 := by intro d pa; simp [State.desc, hn, tget, State.homeNum, numAt, hm, hb]
  cases ls with
  | nil => rfl
  | cons l r => simp [State.s2Above, hd, bitOf]
theorem hyp_PartitionsAndResets_less : let s := { asking 0x10 0 [2 ^ 31] with mem := [] }
    Asked s 0x10 ∧ askedFor s = 1 ∧ Settled s 1 ∧ s.migrating 1 = false ∧ s.rectRefusal 1 s.inp.mail = none ∧
    mailQuota s.inp.mail < (s.func 1).quota ∧ s.displaced 1 ((rectWords s.inp.mail).map rectOf) = [] ∧
    s.usesAbove 1 (mailQuota s.inp.mail) = false := by unfold Asked Settled; decide +kernel
theorem hyp_PartitionsAndResets_waits : let s := { asking 0x10 1 [2 ^ 31 + 2 ^ 24] with teams := [(0, team)] }
    s.teams = [(0, team)] ∧ team.live = true ∧ team.term = false ∧ Settled s 1 ∧ s.rectRefusal 1 s.inp.mail = none ∧
    s.displaced 1 ((rectWords s.inp.mail).map rectOf) = [(0 / 8, 0 % 8)] ∧ ¬mailQuota s.inp.mail < (s.func 1).quota := by
  unfold Settled; decide +kernel
/-- PART_CLEAR with the function's cores empty, and with a team on them. -/
theorem hyp_PartitionsAndResets_clear : ∀ ts ∈ [[], [(0, team)]], let s := { asking 0x11 1 [] with teams := ts }
    Asked s 0x11 ∧ askedFor s = 1 ∧ (s.func 1).vfOn = true ∧ (s.func 1).part = true ∧ (s.func 1).flr = false ∧ s.migrating 1 = false ∧
    (s.teamsOf (fun _ x => x.func == 1) = [] ↔ ts = []) ∧ s.usesAbove 1 0 = false ∧ s.launches = [] ∧
    ∀ e ∈ (s.func 1).place, plPool e.2 = false := by unfold Asked; decide +kernel
theorem hyp_PartitionsAndResets_none : (let s := { dev { mail := mailOf 0x11 1 0 [] } with funcs := [(1, { fn1 with part := false })] }
     Asked s 0x11 ∧ askedFor s = 1 ∧ (s.func 1).part = false) ∧ let s := { dev { mail := mailOf 0x11 0 0 [] } with mail := { done := true } }
    s.mail.busy = false ∧ s.mail.done = true := by unfold Asked; decide +kernel
/-- A capability of kind 3 over 16 bytes at 0x100 with every permission: used inside it, past its end, and to store a copy of
eight bytes of it. -/
def capAt (addr : Nat) : CapAccess :=
  { cap := BitVec.ofNat 128 (0x100 * 2 ^ 64 + 16 * 2 ^ 24 + 3 * 2 ^ 20 + 15 * 2 ^ 16), tagSet := true, addr, size := 8, kind := 3, perm := 1 }
def capCopy : BitVec 128 := BitVec.ofNat 128 (0x100 * 2 ^ 64 + 8 * 2 ^ 24 + 3 * 2 ^ 20 + 2 ^ 16)
def capStore : CapAccess := { capAt 0x100 with size := 16, perm := 4, derive := some capCopy }
theorem hyp_PartitionsAndResets_cap : ∀ a ∈ [capAt 0x108, capAt 0x109, capStore], let s := dev { acc := a }
    let c := a.cap.toNat
    s.capOf a = (c, true) ∧ c / 2 ^ 6 % 2 ^ 10 = 0 ∧ c / 2 ^ 20 % 16 < 4 ∧ c / 2 ^ 20 % 16 = a.kind.toNat ∧
    (c / 2 ^ 16 % 16) &&& a.perm.toNat = a.perm.toNat ∧ c / 2 ^ 64 ≤ a.addr ∧
    (a.addr + a.size ≤ c / 2 ^ 64 + c / 2 ^ 24 % 2 ^ 40 ↔ a ≠ capAt 0x109) ∧ c / 2 ^ 20 % 16 ≠ 1 ∧ c % 64 = a.owner.toNat ∧
    (a.derive = none ↔ a ≠ capStore) := by decide +kernel
theorem hyp_PartitionsAndResets_derive : let c := capStore.cap.toNat
    let d := capCopy
    capStore.derive = some d ∧ d.toNat / 2 ^ 6 % 2 ^ 10 = 0 ∧ c / 2 ^ 16 % 16 % 2 = 1 ∧ c / 2 ^ 64 ≤ d.toNat / 2 ^ 64 ∧
    d.toNat / 2 ^ 64 + d.toNat / 2 ^ 24 % 2 ^ 40 ≤ c / 2 ^ 64 + c / 2 ^ 24 % 2 ^ 40 ∧
    d.toNat / 2 ^ 16 % 16 &&& (c / 2 ^ 16 % 16) = d.toNat / 2 ^ 16 % 16 ∧ d.toNat / 2 ^ 20 % 16 = c / 2 ^ 20 % 16 ∧ d.toNat % 64 = c % 64 ∧
    capStore.addr % 16 = 0 ∧ capStore.size = 16 ∧ capStore.perm.getLsbD 2 = true := by decide +kernel
/-- A core in fault serves two queues and works on no command, on one that is over, on a launch's and on one not started. -/
theorem hyp_PartitionsAndResets_capFault : (let s := { dev { acc := capAt 0x109, fw := 1 } with serving := [(1, 1, 0), (1, 1, 2)] }
     s.inp.cmd = none ∧ 1 ≤ s.inp.fw ∧ s.inp.fw ≤ 7 ∧ (s.inp.fw, 1, 0) ∈ s.serving) ∧
    (let s := dev { acc := capAt 0x109, cmd := some (1, 0, 0), fw := 1 }
     s.inp.cmd = some (1, 0, 0) ∧ (s.endCmd 1 0 0 sCAPFAULT).isNone = true) ∧
    (let s := { dev { acc := capAt 0x109, cmd := some (1, 0, 0), fw := 1 } with launches := [launch1] }
     s.inp.cmd = some (1, 0, 0) ∧ s.launches = [launch1] ∧ launch1.owner = .queue 1 0 0 ∧ launch1.resident ≠ []) ∧
    (let s := { queued [] [cmd0 1 0 0 0] 1 with inp := { acc := capAt 0x109, cmd := some (1, 0, 0), fw := 1 } }
     s.inp.cmd = some (1, 0, 0) ∧ s.launches = [] ∧ s.graphs = [] ∧ (s.queue 1 0).cmds = [cmd0 1 0 0 0] ∧ (cmd0 1 0 0 0).slot = 0 ∧
     (cmd0 1 0 0 0).caddr = 0 ∧ (cmd0 1 0 0 0).irq = false) ∧
    (dev { acc := capAt 0x109 }).inp.fw = 0 := by decide +kernel
theorem hyp_PartitionsAndResets_flr : (let s := dev { func := 1 }
     (s.func 1).flr = false ∧ (s.func 1).vfOn = true ∧ s.mig.inFunc ≠ some 1 ∧ ¬(s.mig.func = 1 ∧ (s.mig.dir = 1 ∨ s.mig.dir = 3) ∧ s.mig.phase < 8)) ∧
    (let s := { dev { func := 1 } with mig := { inFunc := some 1 } }
     s.mig.inFunc = some 1 ∧ (s.func 1).flr = false) ∧
    (∀ d ∈ [1, 3], ∀ p ∈ [2, 3, 7], let s := { dev { func := 1 } with mig := { dir := d, func := 1, phase := p } }
     s.mig.inFunc ≠ some 1 ∧ s.mig.dir = d ∧ s.mig.func = 1 ∧ s.mig.phase = p ∧ s.mig.switched = false ∧ (s.func 1).flr = false) ∧
    (let s := { dev { func := 1 } with funcs := [(1, { fn1 with flr := true })] }
     (s.func 1).flr = true ∧ s.teamsOf (fun _ y => y.func == 1) = [] ∧ s.streams = [] ∧ s.heldIds = []) ∧
    let s := { dev { func := 1 } with funcs := [(1, { fn1 with flr := true })], teams := [(0, team)] }
    (s.func 1).flr = true ∧ s.teamsOf (fun _ y => y.func == 1) ≠ [] := by decide +kernel

theorem hyp_MigrationsAndImages_out : let s := { asking 0x20 0 [9, 0, 1] with vdnTab := [(9, 1 <<< 63)] }
    Asked s 0x20 ∧ askedFor s = 1 ∧ Settled s 1 ∧ (s.func 1).dirtyUse = 0 ∧ vtValid (tget 0 s.vdnTab (mailWord s.inp.mail 1 % 65536)) = true ∧
    mailWord s.inp.mail 3 % 2 ^ 18 ≠ 0 := by unfold Asked Settled; decide +kernel
theorem hyp_MigrationsAndImages_refused : (let s := { asking 0x20 0 [] with mig := { dir := 3 } }
     Asked s 0x20 ∧ askedFor s = 1 ∧ (s.func 1).vfOn = true ∧ (s.func 1).part = true ∧ s.mig.dir = 3) ∧
    (let s := dev { mail := mailOf 0x20 0 0 [] }
     Asked s 0x20 ∧ askedFor s = 0 ∧ s.mig.dir ≠ 1) ∧
    let s := asking 0x21 0 []
    Asked s 0x21 ∧ ¬(s.mig.dir = 1 ∧ s.mig.func = askedFor s ∧ s.mig.phase = 1) := by unfold Asked; decide +kernel
def migrating (dir phase : Nat) (pass : Nat) : State :=
  { dev { func := 1, mail := mailOf 0x21 1 0 [] } with
    mig := { dir, func := 1, phase, pass }, funcs := [(1, { fn1 with place := [(3, 0x8000000000030000)] })] }
theorem hyp_MigrationsAndImages_phase : ∀ dir ∈ [1, 3], ∀ p ∈ [0, 1, 2, 3, 4, 5, 6, 7], ∀ n ∈ [0, 1], let s := migrating dir p n
    s.mig.dir = dir ∧ s.mig.func = s.inp.func ∧ s.mig.phase = p ∧ s.mig.switched = false ∧ s.mig.err = false ∧ s.mig.flrHeld = false ∧
    (s.func 1).place = [(3, 0x8000000000030000)] ∧ s.mig.pass = n ∧ s.dirty = [] ∧ s.streams = [] ∧ s.cores = [] ∧ s.l2 = [] ∧
    s.owed = [] ∧ s.heldIds = [] ∧ s.streaming = false ∧ (s.func 1).dirtyUse = 0 ∧ s.teamsOf (fun _ y => y.func == 1) = [] ∧
    s.mig.inFunc ≠ some 1 ∧ s.toLoad 1 = [] ∧ ∀ x ∈ s.tiers, x.func ≠ 1 := by decide +kernel
theorem hyp_MigrationsAndImages_page : plV 0x8000000000030000 = true ∧ plPool 0x8000000000030000 = false := by decide +kernel
/-- STOPBLK reached and MIG_STOPNOW; the destination's answer, with a tier move open and without; the switch under way; a stream
still to drain; teams that have not stopped. -/
theorem hyp_MigrationsAndImages_cases : 16 ≤ ({ stopblk := 16 } : Mig).stopblk ∧ ({ stopnow := true } : Mig).stopnow = true ∧
    ({} : Mig).stopblk < 16 ∧ ({} : Mig).stopnow = false ∧ ({ maxpass := 1 } : Mig).maxpass = 1 ∧
    (∀ z : Bool, let s := { migrating 1 2 0 with inp := { func := 1, answer := some z }, tiers := [tier0 false none] }
     s.mig.phase = 2 ∧ s.mig.err = false ∧ s.mig.flrHeld = false ∧ s.inp.answer = some z ∧ ∃ x ∈ s.tiers, x.func = 1) ∧
    (∀ p ∈ [1, 6], let s := { migrating 1 p 0 with mig := { dir := 1, func := 1, phase := p, switched := true } }
     s.mig.dir = 1 ∧ s.mig.func = s.inp.func ∧ s.mig.phase = p ∧ s.mig.switched = true ∧ s.mig.flrHeld = false) ∧
    (let s := { migrating 1 4 0 with streams := [stream0 true none (.stream 0)] }
     s.streaming = true ∧ s.mig.phase = 4 ∧ s.mig.dir = 1) ∧
    let s := { migrating 1 3 0 with teams := [(0, team)] }
    s.teamsOf (fun _ y => y.func == 1) ≠ [] ∧ s.mig.phase = 3 := by decide +kernel
theorem hyp_MigrationsAndImages_asked : Asked (migrating 1 1 0) 0x21 ∧ askedFor (migrating 1 1 0) = 1 ∧
    (let s := { migrating 1 5 0 with inp := { mail := mailOf 0x22 1 0 [] } }
     Asked s 0x22 ∧ askedFor s = 1 ∧ s.mig.dir = 1 ∧ s.mig.func = 1 ∧ s.mig.phase ≤ 5 ∧ s.mig.switched = false ∧ s.mig.flrHeld = false) ∧
    Asked (asking 0x22 0 []) 0x22 ∧ (asking 0x22 0 []).mig.dir ≠ 1 := by unfold Asked; decide +kernel
theorem hyp_MigrationsAndImages_in : (∀ w ∈ [2 ^ 31, 2 ^ 31 + 15], let s := { asking 0x23 1 [w] with funcs := [(1, { fn1 with part := false })] }
     Asked s 0x23 ∧ askedFor s = 1 ∧ (s.func 1).vfOn = true ∧ s.mig.inFunc = none ∧ (s.func 1).part = false ∧ (s.func 1).flr = false ∧
     (s.rectRefusal 1 s.inp.mail = none ↔ w = 2 ^ 31)) ∧
    let s := asking 0x23 1 [2 ^ 31]
    Asked s 0x23 ∧ askedFor s ≠ 0 ∧ (s.func 1).vfOn = true ∧ (s.func 1).part = true := by unfold Asked; decide +kernel
theorem hyp_MigrationsAndImages_reqs : ∀ b : Bool, let s := { dev { reqs := { w := if b then 5 else 6, quota := 1 } } with mig := { inFunc := some 1 } }
    s.inp.answer = none ∧ s.mig.inFunc = some 1 ∧ s.reqsOk 1 s.inp.reqs = b := by decide +kernel
theorem hyp_MigrationsAndImages_ckpt : let s := asking 0x28 0 []
    Asked s 0x28 ∧ askedFor s = 1 ∧ Settled s 1 ∧ (s.func 1).dirtyUse = 0 := by unfold Asked Settled; decide +kernel
theorem hyp_MigrationsAndImages_restore : ∀ b : Bool,
    let s := dev { mail := mailOf 0x29 1 0 [], img := { magic := 0x4E534901, version := 1, digestOk := b, req := { w := 5 } } }
    Asked s 0x29 ∧ askedFor s = 1 ∧ Settled s 1 ∧ (s.func 1).dirtyUse = 0 ∧ mailWord s.inp.mail 1 % 65536 ≠ 0xFFFF ∧
    s.inp.img.magic = 0x4E534901 ∧ s.inp.img.version = 1 ∧ s.inp.img.digestOk = b ∧ s.inp.img.maxNest < 255 ∧
    s.reqsOk 1 s.inp.img.req = true ∧ s.inp.img.blocks = [] ∧ s.launches = [] ∧ s.teams = [] := by unfold Asked Settled; decide +kernel

/-- Function 1 with some rights for context 0, and one live group of it. -/
def probed (b : BitVec 6) (g : Group) (x : Probex) (v : W32) : State :=
  { dev { func := 1, v } with
    funcs := [(1, { fn1 with probex := { x with rights := some (0, b) }, place := [(3, 0x8000000000030000)] })]
    groups := [(0, g)], teams := [(0, team)] }
theorem hyp_ProbexServes_grant : ((asking 0x30 0 [0]).func 1).probex.rights = none ∧
    ∃ s c b, Asked s 0x30 ∧ askedFor s = 1 ∧ Settled s 1 ∧ (s.func 1).probex.rights = some (c, b) ∧ c ≠ mailWord s.inp.mail 1 % 256 :=
  ⟨by decide +kernel, { asking 0x30 0 [7] with funcs := [(1, { fn1 with probex := { rights := some (0, 0) } })] }, 0, 0, by unfold Asked; decide +kernel,
    by decide +kernel, by unfold Settled; decide +kernel, by decide +kernel, by decide +kernel⟩
def session0 (b : BitVec 6) : State :=
  { asking 0x32 0 [0] with funcs := [(1, { fn1 with probex := { rights := some (0, b) }, place := [(3, 0x8000000000030000)] })] }
theorem hyp_ProbexServes_session : ∀ b ∈ [(0 : BitVec 6), 0x3F], let s := session0 b
    Asked s 0x32 ∧ askedFor s = 1 ∧ Settled s 1 ∧ s.holds 1 rPROF = (b == 0x3F) ∧ s.idle 1 = true ∧ (s.func 1).dirtyUse = 0 ∧
    s.cores = [] ∧ s.l2 = [] ∧ (s.func 1).place = [(3, 0x8000000000030000)] ∧ (s.func 1).probex.session = none := by
  unfold Asked Settled; decide +kernel
theorem hyp_ProbexServes_groups : ∀ b ∈ [(0 : BitVec 6), 0x3F], ∀ h : Bool, let s := probed b { grp with halted := h } {} 0
    s.debugGroups s.inp.func = [(0, 0)] ∧ s.holds 1 rHALT = (b == 0x3F) ∧ (s.group 0 0).halted = h ∧ s.inp.v.toNat / 2 ^ 16 % 2 ^ 10 = 0 ∧
    s.inp.v.toNat % 2 ^ 6 = 0 ∧ (s.func 1).probex.haltCore = 0 ∧ (s.func 1).probex.haltGs = 0 ∧ b.getLsbD 2 = (b == 0x3F) ∧
    (s.debugGroups 1).contains (0, 0) = true := by decide +kernel
theorem hyp_ProbexServes_saved : ∃ (s : State) (t : SavedTeam) (x : Group), (s.func 1).probex.rights = some (0, 0x3F) ∧
    (s.debugGroups 1).contains (0, 0) = false ∧ s.savedTeams = [t] ∧ t.team.func = 1 ∧ t.team.ctx = 0 ∧ t.core = 0 ∧ t.groups = [(0, x)] ∧
    x.halted = true := by
  refine ⟨{ dev { func := 1 } with
      funcs := [(1, { fn1 with probex := { rights := some (0, 0x3F) } })]
      savedTeams := [{ id := 1, launch := 0, set := 1, team := team, crow := 0, ccol := 0, groups := [(0, { grp with halted := true })], scr := [], fifos := [],
                       latch := {}, hist := [], cbaddr := 0, acc := [], cte := [], cancels := [] }] }, _, _, ?_, ?_, rfl, rfl, rfl, rfl, rfl, rfl⟩ <;>
    decide +kernel
theorem hyp_ProbexServes_writes : ∀ b ∈ [(0 : BitVec 6), 0x3F], let s := probed b grp { session := some (0xFFFF, 0), trial := true } 0
    s.holds 1 rTRACE = (b == 0x3F) ∧ s.holds 1 rPROF = (b == 0x3F) ∧ s.inp.v = 0 ∧ s.inp.buf < 2 ∧ (s.func 1).probex.session ≠ none ∧
    (s.func 1).probex.pass = false ∧ (s.func 1).probex.trial = true ∧ b.getLsbD 4 = (b == 0x3F) ∧ s.atomWaits 1 s.inp.slice = none := by
  decide +kernel
def passing : State :=
  { probed 0x3F {} { pass := true, snap := (List.range 16).map (fun i => (48 + i, List.replicate 4096 0)) } 0 with groups := [], teams := [] }
theorem hyp_ProbexServes_pass : (passing.func 1).probex.pass = true ∧ passing.teamsOf (fun _ y => y.func == 1) = [] ∧ passing.cores = [] ∧
    passing.l2 = [] ∧ (passing.func 1).probex.openRuns = [] ∧ (passing.func 1).probex.left = [] ∧ tbEn (passing.func 1).probex 0 = false ∧
    (∀ i, i < 16 → (tget [] (passing.func 1).probex.snap (16 * 3 + i)).length = 4096) ∧
    ((probed 0x3F {} { pass := true } 0).func 1).probex.pass = true ∧ (probed 0x3F {} { pass := true } 0).teamsOf (fun _ y => y.func == 1) ≠ [] := by
  refine ⟨rfl, rfl, rfl, rfl, rfl, rfl, rfl, fun i hi => ?_, by decide +kernel, by decide +kernel⟩
  have h : ∀ i, i < 16 → tget [] (passing.func 1).probex.snap (16 * 3 + i) = List.replicate 4096 0 := by
    intro i hi
    interval_cases i <;> rfl
  rw [h i hi, List.length_replicate]
theorem hyp_ProbexServes_pass_blocks : passing.sessionBlocks 1 0 = [] ∧ passing.setFunc 1 (passing.func 1) = passing :=
  ⟨by decide +kernel, rfl⟩

/-- A group of core 0 with one access of lane 0. -/
def lanePart (loc : Loc) : LanePart := { lane := 0, va := 0, loc, data := 5 }
def laneAcc (op : AccOp) (sc : Scope) (loc : Loc) : Access := { oldAcc op with scope := sc, parts := [lanePart loc] }
def outState (a : Access) : State := withG { grp with acc := [a] }
theorem oneLane_out (op : AccOp) (sc : Scope) (loc : Loc) : OneLane (outState (laneAcc op sc loc)) 0 0 (laneAcc op sc loc) (lanePart loc) :=
  ⟨rfl, rfl, by decide, rfl, rfl, rfl, rfl, show 0 < 32 by decide, show (0xFFFFFFFF : Lanes).getLsbD 0 = true by decide⟩
theorem noneWait_out (a : Access) : NoneWait (outState a) 0 := by
  intro q _
  unfold outState withG State.group
  cases q <;> rfl
theorem hyp_WorkIsPerformed_home (a : Access) : InSector (outState a) 0 0x30000 4 ∧
    ((outState a).func ((outState a).team 0 ((outState a).group 0 0).team).func).probex.pass = false ∧ ((outState a).group 0 0).impr = [] ∧
    ((outState a).core 0).l1 = [] :=
  ⟨⟨by decide, by decide, rfl, rfl, rfl⟩, rfl, rfl, rfl⟩
theorem hyp_WorkIsPerformed_kinds : (laneAcc .load .plain (.own 3 0)).op = .load ∧ (laneAcc (.atom 0x40) .device (.own 3 0)).op = .atom 0x40 ∧
    2 ≤ (laneAcc .store .cluster (.own 3 0)).scope.code.toNat ∧ (laneAcc .store .plain (.own 3 0)).scope.code.toNat < 2 ∧
    (laneAcc .store .plain (.own 3 0)).strm ≠ 2 ∧ 3 ≤ (laneAcc (.atom 0x40) .device (.own 3 0)).scope.code.toNat ∧
    (lanePart (.err 4)).loc = .err 4 ∧ (4 : Byte) ≠ 0 := by decide +kernel
theorem hyp_WorkIsPerformed_peer : (outState (laneAcc .load .plain (.dist 0x80000000))).distBank 0 0 0x80000000 = some (0, 3) := by
  decide +kernel
/-- A SHUT that takes bank 3 for window 0, or gives it up; one behind another of its team, and one that has not begun. -/
def flip0 (giveUp busy : Bool) : Flip :=
  { team := 0, gs := 0, fifo := false, num := 0, bank := 3, giveUp, before := if busy then [(0, 0)] else [] }
def flipState (giveUp busy : Bool) : State :=
  { outState (laneAcc .load .plain (.own 3 0)) with cores := [(0, { core0 with flips := [flip0 giveUp busy] })] }
theorem hyp_WorkIsPerformed_flip : ∀ g b : Bool, ((flipState g b).core (flipState g b).inp.core).flips[(flipState g b).inp.pos]? = some (flip0 g b) ∧
    (flip0 g b).giveUp = g ∧ (flip0 g b).begun = true ∧ ((flipState g b).core 0).flips.take (flipState g b).inp.pos = [] ∧
    (g = true → (if (flip0 g b).giveUp then (flipState g b).flipBusy 0 (flip0 g b) else (flipState g b).evicting 0) = b) ∧
    (g = false → (if (flip0 g b).giveUp then (flipState g b).flipBusy 0 (flip0 g b) else (flipState g b).evicting 0) = false) ∧
    ((flipState g b).group 0 0).live = true := by decide +kernel
theorem hyp_WorkIsPerformed_flip2 :
    (let s : State := { withC { core0 with flips := [flip0 true true, flip0 false false] } with inp := { pos := 1 } }
     (s.core s.inp.core).flips[s.inp.pos]? = some (flip0 false false) ∧
     (∃ x ∈ (s.core s.inp.core).flips.take s.inp.pos, x.team = (flip0 false false).team)) ∧
    (let s : State := withC { core0 with flips := [{ flip0 false false with begun := false }] }
     (s.core s.inp.core).flips[s.inp.pos]? = some { flip0 false false with begun := false } ∧ (s.core s.inp.core).flips.take s.inp.pos = []) := by
  decide +kernel
def tile0 (busy : Bool) : TileOp := { gs := 0, tile := 5, kind := .zero [5], before := if busy then [(0, 0)] else [], mode := 0 }
def tileState (busy : Bool) : State := { outState (laneAcc .load .plain (.own 3 0)) with cores := [(0, { core0 with tq := [tile0 busy] })] }
theorem hyp_WorkIsPerformed_tile : (∀ b : Bool, ((tileState b).core (tileState b).inp.core).tq = [tile0 b] ∧ (tile0 b).kind = .zero [5]) ∧
    (∃ b ∈ (tile0 true).before, ∃ a ∈ ((tileState true).group 0 b.1).acc, a.id = b.2) ∧ (tile0 false).before = [] := by decide +kernel
/-- A copy of eight bytes from the start of window 0 to 64 bytes further. -/
def unit0 : CteDesc := { gs := 0, kind := .copy 0xFFFFFFFF00000000 0xFFFFFFFF00000040 8 1 1 0 0 0 0, latch := 0xFFFFFFFF, mode := 0 }
def cteState : State := withC { core0 with cte := [(0, some unit0)] }
theorem hyp_WorkIsPerformed_cte : cteState.inp.pos = 0 ∧ cteState.desc? 0 cteState.inp.desc = some unit0 ∧ noLatch unit0.latch = true ∧
    unit0.done = [] ∧ unit0.count = 0 ∧ (cteState.core 0).stop = false ∧ (0xFFFFFFFF00000040 : W64).toNat % 4096 + 8 ≤ 4096 ∧
    (0xFFFFFFFF00000000 : W64).toNat % 16384 + 8 ≤ 16384 ∧ globTgt 0xFFFFFFFF00000000 = .scr 0 ∧ globTgt 0xFFFFFFFF00000040 = .scr 0x40 ∧
    cteState.scratchLoc 0 0 0 = some (.own 3 0) ∧ cteState.scratchLoc 0 0 0x40 = some (.own 3 0x40) ∧
    (cteState.team 0 (cteState.group 0 unit0.gs).team).term = false := by decide +kernel
theorem hyp_WorkIsPerformed_win : let s := withG { grp with starve := 64 }
    0 ∈ s.slotReady 0 0 ∧ 64 ≤ (s.group 0 0).starve ∧ ∀ q ∈ s.slotReady 0 0, q ≠ 0 → 64 ≤ (s.group 0 q).starve → (s.group 0 0).age < (s.group 0 q).age := by
  decide +kernel
theorem hyp_WorkIsPerformed_impr : let s := withG { grp with impr := [{ cause := cRemote, info := 4, addr := 0 }] }
    CanTake s 0 0 ∧ (s.group 0 0).impr = [{ cause := cRemote, info := 4, addr := 0 }] ∧ (withG { grp with halted := true }).cg.ready = false ∧
    (s.core 0).sampleDue = false := by unfold CanTake; decide +kernel

/-! ## The machine as a whole -/

/-- The group is to issue the word at the second word of its block, NOP or zero. -/
def issuing (nop : Bool) : State :=
  { st with cur := { go := true }, mem := if nop then [(0x1000E, 0x20), (0x1000F, 0xE0)] else [] }
theorem hyp_StepRunsTheDecodedInstruction : ∀ b : Bool, let s := issuing b
    s.boot.halt ≠ .tripped ∧ s.cur.go = true ∧ s.cg.live = true ∧ s.cg.allExited = false ∧ s.cg.impr = [] ∧ s.cg.woff ≠ 0 ∧
    s.cg.woff < s.cg.blen ∧ s.cg.haltReq = false ∧ s.right s.ct.func s.ct.ctx rREAD = false ∧ s.right s.ct.func s.ct.ctx rHALT = false ∧
    s.cg.addr.toNat < 2 ^ 55 ∧ s.xlOf s.cur.core s.cur.gs s.cg.addr 3 = some (pageEnt 1) ∧
    (pageEnt 1).loc.add (s.cg.addr.toNat % 65536) = .home 0x10008 ∧ s.poison = [] ∧ s.weak = [] := by decide +kernel
theorem hyp_StepRunsTheDecodedInstruction_nop : decodeBytes (bytesAt (issuing true).mem 0x10008 8) = .ok (.nop x0, []) := by
  have h : okAnd (decodeBytes (bytesAt (issuing true).mem 0x10008 8)) (fun x => x == (.nop x0, [])) = true := by decide +kernel
  obtain ⟨x, hx, h⟩ := ok_of h
  rw [hx, eq_of_beq h]
theorem hyp_StepRunsTheDecodedInstruction_bad : ∃ x, decodeBytes (bytesAt (issuing false).mem 0x10008 8) = .error x := by
  have h : okAnd (decodeBytes (bytesAt (issuing false).mem 0x10008 8)) (fun _ => true) = false := by decide +kernel
  cases hx : decodeBytes (bytesAt (issuing false).mem 0x10008 8) with
  | ok x => rw [hx] at h; cases h
  | error x => exact ⟨x, rfl⟩
theorem hyp_StepRunsTheDecodedInstruction_turn : ∀ i ∈ [Instr.disCtimeTick, .nop x0], let s : State := { State.reset with agenda := [.event i {}] }
    s.boot.halt ≠ .tripped ∧ s.cur.go = false ∧ s.agenda = [.event i {}] := by decide +kernel
theorem hyp_StepRunsTheDecodedInstruction_tripped : let s : State := { State.reset with boot := { halt := .tripped } }
    s.boot.halt = .tripped ∧ ∀ x rest, s.agenda ≠ .event .coldStart x :: rest := ⟨rfl, fun _ _ h => nomatch h⟩
theorem hyp_EncodingAndDecodingAgree : (Instr.nop x0).isWord = true ∧ (Instr.nop x0).wf = true ∧ reads 0xE020000000000000 (.nop x0) = true ∧
    Instr.disCtimeTick.isWord = false := by decide +kernel
theorem hyp_StepsKeepMemoryCanonical : ∃ s t : State, Memory.wf s.mem = true ∧ s.mem ≠ [] ∧ step s = .next t := by
  have h : (match step (issuing true) with | .next _ => true | _ => false) = true := by decide +kernel
  cases hx : step (issuing true) with
  | next t => exact ⟨_, t, by decide +kernel, by decide, hx⟩
  | fault x => rw [hx] at h; cases h
  | refused x => rw [hx] at h; cases h

end Sys2Proof.Tests
end

