-- ==== Sys2Proof/Tests/Zlas.lean ====
section
/-! SUPPORT. Tests of the assembler against the encodings and layouts that the spec prints: the worked block of
chapter 14, the counted loop of chapter 17, and hcopy of chapter 20. -/

namespace Sys2Proof.Tests.Zlas

open Sys2Proof.Zlas

def vf (d a b c : BitVec 8) (ty : Ty := .i32) : VForm :=
  { d, a, b, c, na := false, aa := false, nb := false, ab := false, nc := false, ac := false, clamp := false, dsc := .one
    ty, g := { neg := false, k := 0 }, sp := false }
def mf (d base idx : BitVec 8) (ofs : BitVec 16) (size : Size) (scope : Scope := .plain) : MForm :=
  { d, base, idx, ofs, scope, strm := 0, size, g := { neg := false, k := 0 }, sp := false }
def cf (k : BitVec 3 := 0) : CForm := { a := 0, mask := { neg := false, k }, b := 0, ofs := 0, imm := 0, sp := false }
def imf (d a : BitVec 8) (imm : BitVec 32) : IForm := { d, a, imm, g := { neg := false, k := 0 }, sp := false }
def xf (d : BitVec 8) (sreg : BitVec 16) : XForm := { d, a := 0, sreg, imm := 0, g := { neg := false, k := 0 }, sp := false }
def w (i : Instr) : Line := .word i .none
def mod (code : List Line) (dirs : List KDir := []) : Module :=
  { name := ['m'], equs := [], kernels := [{ name := ['k'], dirs, code }], data := [] }
/-- The words of a module's one kernel at some offsets, and where its headers stand. -/
def wordsAt (m : Module) (at_ : List Nat) : Option (List W64) :=
  match assemble {} m with
  | .ok o => (o.kernels.head?).bind (fun k => at_.mapM (fun n => k.2.1[n]?))
  | .error _ => none
def headers (m : Module) : Option (List Nat) :=
  match assemble {} m with
  | .ok o => (o.kernels.head?).map (fun k => (List.range k.2.1.length).filter (fun n => (k.2.1[n]?).any (wordF · == 0)))
  | .error _ => none

/-- hcopy (chapter 20). -/
def hcopy : Module := mod (dirs := [.role (.int 0) ['s'] (.int 8) (.int 1)]) [
  .entry ['s'], .label ['s'],
  w (.ld (mf 0xC2 0xC0 0xFF 0 .b64)), w (.ld (mf 0xC4 0xC0 0xFF 8 .b64)), w (.ld (mf 0xC6 0xC0 0xFF 16 .b32)),
  .word (.ld (mf 0xC7 0xC0 0xFF 0 .b32)) (.imm (.int 0x14)),
  w (.mfsr (xf 0xC8 1)), w (.mfsr (xf 0 3)), w (.shli (imf 0xC9 0xC7 1)), w (.imul (vf 0xCA 0xC9 0xC8 0)),
  w (.shli (imf 0xCB 0xC8 1)), w (.imul (vf 1 0 0xC9 0)), w (.shli (imf 2 0 1)), w (.movi (imf 0xCD 0 0)),
  .word (.movi (imf 0xCC 0 0)) (.imm (.int (-1))),
  .label ['p'],
  w (.iadd (vf 5 0 0xCD 0)), w (.icmp (vf 3 0 0xC6 2)), w (.kmov (vf 1 3 0 1)), w (.ifW (cf 1)),
  w (.ld (mf 4 0xC2 1 0 .b16)), w (.rdfirst (vf 0xCC 5 0 0)), w (.st (mf 4 0xC4 2 0 .b16)), w (.endifW (cf)),
  w (.iadd (vf 0xC2 0xC2 0xCA 0 .i64)), w (.iadd (vf 0xC4 0xC4 0xCB 0 .i64)), w (.iadd (vf 0xCD 0xCD 0xC8 0)),
  w (.isub (vf 0xC6 0xC6 0xC8 0)), w (.icmpi (imf 3 0xC6 0x40000000)), w (.kmov (vf 2 3 0 1)),
  .word (.bany (cf 2)) (.label ['p']),
  w (.kpop (vf 0xCE 1 0 0)), w (.st (mf 0xCC 0xC0 0xFF 0x18 .b32)), w (.st (mf 0xCE 0xC0 0xFF 0x1C .b32)), w (.exitW (cf))]
/-- R336 and chapter 20: headers at words 0, 14, 19, 23, 25 and 33, and the words the chapter prints. -/
theorem test_hcopy_headers : headers hcopy = some [0, 14, 19, 23, 25, 33] := by decide +kernel
theorem test_hcopy_words : wordsAt hcopy [14, 18, 20, 21, 22, 32] =
    some [0x0050000050000004, 0x8200020000000A00, 0x6020984020000020, 0x297980A000000000, 0x6040988040000020,
      0x80400401FFFFDC00] := by decide +kernel

/-- The counted loop of chapter 17. -/
def loopdemo : Module := mod (dirs := [.role (.int 0) ['s'] (.int 8) (.int 1)]) [
  .entry ['s'], .label ['s'],
  w (.mfsr (xf 1 3)), w (.icmpi (imf 2 1 0x20000003)), w (.kmov (vf 2 2 0 1)), w (.ifW (cf 2)), w (.iaddi (imf 1 1 1)),
  w (.movi (imf 3 0 0)), w (.loopW cf), .word (.iaddi (imf 1 1 0)) (.imm (.int (-1))), w (.icmpi (imf 2 1 0x30000000)),
  w (.kmov (vf 1 2 0 1)), w (.breakW (cf 1)), w (.iaddi (imf 3 3 1)), w (.endloopW cf), w (.endifW cf), w (.exitW cf)]
theorem test_loopdemo_headers : headers loopdemo = some [0, 5, 9, 14, 16, 18, 20] := by decide +kernel
theorem test_loopdemo_words : wordsAt loopdemo [1, 4, 8, 13, 17, 19] =
    some [0xE060200000600000, 0x8200040000001C00, 0x8260000000001000, 0x8280020000000600, 0x82C00001FFFFF000,
      0x8240000000000000] := by decide +kernel

/-- The worked block of chapter 14, after 40 earlier safe points. -/
def top : List Line := [
  .label ['t'],
  w (.ffma { vf 4 1 0xC3 4 .f32 with na := true, g := { neg := false, k := 2 }, sp := true }),
  w (.pair { h0 := { cop := 1, d := 8, a := 9, b := 10, na := false, nb := false, t := false }
             h1 := { cop := 3, d := 13, a := 14, b := 15, na := false, nb := false, t := true }, sp := false }),
  .word (.ld (mf 0x14 0xC4 0xFF 0 .b32 .device)) (.imm (.int 0x40)),
  .word (.bany (cf 3)) (.label ['t']), w (.exitW cf)]
theorem test_worked_block : (((bodyOf top).build [] {} 0 40 []).toOption.map (fun b => (b.words.take 5, b.side))) =
    some ([0x0050000000002808, 0x2460803860900405, 0x40881228063470F2, 0x6022989FE0080C40, 0x80400601FFFFF800],
      [{ ordinal := 40, offset := 1, octets := 3, scalars := 0x18 }]) := by decide +kernel

/-- R401: a BREAK inside an IF is refused, and a branch to no symbol of the kernel. -/
theorem test_break_in_if : assemble {} (mod [w (.loopW cf), w (.ifW (cf 1)), w (.breakW (cf 1)), w (.endifW cf), w (.endloopW cf)])
    = .error .nesting := by decide +kernel
theorem test_no_target : assemble {} (mod [.word (.bra cf) (.label ['q'])]) = .error .target := by decide +kernel
/-- R337: a value that does not fit is refused, never cut. -/
theorem test_field : assemble {} (mod [.word (.ld (mf 4 0xC4 0xFF 0 .b32)) (.imm (.int 0x8000))]) = .error .field := by
  decide +kernel
/-- R332: literals. -/
theorem test_literals : intLit ['-', '0', 'x', 'F', '_', 'f'] = some (-255) ∧ intLit ['1', '_'] = none ∧
    floatLit Machine.f32 ['0', '.', '1'] = some 0x3DCCCCCD ∧ floatLit Machine.f32 ['-', '1', 'e', '2'] = some 0xC2C80000 := by
  decide +kernel

end Sys2Proof.Tests.Zlas
end

section
/-! SUPPORT. A table written twice at one key, a group of which a word writes registers alone, and what stands after a
V-form word that computes each lane's value from its operands and raises no condition (R195 to R198, R313, R314, R338). -/

namespace Sys2Proof.Machine

open Sys2Proof.Safety

/-! ## Writing a place twice -/

theorem tdrop_tdrop {α : Type} (t : Tbl α) (k : Nat) : tdrop (tdrop t k) k = tdrop t k := by
  induction t with
  | nil => rfl
  | cons e t ih =>
    obtain ⟨k', v⟩ := e
    by_cases h : k = k'
    · simpa [tdrop, h] using h ▸ ih
    · simp [tdrop, h, ih]

/-- A second write of a key undoes the first, where the first left the key listed. -/
theorem tput_tput_of_ne {α : Type} [DecidableEq α] (d : α) (t : Tbl α) (k : Nat) {v : α} (w : α) (hv : v ≠ d) :
    tput d (tput d t k v) k w = tput d t k w := by
  induction t with
  | nil => simp [tput, hv, tdrop]
  | cons e t ih =>
    obtain ⟨k', v'⟩ := e
    rcases Nat.lt_trichotomy k k' with h | h | h
    · simp [tput, tdrop, h, hv, h.ne, tdrop_tdrop]
    · simp [tput, h, hv, tdrop_tdrop]
    · simp [tput, ih, Nat.not_lt_of_gt h, h.ne']

/-- A live group is none that the table of groups leaves unlisted, so writing its place again undoes the first write. -/
theorem State.setCg_setCg (s : State) {g : Group} (g' : Group) (h : g.live = true) : (s.setCg g).setCg g' = s.setCg g' := by
  have hne : g ≠ {} := fun he => by simp [he] at h
  simp only [State.setCg, State.setGroup, tput_tput_of_ne _ _ _ _ hne]

/-! ## Groups of which only registers, masks, status bits and random states differ -/

/-- What Retired leaves open of a group. -/
def Group.OnlyRegs (g g' : Group) : Prop :=
  g' = { g with v := g'.v, s := g'.s, k := g'.k, fst := g'.fst, rnd := g'.rnd }

theorem Group.OnlyRegs.refl (g : Group) : g.OnlyRegs g := rfl
theorem Group.OnlyRegs.trans {g g' g'' : Group} (h : g.OnlyRegs g') (h' : g'.OnlyRegs g'') : g.OnlyRegs g'' := by
  unfold Group.OnlyRegs at *
  rw [h', h]
theorem Group.OnlyRegs.live {g g' : Group} (h : g.OnlyRegs g') : g'.live = g.live := by rw [h]
theorem Group.onlyRegs_writeS (g : Group) (wide : Bool) (d : BitVec 8) (x : W64) : g.OnlyRegs (g.writeS wide d x) := rfl
theorem Group.onlyRegs_laneDone (g : Group) (wide : Bool) (d : BitVec 8) (l : Nat) (r : LRes) :
    g.OnlyRegs (g.laneDone wide d l r) := by
  obtain ⟨val, fl, rng⟩ := r
  cases wide <;> cases rng <;> rfl

/-- A word that is done with a group of which only registers differ has retired. -/
theorem retired_of_onlyRegs (sp : Bool) (s : State) {g : Group} (hl : s.cg.live = true) (h : s.cg.OnlyRegs g) :
    Retired sp s (Res.retire sp (.done (s.setCg g))) := by
  have hg : g.live = true := h.live.trans hl
  have h' : g.advance sp = { s.cg.advance sp with v := g.v, s := g.s, k := g.k, fst := g.fst, rnd := g.rnd } :=
    congrArg (Group.advance · sp) h
  simp only [Res.retire_done, State.cg_setCg, Retired, State.setCg_setCg s _ hg]
  exact congrArg s.setCg h'
/-- A word that changes nothing has retired. -/
theorem retired_done (sp : Bool) (s : State) : Retired sp s (Res.retire sp (.done s)) := by
  simp only [Retired, Res.retire_done, State.cg_setCg]

/-! ## The lanes of a vector destination -/

/-- A lane of a destination, a pair when wide, reads what was written to it; every other lane and register is kept. -/
theorem Group.vget_writeLane (g : Group) (wide : Bool) (d : BitVec 8) {k l : Nat} (x : W64) (r : Nat) (hk : k < 32) (hl : l < 32) :
    (g.writeLane wide d k x).vget r l =
      if l ≠ k then g.vget r l
      else if r = d.toNat then lo32 x
      else if wide = true ∧ r = d.toNat + 1 then hi32 x
      else g.vget r l := by
  have hkey : ∀ n, r * 32 + l = n * 32 + k ↔ l = k ∧ r = n := fun n => by omega
  by_cases h : l = k
  · subst h
    cases wide
    · simp [Group.writeLane, Group.vget_vput]
    · by_cases hr : r = d.toNat <;> simp [Group.writeLane, Group.vget_vput, hr]
  · cases wide <;> simp [Group.writeLane, Group.vget_vput, hkey, h]

theorem Group.vget_laneDone (g : Group) (wide : Bool) (d : BitVec 8) (k : Nat) (x : LRes) (r l : Nat) :
    (g.laneDone wide d k x).vget r l = (g.writeLane wide d k x.val).vget r l := by
  obtain ⟨val, fl, rng⟩ := x
  cases rng <;> rfl
theorem Group.s_laneDone (g : Group) (wide : Bool) (d : BitVec 8) (k : Nat) (x : LRes) : (g.laneDone wide d k x).s = g.s := by
  obtain ⟨val, fl, rng⟩ := x
  cases wide <;> cases rng <;> rfl
theorem Group.k_laneDone (g : Group) (wide : Bool) (d : BitVec 8) (k : Nat) (x : LRes) : (g.laneDone wide d k x).k = g.k := by
  obtain ⟨val, fl, rng⟩ := x
  cases wide <;> cases rng <;> rfl
/-- A result that raises no condition leaves the status bits, and one that draws nothing the random states. -/
theorem Group.flags_laneDone (g : Group) (wide : Bool) (d : BitVec 8) (k : Nat) (x : W64) :
    (g.laneDone wide d k { val := x }).fst = g.fst ∧ (g.laneDone wide d k { val := x }).rnd = g.rnd := by
  cases wide <;> simp [Group.laneDone, Group.writeLane, Group.vput, Group.orFst]

/-- Lanes written one after another, each with a value of its own, all hold their values. -/
theorem Group.vget_foldl_laneDone (ls : List Nat) (hls : ∀ k ∈ ls, k < 32) (g : Group) (wide : Bool) (d : BitVec 8)
    (h : Nat → LRes) (r : Nat) {l : Nat} (hl : l < 32) :
    (ls.foldl (fun acc k => acc.laneDone wide d k (h k)) g).vget r l =
      if l ∉ ls then g.vget r l
      else if r = d.toNat then lo32 (h l).val
      else if wide = true ∧ r = d.toNat + 1 then hi32 (h l).val
      else g.vget r l := by
  induction ls generalizing g with
  | nil => simp
  | cons k ls ih =>
    have hk : k < 32 := hls k (by simp)
    rw [List.foldl_cons, ih (fun j hj => hls j (by simp [hj])), vget_laneDone, vget_writeLane _ _ _ _ _ hk hl]
    by_cases hlk : l = k <;> by_cases hm : l ∈ ls <;> simp_all

theorem mem_laneList {ex : Lanes} {l : Nat} : l ∈ laneList ex ↔ l < 32 ∧ lin ex l = true := by
  simp [laneList, lanes]

/-- The execution set's lanes of a vector destination hold their values, and the rest is kept (R338). -/
theorem Group.vget_vecDone (g : Group) (wide : Bool) (d : BitVec 8) (ex : Lanes) (h : Nat → LRes) (r : Nat) {l : Nat}
    (hl : l < 32) :
    (g.vecDone wide d ex h).vget r l =
      if lin ex l = false then g.vget r l
      else if r = d.toNat then lo32 (h l).val
      else if wide = true ∧ r = d.toNat + 1 then hi32 (h l).val
      else g.vget r l := by
  rw [Group.vecDone, vget_foldl_laneDone _ (fun k hk => (mem_laneList.1 hk).1) _ _ _ _ _ hl]
  simp [mem_laneList, hl]

/-- What every lane's write keeps, the whole vector word keeps. -/
theorem Group.vecDone_induction {P : Group → Prop} {g : Group} (wide : Bool) (d : BitVec 8) (ex : Lanes) (h : Nat → LRes)
    (h0 : P g) (hstep : ∀ g l, P g → P (g.laneDone wide d l (h l))) : P (g.vecDone wide d ex h) := by
  unfold Group.vecDone
  induction laneList ex generalizing g with
  | nil => exact h0
  | cons l ls ih => exact ih (hstep g l h0)

/-! ## V-form words that compute a value for each lane and nothing more -/

/-- A lane's computation that raises no condition and draws nothing. -/
def pureLane (h : W64 → W64 → W64 → W64) : LaneFn := fun a b c _ _ => { val := h a b c }

/-- What a V-form word reads and computes in lane l. -/
def Group.laneVal (g : Group) (f : VForm) (u : VUse) (h : W64 → W64 → W64 → W64) (l : Nat) : W64 :=
  h (g.opnd u.a f.a l) (g.opnd u.b f.b l) (g.opnd u.c f.c l)

/-- The group after such a word: its value in each lane of the execution set, or in the scalar destination. -/
theorem Group.runV_pureLane (g : Group) (f : VForm) (u : VUse) (act : Lanes) (h : W64 → W64 → W64 → W64) :
    g.runV f u act (pureLane h) (pureLane h) =
      if f.uniform then g.writeS (u.d == .w64) f.d (g.laneVal f u h 0)
      else g.vecDone (u.d == .w64) f.d (g.execSet f.g act) (fun l => { val := g.laneVal f u h l }) := by
  unfold Group.runV
  split
  · simp [Group.laneRes, pureLane, Group.laneVal, Group.orFst]
  · rfl

theorem Group.onlyRegs_runV_pureLane (g : Group) (f : VForm) (u : VUse) (act : Lanes) (h : W64 → W64 → W64 → W64) :
    g.OnlyRegs (g.runV f u act (pureLane h) (pureLane h)) := by
  rw [runV_pureLane]
  split
  · exact g.onlyRegs_writeS _ _ _
  · exact vecDone_induction _ _ _ _ (.refl g) (fun g' l h' => h'.trans (g'.onlyRegs_laneDone _ _ _ _))

theorem Group.flags_runV_pureLane (g : Group) (f : VForm) (u : VUse) (act : Lanes) (h : W64 → W64 → W64 → W64) :
    (g.runV f u act (pureLane h) (pureLane h)).k = g.k ∧ (g.runV f u act (pureLane h) (pureLane h)).fst = g.fst ∧
      (g.runV f u act (pureLane h) (pureLane h)).rnd = g.rnd := by
  rw [runV_pureLane]
  split
  · exact ⟨rfl, rfl, rfl⟩
  · refine vecDone_induction (P := fun g' => g'.k = g.k ∧ g'.fst = g.fst ∧ g'.rnd = g.rnd) _ _ _ _ ⟨rfl, rfl, rfl⟩ ?_
    rintro g' l ⟨hk, hfst, hrnd⟩
    obtain ⟨hfst', hrnd'⟩ := g'.flags_laneDone (u.d == .w64) f.d l (g.laneVal f u h l)
    exact ⟨(k_laneDone ..).trans hk, hfst'.trans hfst, hrnd'.trans hrnd⟩

/-- Such a word has written its destination as the rules of R313 and R338 have it. -/
theorem Group.written_runV_pureLane (g : Group) (f : VForm) (u : VUse) (act : Lanes) (h : W64 → W64 → W64 → W64) :
    Written g (g.runV f u act (pureLane h) (pureLane h)) (u.d == .w64) f.d (g.execSet f.g act) (g.laneVal f u h) := by
  rw [runV_pureLane, Written]
  cases hd : isS f.d
  · simp only [VForm.uniform, hd, Bool.false_eq_true, if_false]
    exact ⟨vecDone_induction (P := fun g' => g'.s = g.s) _ _ _ _ rfl (fun g' l h' => (s_laneDone ..).trans h'),
      fun r l hl => vget_vecDone _ _ _ _ _ _ hl⟩
  · refine ⟨by simp [VForm.uniform, hd, Group.writeS, Group.sput], fun n => ?_⟩
    simp [VForm.uniform, hd, Group.writeS, Group.sget_sput]

/-- How the machine stands after a V-form word whose lanes compute x, as the statements of the words say it. -/
def ComputesV (i : Instr) (s : State) (f : VForm) (u : VUse) (x : Nat → W64) : Prop :=
  ∃ t, exec i s = .next t ∧ Retired f.sp s t ∧ FlagsKept s t ∧
    (s.cg.runs f.uniform f.g s.cg.active = false → RegsKept s t) ∧
    (s.cg.runs f.uniform f.g s.cg.active = true →
      Written s.cg t.cg (u.d == .w64) f.d (s.cg.execSet f.g s.cg.active) x)

/-- A word's checks pass on a free group: it is done with its effect, or as the state stands where nothing executes. -/
theorem State.gate_of_free {s : State} {rs : Regs} {runs : Bool} (h : Free s rs runs) (k : Res) :
    s.gate rs runs k = if runs then k else .done s := by
  obtain ⟨-, hbusy, hrange⟩ := h
  cases runs <;> simp [State.gate, hbusy, hrange]

/-- A V-form word of pure lanes computes its lanes' values. -/
theorem computesV_of_exec {i : Instr} {s : State} {f : VForm} {u : VUse} {h : W64 → W64 → W64 → W64}
    (he : exec i s = .next (Res.retire f.sp (s.runV f u s.cg.active (pureLane h) (pureLane h))))
    (hfree : Free s (f.regs u) (s.cg.runs f.uniform f.g s.cg.active)) : ComputesV i s f u (s.cg.laneVal f u h) := by
  have hlive : s.cg.live = true := hfree.1
  refine ⟨_, he, ?_⟩
  rw [State.runV, State.gate_of_free hfree]
  cases hruns : s.cg.runs f.uniform f.g s.cg.active
  · exact ⟨retired_done f.sp s, by simp [FlagsKept, Res.retire_done], by simp [RegsKept, Res.retire_done], by simp⟩
  · obtain ⟨hk, hfst, hrnd⟩ := s.cg.flags_runV_pureLane f u s.cg.active h
    refine ⟨retired_of_onlyRegs _ s hlive (s.cg.onlyRegs_runV_pureLane ..), ?_, by simp, fun _ => ?_⟩
    · simp only [FlagsKept, if_true, Res.retire_done, State.cg_setCg]; exact ⟨hk, hfst, hrnd⟩
    · simp only [if_true, Res.retire_done, State.cg_setCg]; exact s.cg.written_runV_pureLane ..

end Sys2Proof.Machine
end

section
/-! SUPPORT. The numbers a word computes with against bit vectors: elements of a register value, two's complement, and
the results of the integer instructions (R338, R345 to R351, R364). -/

namespace Sys2Proof.Machine

open Sys2Proof.Safety

/-! ## Bits of numbers -/

theorem bitOf_eq_testBit (x i : Nat) : bitOf x i = x.testBit i := by
  rw [bitOf, Nat.testBit_eq_decide_div_mod_eq]; rfl
theorem bitOf_toNat {w : Nat} (a : BitVec w) (i : Nat) : bitOf a.toNat i = a.getLsbD i := bitOf_eq_testBit _ _
theorem bits_eq_toNat_extractLsb' {w : Nat} (x : BitVec w) (lo n : Nat) : bits x.toNat lo n = (x.extractLsb' lo n).toNat := by
  simp [bits, Nat.shiftRight_eq_div_pow]
theorem bits_lt (x lo n : Nat) : bits x lo n < 2 ^ n := Nat.mod_lt _ (Nat.two_pow_pos n)
theorem testBit_bits (x lo n i : Nat) : (bits x lo n).testBit i = (decide (i < n) && x.testBit (lo + i)) := by
  rw [bits, Nat.testBit_mod_two_pow, Nat.testBit_div_two_pow, Nat.add_comm]

/-! ## Two's complement -/

theorem sInt_toNat {w : Nat} (a : BitVec w) : sInt w a.toNat = a.toInt := by
  rw [sInt, bitOf_toNat, ← BitVec.msb_eq_getLsbD_last, BitVec.toInt_eq_msb_cond]
  norm_cast
/-- A number below 2^w reads as the signed value of its w bits. -/
theorem sInt_of_lt {w x : Nat} (h : x < 2 ^ w) : sInt w x = (BitVec.ofNat w x).toInt := by
  rw [← sInt_toNat, BitVec.toNat_ofNat, Nat.mod_eq_of_lt h]
theorem wrap_eq_toNat_ofInt (w : Nat) (z : Int) : wrap w z = (BitVec.ofInt w z).toNat := by
  rw [BitVec.toNat_ofInt, wrap]
  norm_cast
theorem ofNat_wrap (w : Nat) (z : Int) : BitVec.ofNat w (wrap w z) = BitVec.ofInt w z := by
  rw [wrap_eq_toNat_ofInt, BitVec.ofNat_toNat, BitVec.setWidth_eq]

/-- A w-bit element as a type reads it: signed or unsigned. -/
def valInt (sg : Bool) {w : Nat} (a : BitVec w) : Int := if sg then a.toInt else a.toNat
theorem elInt_toNat (sg : Bool) {w : Nat} (a : BitVec w) : elInt sg w a.toNat = valInt sg a := by
  cases sg <;> simp [elInt, valInt, sInt_toNat]
theorem extend_eq_ofInt (sg : Bool) {w : Nat} (a : BitVec w) (v : Nat) :
    (if sg then a.signExtend v else a.setWidth v) = BitVec.ofInt v (valInt sg a) := by
  cases sg
  · simp [valInt, BitVec.ofInt_natCast]
  · rfl
theorem widen_eq_ofInt (sg : Bool) {w : Nat} (a : BitVec w) : widen sg a = BitVec.ofInt (2 * w) (valInt sg a) :=
  extend_eq_ofInt sg a (2 * w)

/-! ## The elements of a register value (R311, R338) -/

/-- The numbers g 0, g 1, … below n, each in w bits, side by side. -/
def packNat (w : Nat) (g : Nat → Nat) (n : Nat) : Nat := (upto n).foldl (fun acc e => acc + g e % 2 ^ w * 2 ^ (w * e)) 0

theorem packNat_succ (w : Nat) (g : Nat → Nat) (n : Nat) :
    packNat w g (n + 1) = packNat w g n + g n % 2 ^ w * 2 ^ (w * n) := by
  simp [packNat, upto, List.range_succ]
theorem packNat_lt (w : Nat) (g : Nat → Nat) (n : Nat) : packNat w g n < 2 ^ (w * n) := by
  induction n with
  | zero => simp [packNat, upto]
  | succ n ih =>
    have hg : g n % 2 ^ w + 1 ≤ 2 ^ w := Nat.mod_lt _ (Nat.two_pow_pos w)
    calc packNat w g (n + 1) = packNat w g n + g n % 2 ^ w * 2 ^ (w * n) := packNat_succ w g n
      _ < (g n % 2 ^ w + 1) * 2 ^ (w * n) := by rw [Nat.add_mul]; omega
      _ ≤ 2 ^ w * 2 ^ (w * n) := Nat.mul_le_mul_right _ hg
      _ = 2 ^ (w * (n + 1)) := by rw [← pow_add, Nat.mul_succ, Nat.add_comm]
/-- Element e of the numbers side by side is number e. -/
theorem bits_packNat (w : Nat) (g : Nat → Nat) {n e : Nat} (he : e < n) : bits (packNat w g n) (w * e) w = g e % 2 ^ w := by
  induction n with
  | zero => omega
  | succ n ih =>
    rw [packNat_succ]
    rcases Nat.lt_succ_iff_lt_or_eq.1 he with h | rfl
    · have hsplit : 2 ^ (w * n) = 2 ^ w * 2 ^ (w * e) * 2 ^ (w * (n - e - 1)) := by
        rw [← pow_add, ← pow_add]; congr 1
        obtain ⟨m, rfl⟩ : ∃ m, n = e + m + 1 := ⟨n - e - 1, by omega⟩
        have : e + m + 1 - e - 1 = m := by omega
        rw [this]; ring
      rw [← ih h, bits, bits, hsplit]
      rw [show g n % 2 ^ w * (2 ^ w * 2 ^ (w * e) * 2 ^ (w * (n - e - 1))) =
        2 ^ w * (g n % 2 ^ w * 2 ^ (w * (n - e - 1))) * 2 ^ (w * e) by ring,
        Nat.add_mul_div_right _ _ (Nat.two_pow_pos _), Nat.add_mul_mod_self_left]
    · rw [bits, Nat.add_mul_div_right _ _ (Nat.two_pow_pos _), Nat.div_eq_of_lt (packNat_lt w g e), Nat.zero_add, Nat.mod_mod]

theorem toNat_elem (w e : Nat) (x : W64) : (elem w e x).toNat = elemOf w e x := by
  rw [elemOf, bits_eq_toNat_extractLsb', elem]
/-- Elements of a type fill at most a register value. -/
theorem ew_mul_en_le (t : Ty) : t.ew * t.en ≤ 64 := by cases t <;> decide
/-- An element of packed numbers, in the elements of a type, is the number in its bits. -/
theorem elem_packNat (t : Ty) (g : Nat → Nat) {e : Nat} (he : e < t.en) :
    elem t.ew e (BitVec.ofNat 64 (packNat t.ew g t.en)) = BitVec.ofNat t.ew (g e) := by
  apply BitVec.eq_of_toNat_eq
  have hlt : packNat t.ew g t.en < 2 ^ 64 :=
    (packNat_lt _ _ _).trans_le (Nat.pow_le_pow_right (by omega) (ew_mul_en_le t))
  rw [toNat_elem, elemOf, BitVec.toNat_ofNat, Nat.mod_eq_of_lt hlt, bits_packNat _ _ he, BitVec.toNat_ofNat]

/-! ## The results of one element (R345, R346, R348 to R350) -/

section

variable {w : Nat} (a b c : BitVec w)

/-- Bits w to 2w - 1 of an integer. -/
theorem extractLsb'_ofInt_two_mul (z : Int) : (BitVec.ofInt (2 * w) z).extractLsb' w w = BitVec.ofInt w (z / 2 ^ w) := by
  have hw : (0 : Int) < 2 ^ w := by positivity
  have hz : (z % 2 ^ (2 * w)) / 2 ^ w % 2 ^ w = z / 2 ^ w % 2 ^ w := by
    conv_rhs => rw [← Int.emod_add_mul_ediv z (2 ^ (2 * w)), show (2 : Int) ^ (2 * w) = 2 ^ w * 2 ^ w by ring, mul_assoc,
      Int.add_mul_ediv_left _ _ hw.ne', Int.add_mul_emod_self_left]
    rw [show (2 : Int) ^ (2 * w) = 2 ^ w * 2 ^ w by ring]
  apply BitVec.eq_of_toNat_eq
  rw [BitVec.extractLsb'_toNat, BitVec.toNat_ofInt, BitVec.toNat_ofInt, Nat.shiftRight_eq_div_pow]
  zify
  rw [Int.toNat_of_nonneg (Int.emod_nonneg _ (by positivity)), Int.toNat_of_nonneg (Int.emod_nonneg _ (by positivity)), hz]

theorem ofNat_mulHigh (sg : Bool) :
    BitVec.ofNat w (mulHigh sg w a.toNat b.toNat) = (widen sg a * widen sg b).extractLsb' w w := by
  rw [mulHigh, ofNat_wrap, elInt_toNat, elInt_toNat, widen_eq_ofInt, widen_eq_ofInt, ← BitVec.ofInt_mul,
    extractLsb'_ofInt_two_mul]

theorem valInt_inj (sg : Bool) : valInt sg a = valInt sg b ↔ a = b := by
  cases sg
  · simp [valInt, BitVec.toNat_inj]
  · simp [valInt, BitVec.toInt_inj]
theorem decide_valInt_lt (sg : Bool) : decide (valInt sg a < valInt sg b) = if sg then a.slt b else a.ult b := by
  cases sg <;> simp [valInt, BitVec.slt_eq_decide, BitVec.ult_eq_decide]
theorem decide_valInt_le (sg : Bool) : decide (valInt sg a ≤ valInt sg b) = if sg then a.sle b else a.ule b := by
  cases sg <;> simp [valInt, BitVec.sle_eq_decide, BitVec.ule_eq_decide]

theorem icmp_eq_holds (sg : Bool) (cc : Nat) : icmp cc (valInt sg a) (valInt sg b) = holds sg cc a b := by
  match cc with
  | 0 => exact Bool.eq_iff_iff.2 (by simp [icmp, holds, valInt_inj])
  | 1 => exact Bool.eq_iff_iff.2 (by simp [icmp, holds, valInt_inj])
  | 2 => exact decide_valInt_lt a b sg
  | 3 => exact decide_valInt_le a b sg
  | 4 => exact decide_valInt_lt b a sg
  | _ + 5 => exact decide_valInt_le b a sg

theorem ofNat_allOr (p : Bool) : BitVec.ofNat w (allOr w p) = if p then BitVec.allOnes w else 0 := by
  cases p
  · rfl
  · exact BitVec.eq_of_toNat_eq (by simp [allOr])

theorem ofNat_shlN (n : Nat) : BitVec.ofNat w (shlN w a.toNat n) = a <<< n := by
  unfold shlN
  split
  · simp [BitVec.shiftLeft_eq_zero, *]
  · apply BitVec.eq_of_toNat_eq; simp [Nat.shiftLeft_eq]
theorem ofNat_shrN (n : Nat) : BitVec.ofNat w (shrN w a.toNat n) = a >>> n := by
  unfold shrN
  split
  · simp [BitVec.ushiftRight_eq_zero, *]
  · apply BitVec.eq_of_toNat_eq
    rw [BitVec.toNat_ushiftRight, Nat.shiftRight_eq_div_pow, BitVec.toNat_ofNat, Nat.mod_eq_of_lt]
    exact (Nat.div_le_self ..).trans_lt a.isLt
/-- An arithmetic shift by the width or more leaves the sign alone. -/
theorem sshiftRight_min (n : Nat) : a.sshiftRight (min n w) = a.sshiftRight n := by
  refine BitVec.eq_of_getLsbD_eq fun i hi => ?_
  rw [BitVec.getLsbD_sshiftRight, BitVec.getLsbD_sshiftRight]
  rcases Nat.le_total n w with h | h
  · rw [Nat.min_eq_left h]
  · rw [Nat.min_eq_right h, if_neg (by omega), if_neg (by omega)]
theorem ofNat_sarN (n : Nat) : BitVec.ofNat w (sarN w a.toNat n) = a.sshiftRight n := by
  rw [← sshiftRight_min, sarN, ofNat_wrap, sInt_toNat, BitVec.sshiftRight, Int.shiftRight_eq_div_pow]
  norm_cast

theorem ofNat_bfeN (sg : Bool) : BitVec.ofNat w (bfeN sg w a.toNat b.toNat) = bfe sg a b := by
  have hp : bits b.toNat 0 8 = b.toNat % 256 := by simp [bits]
  have hn : bits b.toNat 8 8 = b.toNat / 256 % 256 := rfl
  simp only [bfeN, bfe, hp, hn]
  generalize b.toNat % 256 = p
  generalize min (b.toNat / 256 % 256) w = n
  have hx : bits a.toNat p n = ((a >>> p).setWidth n).toNat := by simp [bits, Nat.shiftRight_eq_div_pow]
  by_cases h0 : n = 0
  · simp [h0]
  · cases sg
    · simp only [h0, if_false, hx, Bool.false_eq_true, BitVec.ofNat_toNat]
    · simp only [h0, if_false, if_true, hx, ofNat_wrap, sInt_toNat, BitVec.signExtend]

/-- Bit j of BFI's number: of the inserted bits from p to p + n - 1, of b elsewhere. -/
theorem testBit_insert (x y p n j : Nat) :
    (y / 2 ^ (p + n) * 2 ^ (p + n) + bits x 0 n * 2 ^ p + y % 2 ^ p).testBit j =
      if p ≤ j ∧ j < p + n then x.testBit (j - p) else y.testBit j := by
  have hlow : y % 2 ^ p < 2 ^ p := Nat.mod_lt _ (Nat.two_pow_pos p)
  have hmid : 2 ^ p * bits x 0 n + y % 2 ^ p < 2 ^ (p + n) :=
    calc 2 ^ p * bits x 0 n + y % 2 ^ p < 2 ^ p * (bits x 0 n + 1) := by rw [Nat.mul_add]; omega
      _ ≤ 2 ^ p * 2 ^ n := Nat.mul_le_mul_left _ (bits_lt x 0 n)
      _ = 2 ^ (p + n) := (pow_add 2 p n).symm
  rw [Nat.add_assoc, Nat.mul_comm _ (2 ^ (p + n)), Nat.mul_comm _ (2 ^ p), Nat.testBit_two_pow_mul_add _ hmid,
    Nat.testBit_two_pow_mul_add _ hlow]
  by_cases h1 : j < p
  · simp [h1, Nat.not_le_of_gt h1, Nat.lt_add_right n h1]
  · by_cases h2 : j < p + n
    · simp [h1, h2, Nat.le_of_not_lt h1, testBit_bits, show j - p < n by omega]
    · simp [h2, Nat.testBit_div_two_pow, show j - (p + n) + (p + n) = j by omega]

theorem ofNat_bfiN : BitVec.ofNat w (if w ≤ bits c.toNat 0 8 then b.toNat else bfiN w a.toNat b.toNat c.toNat) = bfi a b c := by
  have hp : bits c.toNat 0 8 = c.toNat % 256 := by simp [bits]
  have hn : bits c.toNat 8 8 = c.toNat / 256 % 256 := rfl
  simp only [bfiN, bfi, hp, hn]
  generalize c.toNat % 256 = p
  generalize min (c.toNat / 256 % 256) w = n
  refine BitVec.eq_of_getLsbD_eq fun j hj => ?_
  rw [BitVec.getLsbD_ofFnLE, dif_pos hj, BitVec.getLsbD_ofNat]
  by_cases h : w ≤ p
  · have hout : ¬(p ≤ j ∧ j < p + n) := by omega
    simp [h, hout, hj, BitVec.testBit_toNat]
  · have hin : (p ≤ j ∧ j < p + min n (w - p)) ↔ p ≤ j ∧ j < p + n := by omega
    simp only [h, if_false, testBit_insert, hin, hj, BitVec.testBit_toNat, decide_true, Bool.true_and]

theorem popN_eq_countP : popN w a.toNat = (List.range w).countP (fun i => a.getLsbD i) := by
  rw [popN, upto, List.countP_eq_length_filter]
  simp only [funext (bitOf_toNat a)]

theorem ofNat_clzN : BitVec.ofNat w (clzN w a.toNat) = a.clz := by
  unfold clzN
  by_cases h : a.toNat = 0
  · have h0 : a = 0#w := BitVec.eq_of_toNat_eq (by simpa using h)
    rw [if_pos h]; exact (BitVec.clz_eq_iff_eq_zero.2 h0).symm
  · have hw : 0 < w := by
      rcases Nat.eq_zero_or_pos w with rfl | hw
      · simp [BitVec.of_length_zero] at h
      · exact hw
    have hne : a ≠ 0#w := fun h0 => h (by simp [h0])
    have hlo := BitVec.two_pow_sub_clz_le_toNat_of_ne_zero hw hne
    have hhi := BitVec.toNat_lt_two_pow_sub_clz (x := a)
    have hclz : a.clz.toNat < w := by
      have := BitVec.clz_lt_iff_ne_zero.2 hne
      simpa [BitVec.lt_def] using this
    have hlog : a.toNat.log2 = w - 1 - a.clz.toNat :=
      (Nat.log2_eq_iff h).2 ⟨hlo, by rwa [show w - 1 - a.clz.toNat + 1 = w - a.clz.toNat by omega]⟩
    rw [if_neg h, hlog, show w - 1 - (w - 1 - a.clz.toNat) = a.clz.toNat by omega]
    simp

/-- The low n bits of a number in the opposite order. -/
def revNat (x : Nat) : Nat → Nat
  | 0 => 0
  | n + 1 => Nat.bit (x.testBit n) (revNat x n)

theorem testBit_revNat (x n j : Nat) : (revNat x n).testBit j = (decide (j < n) && x.testBit (n - 1 - j)) := by
  induction n generalizing j with
  | zero => simp [revNat]
  | succ n ih =>
    cases j with
    | zero => simp [revNat]
    | succ j => simp [revNat, Nat.testBit_bit_succ, ih, Nat.sub_sub, Nat.add_comm]

/-- The first n steps of BREV's sum place the reversal of n bits at the top of w. -/
theorem brevFold_eq (x : Nat) {n : Nat} (hn : n ≤ w) :
    (upto n).foldl (fun acc i => if bitOf x i then acc + 2 ^ (w - 1 - i) else acc) 0 = 2 ^ (w - n) * revNat x n := by
  induction n with
  | zero => simp [upto, revNat]
  | succ n ih =>
    have hpow : 2 ^ (w - n) = 2 ^ (w - (n + 1)) * 2 := by rw [← pow_succ]; congr 1; omega
    have hexp : w - 1 - n = w - (n + 1) := by omega
    have ih' := ih (by omega)
    simp only [upto, List.range_succ, List.foldl_append, List.foldl_cons, List.foldl_nil] at ih' ⊢
    rw [ih', hexp, hpow, revNat, bitOf_eq_testBit]
    cases x.testBit n <;> simp [Nat.bit] <;> ring

theorem ofNat_brevN : BitVec.ofNat w (brevN w a.toNat) = a.reverse := by
  refine BitVec.eq_of_getLsbD_eq fun j hj => ?_
  rw [brevN, brevFold_eq _ le_rfl, BitVec.getLsbD_reverse, BitVec.getMsbD, BitVec.getLsbD_ofNat]
  simp [testBit_revNat, hj, BitVec.testBit_toNat]

end

/-- A computation over numbers gives in w bits what one over bit vectors gives. -/
def Agrees (w : Nat) (hn : Nat → Nat → Nat → Nat) (h : BitVec w → BitVec w → BitVec w → BitVec w) : Prop :=
  ∀ a b c : BitVec w, BitVec.ofNat w (hn a.toNat b.toNat c.toNat) = h a b c

section

variable {w : Nat} (sg : Bool)

theorem agrees_add : Agrees w (fun a b _ => a + b) (fun a b _ => a + b) := fun a b _ => by
  simp [BitVec.ofNat_add]
theorem agrees_sub : Agrees w (fun a b _ => wrap w ((a : Int) - b)) (fun a b _ => a - b) := fun a b _ => by
  rw [ofNat_wrap, Int.sub_eq_add_neg, BitVec.ofInt_add, BitVec.ofInt_neg, ← BitVec.sub_eq_add_neg]
  simp [BitVec.ofInt_natCast]
theorem agrees_mul : Agrees w (fun a b _ => a * b) (fun a b _ => a * b) := fun a b _ => by
  simp [BitVec.ofNat_mul]
theorem agrees_mulHigh :
    Agrees w (fun a b _ => mulHigh sg w a b) (fun a b _ => (widen sg a * widen sg b).extractLsb' w w) :=
  fun a b _ => ofNat_mulHigh a b sg
theorem agrees_mad : Agrees w (fun a b c => a * b + c) (fun a b c => a * b + c) := fun a b c => by
  simp [BitVec.ofNat_add, BitVec.ofNat_mul]

theorem valInt_le_iff_holds (a b : BitVec w) : valInt sg a ≤ valInt sg b ↔ holds sg 3 a b = true := by
  rw [← icmp_eq_holds]; simp [icmp]
theorem agrees_min :
    Agrees w (fun a b _ => if elInt sg w a ≤ elInt sg w b then a else b) (fun a b _ => if holds sg 3 a b then a else b) :=
  fun a b _ => by simp only [elInt_toNat, valInt_le_iff_holds, apply_ite (BitVec.ofNat w), BitVec.ofNat_toNat, BitVec.setWidth_eq]
theorem agrees_max :
    Agrees w (fun a b _ => if elInt sg w a ≤ elInt sg w b then b else a) (fun a b _ => if holds sg 3 a b then b else a) :=
  fun a b _ => by simp only [elInt_toNat, valInt_le_iff_holds, apply_ite (BitVec.ofNat w), BitVec.ofNat_toNat, BitVec.setWidth_eq]
theorem agrees_cmp (cc : Nat) :
    Agrees w (fun a b _ => allOr w (icmp cc (elInt sg w a) (elInt sg w b)))
      (fun a b _ => if holds sg cc a b then BitVec.allOnes w else 0) :=
  fun a b _ => by rw [ofNat_allOr, elInt_toNat, elInt_toNat, icmp_eq_holds]
theorem agrees_sel : Agrees w (fun a b c => if c != 0 then a else b) (fun a b c => if c = 0 then b else a) := fun a b c => by
  have hc : c.toNat = 0 ↔ c = 0 := by rw [← BitVec.toNat_inj]; simp
  simp only [bne_iff_ne, ne_eq, hc, ite_not, apply_ite (BitVec.ofNat w), BitVec.ofNat_toNat, BitVec.setWidth_eq]

theorem agrees_and : Agrees w (fun a b _ => a &&& b) (fun a b _ => a &&& b) := fun a b _ => by simp
theorem agrees_or : Agrees w (fun a b _ => a ||| b) (fun a b _ => a ||| b) := fun a b _ => by simp
theorem agrees_xor : Agrees w (fun a b _ => a ^^^ b) (fun a b _ => a ^^^ b) := fun a b _ => by simp
theorem agrees_andn : Agrees w (fun a b _ => a &&& (b ^^^ (2 ^ w - 1))) (fun a b _ => a &&& ~~~b) := fun a b _ => by
  have h : BitVec.ofNat w (2 ^ w - 1) = BitVec.allOnes w := BitVec.eq_of_toNat_eq (by simp)
  rw [BitVec.ofNat_and, BitVec.ofNat_xor, h]
  simp
theorem agrees_shl : Agrees w (fun a b _ => shlN w a b) (fun a b _ => a <<< b.toNat) := fun a b _ => ofNat_shlN a b.toNat
theorem agrees_shr : Agrees w (fun a b _ => shrN w a b) (fun a b _ => a >>> b.toNat) := fun a b _ => ofNat_shrN a b.toNat
theorem agrees_sar : Agrees w (fun a b _ => sarN w a b) (fun a b _ => a.sshiftRight b.toNat) :=
  fun a b _ => ofNat_sarN a b.toNat
theorem agrees_bfe : Agrees w (fun a b _ => bfeN sg w a b) (fun a b _ => bfe sg a b) := fun a b _ => ofNat_bfeN a b sg
theorem agrees_bfi : Agrees w (fun a b c => if w ≤ bits c 0 8 then b else bfiN w a b c) bfi := ofNat_bfiN
theorem agrees_popc :
    Agrees w (fun a _ _ => popN w a) (fun a _ _ => BitVec.ofNat w ((List.range w).countP (fun i => a.getLsbD i))) :=
  fun a _ _ => congrArg (BitVec.ofNat w) (popN_eq_countP a)
theorem agrees_clz : Agrees w (fun a _ _ => clzN w a) (fun a _ _ => a.clz) := fun a _ _ => ofNat_clzN a
theorem agrees_brev : Agrees w (fun a _ _ => brevN w a) (fun a _ _ => a.reverse) := fun a _ _ => ofNat_brevN a

end

/-! ## Words over whole registers (R347, R351, R364) -/

/-- LEA's sum in 64 bits has the sum of 32 bits below (R347). -/
theorem lo32_add_shiftLeft (a x : W64) (n : Nat) : lo32 (a + x <<< n) = lo32 a + lo32 x <<< n := by
  have hshift : lo32 (x <<< n) = lo32 x <<< n := by
    refine BitVec.eq_of_getLsbD_eq fun i hi => ?_
    simp [lo32, hi]
  rw [← hshift]
  exact BitVec.setWidth_add a (x <<< n) (by omega)

theorem idp4Val_eq (sg : Bool) (a b c : W64) :
    idp4Val sg a b c =
      let x (v : W64) (e : Nat) : W32 := if sg then (elem 8 e v).signExtend 32 else (elem 8 e v).setWidth 32
      (lo32 c + x a 0 * x b 0 + x a 1 * x b 1 + x a 2 * x b 2 + x a 3 * x b 3).setWidth 64 := by
  simp only [idp4Val, ← toNat_elem, elInt_toNat, extend_eq_ofInt, wrap_eq_toNat_ofInt, BitVec.ofNat_toNat, upto,
    List.range_succ, List.range_zero, List.nil_append, List.foldl_append, List.foldl_cons, List.foldl_nil, zero_add,
    BitVec.ofInt_add, BitVec.ofInt_mul, BitVec.ofInt_natCast, BitVec.setWidth_eq, add_assoc]

/-- Two halves side by side (R364). -/
theorem ofNat_two_halves (hi lo : BitVec 16) : BitVec.ofNat 64 (lo.toNat + hi.toNat * 2 ^ 16) = (hi ++ lo).setWidth 64 := by
  rw [← BitVec.ofNat_toNat, BitVec.toNat_append, ← Nat.shiftLeft_add_eq_or_of_lt lo.isLt, Nat.shiftLeft_eq, Nat.add_comm]

theorem wrap_satInt (lo hi : Int) (x : W32) : wrap 16 (satInt lo hi (sInt 32 x.toNat)) = (sat16 lo hi x).toNat := by
  rw [wrap_eq_toNat_ofInt, sInt_toNat]; rfl

/-- An element of at most 32 bits extended to a register (R364). -/
theorem ofNat_extend {w : Nat} (hw : w ≤ 32) (sg : Prop) [Decidable sg] (x : BitVec w) :
    BitVec.ofNat 64 (if sg then wrap 32 (sInt w x.toNat) else x.toNat) =
      if sg then (x.signExtend 32).setWidth 64 else (x.setWidth 32).setWidth 64 := by
  split
  · rw [wrap_eq_toNat_ofInt, sInt_toNat, BitVec.ofNat_toNat]; rfl
  · rw [BitVec.ofNat_toNat, BitVec.setWidth_setWidth (by omega)]

end Sys2Proof.Machine
end

section
/-! SUPPORT. The integer and bitwise words and the words over whole registers, one by one, and the two statements about
them (R338, R345 to R351, R364). -/

namespace Sys2Proof.Machine

open Sys2Proof.Safety

/-! ## The integer and bitwise words (R345, R346, R348 to R350) -/

/-- A register value whose elements are computed one by one. -/
def intVal (t : Ty) (hn : Nat → Nat → Nat → Nat) (a b c : W64) : W64 :=
  BitVec.ofNat 64 (packNat t.ew (fun e => hn (elemOf t.ew e a) (elemOf t.ew e b) (elemOf t.ew e c)) t.en)
theorem intLane_eq_pureLane (t : Ty) (hn : Nat → Nat → Nat → Nat) : intLane t hn = pureLane (intVal t hn) := rfl

theorem elem_intVal {t : Ty} {hn : Nat → Nat → Nat → Nat} {h : BitVec t.ew → BitVec t.ew → BitVec t.ew → BitVec t.ew}
    (hh : Agrees t.ew hn h) (a b c : W64) {e : Nat} (he : e < t.en) :
    elem t.ew e (intVal t hn a b c) = h (elem t.ew e a) (elem t.ew e b) (elem t.ew e c) := by
  rw [intVal, elem_packNat t _ he, ← hh, toNat_elem, toNat_elem, toNat_elem]

/-- The word computes its elements as numbers, the numbers agree with h, and of three sources h reads the first n. -/
def RunsInt (i : Instr) (f : VForm) (n : Nat) (h : (w : Nat) → BitVec w → BitVec w → BitVec w → BitVec w) : Prop :=
  ∃ hn, (∀ s, exec i s = .next (Res.retire f.sp (s.runInt f (srcUse n f.ty) s.cg.active hn))) ∧
    Agrees f.ty.ew hn (h f.ty.ew) ∧
    ∀ a b c, h f.ty.ew a (if 2 ≤ n then b else 0) (if 3 ≤ n then c else 0) = h f.ty.ew a b c

/-- Each word of elemRule, in its order there, computes its rule. -/
theorem runsInt_of_elemRule {i : Instr} {f : VForm} {n : Nat} {h : (w : Nat) → BitVec w → BitVec w → BitVec w → BitVec w}
    (hr : elemRule i = some (f, n, h)) : RunsInt i f n h := by
  unfold elemRule at hr
  split at hr <;> cases hr <;> refine ⟨_, fun _ => rfl, ?_, fun _ _ _ => rfl⟩
  · exact agrees_add
  · exact agrees_sub
  · exact agrees_mul
  · exact agrees_mulHigh _
  · exact agrees_mad
  · exact agrees_min _
  · exact agrees_max _
  · exact agrees_cmp _ _
  · exact agrees_sel
  · exact agrees_and
  · exact agrees_or
  · exact agrees_xor
  · exact agrees_andn
  · exact agrees_shl
  · exact agrees_shr
  · exact agrees_sar
  · exact agrees_bfe _
  · exact agrees_bfi
  · exact agrees_popc
  · exact agrees_clz
  · exact agrees_brev

/-- An element of a field that is read or not. -/
theorem elem_opnd_ite (g : Group) (w e : Nat) (p : Prop) [Decidable p] (u : Use) (f : BitVec 8) (l : Nat) :
    elem w e (g.opnd (if p then u else .no) f l) = if p then elem w e (g.opnd u f l) else 0 := by
  split
  · rfl
  · simp [Group.opnd, elem]

/-- The elements of the value an integer word computes in a lane. -/
theorem elem_laneVal_intVal {f : VForm} {n : Nat} {hn : Nat → Nat → Nat → Nat}
    {h : BitVec f.ty.ew → BitVec f.ty.ew → BitVec f.ty.ew → BitVec f.ty.ew} (hagree : Agrees f.ty.ew hn h)
    (hsrc : ∀ a b c, h a (if 2 ≤ n then b else 0) (if 3 ≤ n then c else 0) = h a b c) (g : Group) (l : Nat) {e : Nat}
    (he : e < f.ty.en) :
    elem f.ty.ew e (g.laneVal f (srcUse n f.ty) (intVal f.ty hn) l) =
      h (elem f.ty.ew e (g.opnd f.ty.use f.a l)) (elem f.ty.ew e (g.opnd f.ty.use f.b l))
        (elem f.ty.ew e (g.opnd f.ty.use f.c l)) := by
  rw [Group.laneVal, elem_intVal hagree _ _ _ he, srcUse, elem_opnd_ite, elem_opnd_ite, hsrc]

theorem use_beq_w64 (t : Ty) : (t.use == .w64) = t.is64 := by
  unfold Ty.use; cases t.is64 <;> rfl

/-! ## LEA, IDP4, PACK and UNPACK (R347, R351, R364) -/

/-- Two values are the same to a destination: in all bits, or in the low 32. -/
def SameTo (wide : Bool) (x y : W64) : Prop := lo32 x = lo32 y ∧ (wide = true → x = y)
theorem SameTo.of_eq {wide : Bool} {x y : W64} (h : x = y) : SameTo wide x y := ⟨congrArg lo32 h, fun _ => h⟩

/-- A destination does not tell apart values that are the same to it. -/
theorem written_of_sameTo {g g' : Group} {wide : Bool} {d : BitVec 8} {ex : Lanes} {x y : Nat → W64}
    (hxy : ∀ l, SameTo wide (x l) (y l)) (h : Written g g' wide d ex x) : Written g g' wide d ex y := by
  have hlo : ∀ l, lo32 (x l) = lo32 (y l) := fun l => (hxy l).1
  cases wide
  · simpa only [Written, hlo, Bool.false_eq_true, false_and, if_false] using h
  · have heq : x = y := funext fun l => (hxy l).2 rfl
    exact heq ▸ h

/-- The word computes one value from its sources, which its destination takes for that of h. -/
def RunsReg (i : Instr) (f : VForm) (u : VUse) (h : W64 → W64 → W64 → W64) : Prop :=
  ∃ hm, (∀ s, exec i s = .next (Res.retire f.sp (s.runV f u s.cg.active (pureLane hm) (pureLane hm)))) ∧
    ∀ a b c, SameTo (u.d == .w64) (hm a b c) (h a b c)

theorem lo32_extend (sg : Bool) (x : W32) : lo32 (if sg then x.signExtend 64 else x.setWidth 64) = x := by
  cases sg
  · simp [lo32]
  · refine BitVec.eq_of_getLsbD_eq fun i hi => ?_
    simp [lo32, BitVec.getLsbD_signExtend, hi]
    omega

/-- LEA adds in 64 bits or in 32, and a 32-bit destination holds the low half of both (R347). -/
theorem sameTo_leaVal {t : Ty} (ht : t.isN = true) (sh : Nat) (a b : W64) :
    SameTo (t.use == .w64) (leaVal t sh a b)
      (a + (if t.isSigned then (lo32 b).signExtend 64 else (lo32 b).setWidth 64) <<< sh) := by
  have hnarrow : ∀ x : W64, lo32 x = lo32 b → SameTo false ((lo32 a + lo32 b <<< sh).setWidth 64) (a + x <<< sh) :=
    fun x hx => ⟨by rw [lo32_add_shiftLeft, hx]; simp [lo32], fun h => by simp at h⟩
  cases t <;> cases ht
  case i32 => exact hnarrow _ (lo32_extend true _)
  case n32 => exact hnarrow _ (lo32_extend false _)
  case i64 => exact .of_eq rfl
  case n64 => exact .of_eq rfl

/-- PACK's halves by its selector (R364). -/
theorem packVal_eq (k : Nat) (a b : W64) :
    packVal k a b =
      let two (hi lo : BitVec 16) : W64 := (hi ++ lo).setWidth 64
      match k with
      | 0 => two (elem 16 0 b) (elem 16 0 a)
      | 1 => two (elem 16 1 b) (elem 16 1 a)
      | 2 => two (sat16 (-32768) 32767 (lo32 b)) (sat16 (-32768) 32767 (lo32 a))
      | _ => two (sat16 0 65535 (lo32 b)) (sat16 0 65535 (lo32 a)) := by
  match k with
  | 0 => simp only [packVal, ← ofNat_two_halves, toNat_elem]
  | 1 => simp only [packVal, ← ofNat_two_halves, toNat_elem]
  | 2 => simp only [packVal, ← ofNat_two_halves, if_true, wrap_satInt]
  | k + 3 =>
    have hk : k + 3 ≠ 2 := by omega
    simp only [packVal, ← ofNat_two_halves, hk, if_false, wrap_satInt]

/-- With DIR clear, FM and EL of a selector are its quotient and remainder by 8 (R362). -/
theorem cvtFm_of_dir_clear {k : BitVec 8} (h : cvtDir k = false) : cvtFm k = k.toNat / 8 := by
  have hk : 2 * k.toNat < 2 ^ 8 := BitVec.msb_eq_false_iff_two_mul_lt.1 h
  rw [cvtFm, ← bits_eq_toNat_extractLsb', bits]
  omega
theorem cvtEl_eq_mod (k : BitVec 8) : cvtEl k = k.toNat % 8 := by
  simp [cvtEl]

theorem unpackVal_eq {k : BitVec 8} (hdir : cvtDir k = false) (a : W64) :
    unpackVal k a =
      let w := if k.toNat / 8 ≤ 9 then 16 else 8
      let x := elem w (k.toNat % 8) a
      if k.toNat / 8 % 2 = 0 then (x.signExtend 32).setWidth 64 else (x.setWidth 32).setWidth 64 := by
  rw [unpackVal, cvtFm_of_dir_clear hdir, cvtEl_eq_mod]
  simp only [← toNat_elem]
  exact ofNat_extend (by split <;> omega) _ _

/-- Each word of regRule, in its order there, computes its rule. -/
theorem runsReg_of_regRule {i : Instr} {f : VForm} {u : VUse} {h : W64 → W64 → W64 → W64} (hr : regRule i = some (f, u, h))
    (hwf : i.wf = true) : RunsReg i f u h := by
  unfold regRule at hr
  split at hr <;> cases hr <;> refine ⟨_, fun _ => rfl, fun a b c => ?_⟩
  · simp only [Instr.wf, wfLea, Bool.and_eq_true, and_assoc] at hwf
    exact sameTo_leaVal hwf.1 _ a b
  · exact .of_eq (idp4Val_eq _ a b c)
  · exact .of_eq (packVal_eq _ a b)
  · simp only [Instr.wf, wfUnpack, Bool.and_eq_true, and_assoc, Bool.not_eq_true'] at hwf
    obtain ⟨-, -, -, -, hdir, -⟩ := hwf
    exact .of_eq (unpackVal_eq hdir a)

end Sys2Proof.Machine

namespace Sys2Proof.Safety

open Machine

/-- Settles O1: each word is done over its numbers, which agree element by element with its rule. -/
theorem integerWordsCompute : Obligations.IntegerWordsCompute := by
  intro i f n h s hrule _ hfree
  obtain ⟨hn, hexec, hagree, hsrc⟩ := runsInt_of_elemRule hrule
  obtain ⟨t, ht, hret, hflags, hkept, hwritten⟩ := computesV_of_exec (h := intVal f.ty hn) (hexec s) hfree
  refine ⟨t, ht, hret, hflags, hkept, fun hruns => ⟨_, ?_, fun l e _ he => elem_laneVal_intVal hagree hsrc s.cg l he⟩⟩
  rw [← use_beq_w64]
  exact hwritten hruns

/-- Settles O2: each word's one value is written, and its destination takes it for that of the rule. -/
theorem registerWordsCompute : Obligations.RegisterWordsCompute := by
  intro i f u h s hrule hwf hfree
  obtain ⟨hm, hexec, hsame⟩ := runsReg_of_regRule hrule hwf
  obtain ⟨t, ht, hret, hflags, hkept, hwritten⟩ := computesV_of_exec (hexec s) hfree
  exact ⟨t, ht, hret, hflags, hkept, fun hruns => written_of_sameTo (fun l => hsame _ _ _) (hwritten hruns)⟩

end Sys2Proof.Safety
end
